-- ==== Sys2Proof/Word.lean ====
section
/-! DEFINITION. Word.lean: the byte, and the plain data types that the spec's commands, records and
results are made of.  The operations over them stand in the files under Machine/. -/

namespace Sys2Proof

/-- The byte of document memory, of the platter and of the configuration memory (00_scope.md 5.2). -/
abbrev Byte := BitVec 8

/-- One of the two recording surfaces of a platter (00_scope.md, Terms: Side). -/
inductive Side
  | a
  | b
deriving DecidableEq, Repr

/-- A place on the media: volume serial, side and sector number (00_scope.md, Terms: Location). -/
structure Location where
  serial : Nat
  side : Side
  sector : Nat
deriving DecidableEq, Repr

/-- A system-side transfer as a master puts it on the system bus (R24): its master number, whether it
is a write, its first address, its length in bytes, and for a write the bytes written. -/
structure Transfer where
  master : Nat
  write : Bool
  addr : Nat
  len : Nat
  data : List Byte
deriving DecidableEq, Repr

/-- How the control-area check of frame 0 ended (R190): every word good, a word that read back
differently, or a parity fault on a read-back word, each with its byte address. -/
inductive CheckResult
  | good
  | mismatch (addr : Nat)
  | parity (addr : Nat)
deriving DecidableEq, Repr

/-- What a cell probe reports: nothing there, a strip that cannot be read, or the strip's serial and
whether it carries the factory-blank mark (R73, R80). -/
inductive Probe
  | nothing
  | unreadable
  | strip (serial : Nat) (blank : Bool)
deriving DecidableEq, Repr

/-- What a drive delivers of sector 0 of the facing side at a LOAD (R199): the sector unwritten, or
its bytes with whether its syndrome was nonzero. -/
inductive LabelSector
  | unwritten
  | bytes (syndrome : Bool) (data : List Byte)
deriving DecidableEq, Repr

/-- What an OK completion of LOAD reports (R90): no platter, or the strip read by the drive's own
reader, the facing side, and sector 0 of that side. -/
inductive LoadResult
  | noPlatter
  | platter (serial : Nat) (blank : Bool) (side : Side) (label : LabelSector)
deriving DecidableEq, Repr

/-- The report of one sector in a READ or REREAD completion (R92): CLEAN, SYNDROME with its 32-bit
value (R198), or UNWRITTEN. -/
inductive SectorReport
  | clean
  | syndrome (v : Nat)
  | unwritten
deriving DecidableEq, Repr

/-- One sector as a READ or REREAD brings it into a buffer position: its report and its bytes. -/
structure SectorRead where
  report : SectorReport
  data : List Byte
deriving DecidableEq, Repr

/-- How a VERIFY completes (R93). -/
inductive VerifyResult
  | pass
  | fail
  | fault
deriving DecidableEq, Repr

/-- What becomes of the battery-held store while main power is absent (R191): it is kept, its own
supply fails and the retention mark is lost, or its contents no longer match the check value. -/
inductive StoreFate
  | kept
  | supplyFailed
  | corrupted
deriving DecidableEq, Repr

end Sys2Proof
end

