-- ==== Sys2Proof/Syntax.lean ====
section
/-! DEFINITION. Syntax.lean: the commands of the LR-490, one constructor per row of
spec/opcode_table.json, in the table's order.  An operand is what the outside decides: which master,
which slot, which drive, and what a sensor, the arm, a drive or document memory reports. -/

namespace Sys2Proof

/-- A command: one event of the table, whole and indivisible (spec/95_what_each_step_holds.md). -/
inductive Instr
  /-- POWER_UP (R190): main power is applied; `delivered` says whether the configuration memory
  delivers its record whole (R189). -/
  | powerUp (delivered : Bool)
  /-- CONTROL_AREA_CHECK_DONE (R190): the read-back of frame 0 ends. -/
  | controlAreaCheckDone (result : CheckResult)
  /-- INITIALIZATION_DONE (R192): the last start-up write completes. -/
  | initializationDone
  /-- SYSTEM_RESET (R193): the bus reset line is asserted. -/
  | systemReset
  /-- SYSTEM_TRANSFER (R28): a system-bus transfer arrives. -/
  | systemTransfer (t : Transfer)
  /-- CLAIM_READ (R43): `master` reads the claim word of `slot`. -/
  | claimRead (master slot : Nat)
  /-- POST (R44): `master` writes POSTED to the state word of `slot`. -/
  | post (master slot : Nat)
  /-- RELEASE_CLAIM (R45): `master` writes FREE to the state word of a claimed `slot`. -/
  | releaseClaim (master slot : Nat)
  /-- RELEASE_SLOT (R46): `master` writes FREE to the state word of an ended `slot`. -/
  | releaseSlot (master slot : Nat)
  /-- CANCEL (R47): `master` writes CANCEL to the state word of `slot`. -/
  | cancel (master slot : Nat)
  /-- STATE_WORD_REFUSED (R48): `master` writes `value` to the state word of `slot`. -/
  | stateWordRefused (master slot value : Nat)
  /-- CONSUMER_INDEX_WRITE (R59): `master` writes `value` to the consumer index word. -/
  | consumerIndexWrite (master value : Nat)
  /-- PORT_GRANT (R37): the arbiter grants the free memory-side port. -/
  | portGrant
  /-- MEMORY_ACCESS_COMPLETE (R39): the granted access completes; `bad` are the addresses of bytes
  that memory newly reports with a parity fault on a read (R33). -/
  | memoryAccessComplete (bad : List Nat)
  /-- ACCEPTANCE_READ_DONE (R50): the sixteenth acceptance read completes. -/
  | acceptanceReadDone (bad : List Nat)
  /-- SETTINGS_WRITE_DONE (R195): the configuration memory write completes. -/
  | settingsWriteDone
  /-- ACCOUNT_STATEMENT_RECORD (R187): the next account is taken and its record written. -/
  | accountStatementRecord
  /-- LOG_STATEMENT_RECORD (R169): the next log statement record is taken and written. -/
  | logStatementRecord
  /-- INVENTORY_STATEMENT_RECORD (R69): the next inventory record is taken and written. -/
  | inventoryStatementRecord
  /-- WRITE_BACK_DONE (R54): the last write of a result write-back completes. -/
  | writeBackDone
  /-- NOTICE_WRITE_DONE (R57): a notice record write completes. -/
  | noticeWriteDone
  /-- MOVE_END (R72): the arm reports the move ended. -/
  | moveEnd
  /-- IMPORT_PROBE_RESULT (R73): the probe that begins an IMPORT move reports. -/
  | importProbeResult (probe : Probe)
  /-- MOVE_TIMEOUT (R74): the 40 s move timer expires. -/
  | moveTimeout
  /-- HANDOFF_PLACED (R75): the sensor of hand-off cell `cell` (0 for H0, 1 for H1) reports placed. -/
  | handoffPlaced (cell : Nat)
  /-- HANDOFF_TAKEN (R75): the sensor of hand-off cell `cell` reports taken. -/
  | handoffTaken (cell : Nat)
  /-- HATCH_BUTTON (R78): the hatch button is pressed. -/
  | hatchButton
  /-- RELEASE_WINDOW_EXPIRY (R79): the 60 s release window expires. -/
  | releaseWindowExpiry
  /-- HATCH_OPENED (R79): the hatch sensor reports opened. -/
  | hatchOpened
  /-- HATCH_CLOSED (R79): the hatch sensor reports closed. -/
  | hatchClosed
  /-- RE_HOME_END (R80): the re-homing move ends and reports whether the hand holds a platter. -/
  | reHomeEnd (holdsPlatter : Bool)
  /-- PROBE_RESULT (R81): an audit probe reports. -/
  | probeResult (probe : Probe)
  /-- LOAD_COMPLETE (R90): a LOAD completes, `none` for FAULT. -/
  | loadComplete (drive : Nat) (result : Option LoadResult)
  /-- POWER_UP_LOAD_COMPLETE (R99): a power-up LOAD completes, `none` for FAULT. -/
  | powerUpLoadComplete (drive : Nat) (result : Option LoadResult)
  /-- FIND_WRITE_POINT_COMPLETE (R91): the first unwritten sector is reported, `none` for FAULT. -/
  | findWritePointComplete (drive : Nat) (result : Option Nat)
  /-- READ_COMPLETE (R92): a READ completes with its sectors, `none` for FAULT. -/
  | readComplete (drive : Nat) (result : Option (List SectorRead))
  /-- REREAD_COMPLETE (R160): a REREAD completes, `none` for FAULT. -/
  | rereadComplete (drive : Nat) (result : Option SectorRead)
  /-- SECTOR_PLACED (R12): the thirty-second write of a sector completes. -/
  | sectorPlaced
  /-- RELOCATION_JOB_HIT (R166): the new relocation job for `frame` takes its hold. -/
  | relocationJobHit (frame : Nat)
  /-- BUFFER_LOADED (R88): a loading stream of `drive` fills its last position. -/
  | bufferLoaded (drive : Nat) (bad : List Nat)
  /-- BURN_COMPLETE (R93): a BURN completes, `ok` or with FAULT. -/
  | burnComplete (drive : Nat) (ok : Bool)
  /-- VERIFY_COMPLETE (R93): a VERIFY completes. -/
  | verifyComplete (drive : Nat) (result : VerifyResult)
  /-- UNLOAD_COMPLETE (R94): an UNLOAD completes, `ok` or with FAULT. -/
  | unloadComplete (drive : Nat) (ok : Bool)
  /-- RESTORE_COMPLETE (R98): a RESTORE completes; `none` for FAULT, else whether a platter is there. -/
  | restoreComplete (drive : Nat) (present : Option Bool)
  /-- DRIVE_TIMEOUT (R95): the timer of the drive's command reaches its limit. -/
  | driveTimeout (drive : Nat)
  /-- SWEEP_IDLE_EXPIRY (R182): the idle timer of copier port `port` reaches its limit. -/
  | sweepIdleExpiry (port : Nat)
  /-- MAIN_POWER_LOSS (R191): main power fails; `fate` says what becomes of the battery-held store. -/
  | mainPowerLoss (fate : StoreFate)
deriving DecidableEq, Repr

end Sys2Proof
end

