-- ==== Sys2Proof/Config.lean ====
section
/-! DEFINITION. Config.lean: the fixed sizes and limits the spec gives the part, and the free values
that it leaves open (constants without a body, of which no proof can see the value). -/

namespace Sys2Proof.Config

/-- The byte that the control-area check number `epoch` leaves at address `addr` of frame 0: the
complement of the check's pattern, or part of it where the check stopped; R190 gives no pattern. -/
opaque checkPattern : Nat → Nat → Byte

/-- The order-kind byte of the PICKER_FAULT notice of an audit move that no order kind of R70 names, at a time
and for the fault of a given number: a free value (log entry 27). -/
opaque auditFaultKind : Nat → Nat → Byte

/-- What an address of document memory that nothing has written reads as (log entry 4). -/
def dramByte : Byte := 0

/-- A frame is 131,072 bytes (00_scope.md 5.4). -/
def frameBytes : Nat := 131072

/-- A sector is 1,024 bytes (00_scope.md 5.4). -/
def sectorBytes : Nat := 1024

/-- A side holds 524,288 sectors (00_scope.md 5.4). -/
def sideSectors : Nat := 524288

/-- The largest value of a 16-bit counter (00_scope.md 5.1). -/
def max16 : Nat := 65535

/-- The largest value of a 32-bit counter (00_scope.md 5.1). -/
def max32 : Nat := 4294967295

/-- The number of consequences and dispatch passes that one command may have before the
model gives up: far above what any command needs (log entry 9). -/
def fuel : Nat := 1000000

/-- The suspension list holds at most 6 entries (R115). -/
def suspensionRoom : Nat := 6

/-- The relocation job list holds at most 4 jobs (R165). -/
def relocationJobs : Nat := 4

/-- The correction log holds up to 32 entries (R162). -/
def logRoom : Nat := 32

/-- The move timer's limit, 40 s, in tenths of a second (R72). -/
def moveLimit : Nat := 400

/-- The release window, 60 s, in tenths of a second (R78). -/
def windowLimit : Nat := 600

end Sys2Proof.Config
end

