-- ==== Sys2Proof/Machine/State.lean ====
section
/-! DEFINITION. State.lean: everything the spec gives the LR-490 to hold, block by block, as plain
data; the reasons a step can stop; and the machine right after power-up (`State.reset`). -/

namespace Sys2Proof.Machine

/-! ### Names shared by the blocks -/

/-- The result codes of R56 and R196. -/
inductive Code
  | ok | corrected | damaged | idMismatch | notWritten | volumeUnknown | volumeMissing | driveFault
  | pickerFault | timeout | memoryParity | noFrames | grantsFull | badRequest | badFrame
  | accountClosed | accountBusy | unsettled | alreadyOpen | refusedDamaged | mediaExhausted
  | filingFailed | sequenceUnset | noCell | roleActive | aborted
deriving DecidableEq, Repr

/-- The request kinds of R51. -/
inductive Kind
  | fetch | file | importVol | exportVol | openScan | discardScan | openHatch | openAccount
  | closeAccount | accountStatement | setFees | logStatement | inventoryStatement | ackRelocation
  | restoreDrive | closePair | setDeedSequence | writeSettings
deriving DecidableEq, Repr

/-- An entry of the agent table: the class of a master, with the port of a SCANNER or COPIER (R21). -/
inductive Agent
  | processor
  | scanner (port : Nat)
  | copier (port : Nat)
  | unlisted
deriving DecidableEq, Repr

/-- The agent classes, as the violation counters and the notices name them (R21, R34). -/
inductive AgentClass
  | processor | scanner | copier | unlisted
deriving DecidableEq, Repr

/-- Why a write was withheld or refused (R35). -/
inductive Reason
  | addressRange | classRegion | frameState | scanOwner | slotProtocol | ringIndex
deriving DecidableEq, Repr

/-- The kind of a grant (R173). -/
inductive GrantKind
  | plain | certified | statutory
deriving DecidableEq, Repr

/-- The role of a volume (R63). -/
inductive Role
  | unverified | blank | primary | safety | retired
deriving DecidableEq, Repr

/-- Why a filing pair closes (R135). -/
inductive CloseCause
  | full | request | filingFailed | volumeMissing
deriving DecidableEq, Repr

/-- The link commands of a drive (R89). -/
inductive Command
  | load | findWritePoint | read | reread | burn | verify | unload | restore
deriving DecidableEq, Repr

/-- The picker order kinds (R70). -/
inductive OrderKind
  | mount | unmount | flip | importIn | exportOut | probe
deriving DecidableEq, Repr

/-- The start that a start-up record and a STARTED notice name (R194). -/
inductive StartCause
  | powerUp | systemReset
deriving DecidableEq, Repr

/-- What asked for the hatch to be released (R78). -/
inductive ReleaseCause
  | button | request
deriving DecidableEq, Repr

/-! ### Settings (R189): the working copies each block keeps until the next power-up -/

/-- The settings as loaded at power-up, the fee schedule apart (it is the Fee Meter's, and SET FEES
changes it); `image` is the settings image the Start-Up Unit holds. -/
structure Settings where
  mem64 : Bool
  retry : Nat
  correction : Bool
  relocation : Bool
  preemption : Bool
  threshold : Nat
  idleLimit : Nat
  voidByte : Byte
  agents : List Agent
  image : List Byte
deriving DecidableEq, Repr

/-- One row of the fee schedule: the three fees of a deed class (R172). -/
structure FeeRow where
  plain : Nat
  certified : Nat
  certification : Nat
deriving DecidableEq, Repr

/-- The configuration memory: the record's bytes, and whether it stands there whole (R189, R195). -/
structure ConfigMemory where
  bytes : List Byte
  whole : Bool
deriving DecidableEq, Repr

/-! ### Document memory -/

/-- Document memory: the bytes written (addresses strictly rising), the number of the control-area
check whose pattern stands in the unlisted bytes of frame 0, if any, and the bytes whose parity bit
is wrong (R33). -/
structure Memory where
  cells : List Host.Cell
  pattern : Option Nat
  checks : Nat
  faulted : List Nat
deriving DecidableEq, Repr

/-- One write to memory: a first address and the bytes it changes.  An internal transfer covers the whole words that
those bytes lie in (R36); the bytes of these words that a result leaves undefined keep what memory held (R196, log
entry 55). -/
structure MemWrite where
  addr : Nat
  bytes : List Byte
deriving DecidableEq, Repr

/-! ### Path Unit (R21 to R40) -/

/-- The internal movers in the arbiter's cycle (R39). -/
inductive Mover
  | frameMover | slotUnit | feeMeter | mediaCheck | inventory | startUp
deriving DecidableEq, Repr

/-- What an internal transfer holding the port is for: a stream of buffer `idx` (drive `idx / 2`,
buffer `idx % 2`), the Slot Unit's head job, a statement's next record, the next start-up write, the
next read of a settings record, or a write whose mover has abandoned the work (R40). -/
inductive Purpose
  | stream (idx : Nat)
  | slotWork
  | accountRecord
  | logRecord
  | inventoryRecord
  | startWrite
  | settingsRead
  | orphan (w : Option MemWrite)
deriving DecidableEq, Repr

/-- The memory-side port: free, granted to a system transfer (`answered` is false once a bus reset
has taken its answer away, R23), or granted to an internal mover (R37). -/
inductive Port
  | free
  | system (t : Transfer) (answered : Bool)
  | mover (m : Mover) (p : Purpose)
deriving DecidableEq, Repr

/-- The bus answers a master can see (R22): data (the void pattern among them), retry, the data-fault
response, the normal completion of a write. -/
inductive BusAnswer
  | data (bytes : List Byte)
  | retry
  | dataFault
  | written
deriving DecidableEq, Repr

/-- The Path Unit's state (R34, R37, R38, R39), with the transfer waiting on the bus and the last
answer given on it. -/
structure PathUnit where
  vioProcessor : Nat
  vioScanner : Nat
  vioCopier : Nat
  vioUnlisted : Nat
  port : Port
  waiting : Option Transfer
  fairness : Nat
  turn : Mover
  answer : Option (Nat × BusAnswer)
deriving DecidableEq, Repr

/-! ### Frame Unit (R1 to R20) -/

/-- Whether the header read of a page has been issued (R1). -/
inductive FillPhase
  | pending | started
deriving DecidableEq, Repr

/-- The content fields that go together (R1): deed class, deed sequence, page index, image length. -/
structure PageInfo where
  deedClass : Nat
  deedSeq : Nat
  pageIndex : Nat
  imageLen : Nat
deriving DecidableEq, Repr

/-- A holder of a frame (R2): a request, named by its slot, or a relocation job, named by its entry of
the relocation table. -/
inductive Holder
  | slot (n : Nat)
  | relocation (entry : Nat)
deriving DecidableEq, Repr

/-- A frame record, with the fields the table of R1 shows present in each state; the hold count is the
number of holders (R2). -/
inductive Frame
  | empty
  | filling (tag : Location) (phase : FillPhase) (info : Option PageInfo) (fillMark : Nat)
      (damaged corrected : Bool) (holders : List Holder)
  | sealed (tag : Location) (info : PageInfo) (damaged corrected : Bool) (holders : List Holder)
  | scan (owner : Nat)
  | filing (tag : Option Location) (info : PageInfo) (owner : Nat) (holders : List Holder)
deriving DecidableEq, Repr

/-- An entry of the frame-wait queue (R8); the frames it needs are counted from the job's misses. -/
structure WaitEntry where
  job : Nat
  level : Nat
  age : Nat
deriving DecidableEq, Repr

/-- The Frame Unit's state: the records of frames 1, 2, …, the two lists and the queue. -/
structure FrameUnit where
  frames : List Frame
  emptyList : List Nat
  reclaim : List Nat
  waitQueue : List WaitEntry
deriving DecidableEq, Repr

/-! ### Slot Unit (R41 to R62) -/

/-- The slot states (R42). -/
inductive SlotState
  | free | claimed | posted | accepted | active | cancelling | done | failed
deriving DecidableEq, Repr

/-- What carries a request out (R41): a job of the Scheduler, or an operation in a block. -/
inductive JobRef
  | job (id : Nat)
  | operation
deriving DecidableEq, Repr

/-- The outcome recorded when an end report is taken (R41, R54). -/
structure Ended where
  done : Bool
  code : Code
  count : Nat
deriving DecidableEq, Repr

/-- A slot table record (R41).  The frames a request holds and the grants it owns are read from the
frame records and the grant table, which name the slot. -/
structure SlotRec where
  state : SlotState
  claimer : Option Nat
  kind : Option Kind
  notify : Option Bool
  age : Option Nat
  jobRef : Option JobRef
  outcome : Option Ended
deriving DecidableEq, Repr

/-- The notices with their fields (R58).  `auditFault` is the PICKER_FAULT notice of a fault in an audit's
re-homing or put-away, which is no order: the time and the number of the fault choose its free value (log entry
27). -/
inductive Notice
  | started (cause : StartCause) (batteryGood settingsGood : Bool)
  | slotDone (slot : Nat) (kind : Option Kind) (done : Bool) (code : Code) (count : Nat)
  | grantUsed (slot frame port account : Nat)
  | relocated (old new : Location)
  | violation (master : Nat) (agent : Agent) (addr : Nat) (reason : Reason)
  | hatchReleased (cause : ReleaseCause)
  | auditDone (created missing : Nat)
  | driveFault (drive : Nat) (timeout : Bool) (command : Option Command)
  | pickerFault (order : OrderKind) (serial : Option Nat)
  | auditFault (time number : Nat) (serial : Option Nat)
  | pairClosed (primary safety : Nat) (cause : CloseCause)
  | blanksLow (count : Nat)
  | sweepLost (port frame : Nat) (idle : Bool)
deriving DecidableEq, Repr

/-- A job of the Slot Unit's memory work list (R49). -/
inductive WorkJob
  | acceptance (slot : Nat)
  | writeBack (slot : Nat) (writes : List MemWrite)
  | notice (pos : Nat) (n : Notice)
deriving DecidableEq, Repr

/-- The Slot Unit's state.  `reserved` holds the mark of each position reserved from the producer index
onward (its length is the number of notices being written); `workDone` counts the completed transfers
of the head job; the `accept` fields hold what the acceptance reads have brought; `held` keeps notices
taken before the control area is ready, until their positions can be given (log entry 15). -/
structure SlotUnit where
  slots : List SlotRec
  producer : Nat
  consumer : Nat
  lost : Nat
  reserved : List Bool
  line : Bool
  work : List WorkJob
  workDone : Nat
  acceptData : List Byte
  acceptFault : Bool
  acceptKindFault : Bool
  nextAge : Nat
  held : List Notice
deriving DecidableEq, Repr

/-! ### Inventory and Picker Controller (R63 to R84) -/

/-- A place a volume can be recorded in (R63): cells 0 to 87 are shelf cells, 88 and 89 are H0 and H1. -/
inductive Loc
  | cell (n : Nat)
  | drive (d : Nat)
  | hand
  | missing
deriving DecidableEq, Repr

/-- The per-side fields of a volume record (R63). -/
structure SideRec where
  writePoint : Nat
  confirmed : Bool
  full : Bool
  corrected : Nat
deriving DecidableEq, Repr

/-- A volume record (R63). -/
structure Volume where
  serial : Nat
  role : Role
  partner : Option Nat
  pairClosed : Option Bool
  loc : Loc
  home : Option Nat
  missingOrder : Option Nat
  sideA : SideRec
  sideB : SideRec
deriving DecidableEq, Repr

/-- What a picker order serves (R70): a job, a RESTORE DRIVE operation of a slot, or nothing any more
(after a system reset, R84). -/
inductive Requester
  | job (id : Nat)
  | restore (slot : Nat)
  | nobody
deriving DecidableEq, Repr

/-- A picker order (R70).  Whether it is eligible is computed from the drive it names. -/
structure Order where
  kind : OrderKind
  drive : Option Nat
  volume : Option Nat
  side : Option Side
  cell : Option Nat
  level : Nat
  number : Nat
  requester : Requester
deriving DecidableEq, Repr

/-- Where a move ends: a cell or a drive. -/
inductive Place
  | cell (n : Nat)
  | drive (d : Nat)
deriving DecidableEq, Repr

/-- What the hand carries in a move. -/
inductive Carried
  | nothing
  | volume (serial : Nat)
  | unrecorded
deriving DecidableEq, Repr

/-- What a move is for: an order in progress (R72), the audit's re-homing, its put-away and its
probes (R80). -/
inductive MoveFor
  | order (o : Order)
  | reHome
  | putAway
  | probe (cell : Nat)
deriving DecidableEq, Repr

/-- The move in progress, under its 40 s timer: for an IMPORT, `probed` says that the probe that
begins it has let the platter be carried, with the strip it read. -/
structure Move where
  what : MoveFor
  startedAt : Nat
  src : Option Place
  dest : Option Place
  carried : Carried
  probed : Bool
  strip : Option (Nat × Bool)
deriving DecidableEq, Repr

/-- The picker state (R71, R74); MOVING is the presence of a move. -/
inductive PickerState
  | idle | moving | fault
deriving DecidableEq, Repr

/-- The hatch states (R78). -/
inductive HatchState
  | locked | releasePending | released | opened | auditing
deriving DecidableEq, Repr

/-- How far an audit has gone (R80): waiting for a move in progress to end, in its moves, or stopping
at the end of the move in progress because the hatch was opened (R79). -/
inductive AuditPhase
  | waiting | running | stopping
deriving DecidableEq, Repr

/-- A running audit: records created so far, and the serials recorded MISSING at its start (R82). -/
structure Audit where
  phase : AuditPhase
  created : Nat
  missingBefore : List Nat
deriving DecidableEq, Repr

/-- The Picker Controller's state.  `handUnrecorded` notes that the hand holds an unrecorded platter
(R74); `windowStart` is the release window timer while it runs (R78); `hatchOps` are the OPEN HATCH
requests waiting, in order (R78); `auditFaults` counts the picker faults that no order kind names (log entry 27).
The lock, the lamp and the gates follow from these (R75, R78). -/
structure Picker where
  state : PickerState
  move : Option Move
  orders : List Order
  nextOrder : Nat
  handUnrecorded : Bool
  marks : List Bool
  hatch : HatchState
  releaseCause : ReleaseCause
  pendingRelease : Option ReleaseCause
  windowStart : Option Nat
  audit : Option Audit
  hatchOps : List Nat
  auditFaults : Nat
deriving DecidableEq, Repr

/-! ### Drive Controllers and Frame Mover (R85 to R100) -/

/-- The drive states (R86). -/
inductive DriveState
  | empty | loading | ready | busy | unloading | fault
deriving DecidableEq, Repr

/-- The volume of a drive record: a serial, or UNIDENTIFIED (R85). -/
inductive DriveVolume
  | serial (n : Nat)
  | unidentified
deriving DecidableEq, Repr

/-- A side label report (R90, R199). -/
inductive LabelReport
  | none
  | label (serial : Nat) (role : Role) (partner : Nat) (side : Side)
  | unreadable
deriving DecidableEq, Repr

/-- What the last LOAD completion reported (R85). -/
structure LoadReport where
  serial : Nat
  blank : Bool
  side : Side
  label : LabelReport
deriving DecidableEq, Repr

/-- A link command in progress, with its parameters and the time of its issue (R85); `discard` marks
one whose completion is to be discarded (R100, R161). -/
structure Issued where
  command : Command
  buf : Nat
  start : Nat
  count : Nat
  pos : Nat
  issuedAt : Nat
  discard : Bool
deriving DecidableEq, Repr

/-- The buffer states (R87). -/
inductive BufferState
  | free | reading | held | loading | burning | verifying
deriving DecidableEq, Repr

/-- What a buffer serves: the page task of a frame, or an item of the filing pipeline (R87). -/
inductive Serves
  | task (frame : Nat)
  | item (id : Nat)
deriving DecidableEq, Repr

/-- A buffer record (R87): `positions` are the reports and the data of the positions filled, `moved`
counts positions moved; `handed` says that its BURN has been handed, `burned` that its BURN completed
and its VERIFY is the next command. -/
structure Buffer where
  state : BufferState
  serves : Option Serves
  side : Side
  start : Nat
  count : Nat
  positions : List SectorRead
  moved : Nat
  handed : Bool
  burned : Bool
deriving DecidableEq, Repr

/-- A READ asked of a drive by a page task and not yet issued: the header READ or the data READ of the
task of a frame (R89). -/
structure ReadAsk where
  frame : Nat
  data : Bool
deriving DecidableEq, Repr

/-- What the LOAD in progress is for: a mount, flip or reload judged by R90, the power-up load, or the
reload of an UNIDENTIFIED platter, which R94 takes as R99 does. -/
inductive LoadFor
  | mount | powerUp | unidentified
deriving DecidableEq, Repr

/-- A drive record (R85).  `reloadNext` is set when the drive's order ended while its UNLOAD was still
in progress (R94). -/
structure Drive where
  state : DriveState
  volume : Option DriveVolume
  side : Side
  loadReport : Option LoadReport
  command : Option Issued
  unloadAsked : Bool
  rereads : List (Nat × Nat)
  asks : List ReadAsk
  lastSector : Option Nat
  readySince : Nat
  faultTimeout : Bool
  faultCommand : Option Command
  loadFor : LoadFor
  reloadNext : Bool
  bufA : Buffer
  bufB : Buffer
deriving DecidableEq, Repr

/-- A stream of the Frame Mover (R88): its buffer (drive `idx / 2`, buffer `idx % 2`), its frame (0 for
a label item, which has none), its direction, the next position, the transfers made of it, and the
bytes read so far of the position being filled. -/
structure Stream where
  idx : Nat
  frame : Nat
  loading : Bool
  pos : Nat
  done : Nat
  total : Nat
  acc : List Byte
deriving DecidableEq, Repr

/-- The Frame Mover's streams, its rotating pointer over the eight buffers, and the stream whose transfer it
presents to the arbiter (R88). -/
structure FrameMover where
  streams : List Stream
  pointer : Nat
  presented : Option Nat
deriving DecidableEq, Repr

/-- How far a RESTORE DRIVE operation has gone (R98). -/
inductive RestorePhase
  | waiting | restoring | unloading | ordered
deriving DecidableEq, Repr

/-- A RESTORE DRIVE operation in hand or waiting (R98). -/
structure RestoreOp where
  slot : Nat
  drive : Nat
  phase : RestorePhase
deriving DecidableEq, Repr

/-! ### Scheduler (R101 to R117) -/

/-- The job kinds (R101); an IMPORT names its hand-off cell, an EXPORT and a label check their volume,
a relocation its table entry. -/
inductive JobKind
  | fetch
  | file
  | importIn (cell : Nat)
  | exportOut (serial : Nat)
  | relocation (entry : Nat)
  | labelCheck (serial : Nat)
deriving DecidableEq, Repr

/-- The job states (R102); an ENDED job has no record. -/
inductive JobState
  | queued | waitingFrames | waitingMedia | running | stopping | suspended
deriving DecidableEq, Repr

/-- Where a need stands (R105): unplaced, in a drive's task list, or in its flip list. -/
inductive Placement
  | unplaced
  | tasks (d : Nat)
  | flips (d : Nat)
deriving DecidableEq, Repr

/-- A mount need: a volume side, with its placement (R101, R105), and whether a preemption for it is held (R113). -/
structure Need where
  serial : Nat
  side : Side
  place : Placement
  held : Bool
deriving DecidableEq, Repr

/-- The pair need of a burn job (R106).  While a running job's need for new volumes is unplaced, the seats name the drives
the job holds for them: for each volume the drive it lies in, or the one that holds the volume it replaces (R106, R144). -/
structure PairNeed where
  primary : Nat
  safety : Nat
  side : Side
  placed : Bool
  primarySeat : Option Nat := none
  safetySeat : Option Nat := none
deriving DecidableEq, Repr

/-- A job record (R101). -/
structure Job where
  id : Nat
  kind : JobKind
  level : Nat
  age : Nat
  slot : Option Nat
  state : JobState
  started : Bool
  needs : List Need
  pair : Option PairNeed
  pendingPreempt : Bool
  awaited : List Nat
  cancelTaken : Bool
deriving DecidableEq, Repr

/-- The kinds of departure, other than a FLIP, that a drive can have pending (R111). -/
inductive DepartureKind
  | labelUnmount
  | exportOut (job : Nat)
deriving DecidableEq, Repr

/-- A pending departure other than a FLIP, and whether its picker order has been placed (R111). -/
structure Departure where
  kind : DepartureKind
  placed : Bool
deriving DecidableEq, Repr

/-- An exchange coming into a drive (R108): the volume, the side to face, the job and level of the need
that asked for it. -/
structure Incoming where
  serial : Nat
  side : Side
  job : Nat
  level : Nat
deriving DecidableEq, Repr

/-- A drive assignment record (R105 to R114): task list (tasks named by their frames), flip list (jobs), a pending
FLIP with whether its order has been placed (R109), a pending departure of another kind, which waits behind a
FLIP (R111), holder, claim for burning, incoming exchange, reservation, and the label check job attached and
waiting for its LOAD report.  `victims` are the jobs with work on the drive when a preemption chose it, until it is reserved
(R114). -/
structure Assign where
  tasks : List Nat
  flips : List Nat
  flip : Option Bool
  departure : Option Departure
  holder : Option Nat
  claim : Option Nat
  incoming : Option Incoming
  reserved : Option Nat
  label : Option Nat
  victims : List Nat
deriving DecidableEq, Repr

/-- An entry of the suspension list: a victim and the job that preempted it (R115). -/
structure Suspension where
  victim : Nat
  preemptor : Nat
deriving DecidableEq, Repr

/-- The Scheduler's state. -/
structure Scheduler where
  jobs : List Job
  queues : List (List Nat)
  suspended : List Suspension
  assigns : List Assign
  nextJob : Nat
deriving DecidableEq, Repr

/-! ### Retrieval Unit (R118 to R134) -/

/-- A grant spec of a FETCH request (R118). -/
structure GrantSpec where
  port : Nat
  kind : GrantKind
  copies : Nat
  account : Nat
deriving DecidableEq, Repr

/-- How a page was resolved (R120). -/
inductive Way
  | hit | join | miss
deriving DecidableEq, Repr

/-- A page entry of a FETCH job (R120); `share` names the earlier page whose miss this page shares
(R124), `chosen` the location chosen to be read; the page is FINAL when `code` is present. -/
structure PageEntry where
  requested : Location
  candidates : List Location
  way : Option Way
  chosen : Option Location
  share : Option Nat
  frame : Option Nat
  refused : Bool
  code : Option Code
deriving DecidableEq, Repr

/-- A FETCH job record (R120). -/
structure FetchJob where
  job : Nat
  slot : Nat
  serial : Nat
  side : Side
  specs : List GrantSpec
  resolved : Bool
  pages : List PageEntry
deriving DecidableEq, Repr

/-- The phases of a page task (R126). -/
inductive TaskPhase
  | unplaced | header | data | emptying
deriving DecidableEq, Repr

/-- A page task (R126), named by its frame; `drive` is the drive it is placed on, `origin` whether the
header accepted for it carries an origin (R165). -/
structure Task where
  frame : Nat
  loc : Location
  carrier : Option Nat
  phase : TaskPhase
  drive : Option Nat
  origin : Bool
deriving DecidableEq, Repr

/-- The Retrieval Unit's state. -/
structure Retrieval where
  fetches : List FetchJob
  tasks : List Task
deriving DecidableEq, Repr

/-! ### Filing Unit (R135 to R157) -/

/-- The filing pair record (R135). -/
inductive PairRec
  | absent
  | establishing (primary safety : Nat) (side : Side) (triedPrimary triedSafety : Bool)
  | active (primary safety : Nat) (side : Side)
  | closing (primary safety : Nat) (side : Side) (cause : CloseCause)
deriving DecidableEq, Repr

/-- An item of the burn pipeline: a page of the job, or a label item with a copy for the primary, the
safety or both (R142). -/
inductive Item
  | page (index : Nat)
  | label (primary safety : Bool)
deriving DecidableEq, Repr

/-- Where a page was placed (R142). -/
structure PlacedAt where
  primary : Nat
  safety : Nat
  side : Side
  sector : Nat
deriving DecidableEq, Repr

/-- A page entry of a burn job (R142). -/
structure BurnPage where
  frame : Nat
  imageLen : Nat
  attempts : Nat
  placed : Option PlacedAt
deriving DecidableEq, Repr

/-- A burn job record (R142); `failing` is the code of the first failure taken (R152). -/
structure BurnJob where
  job : Nat
  slot : Option Nat
  entry : Option Nat
  deedClass : Nat
  deedSeq : Nat
  pageIndex : Nat
  stamp : List Byte
  origin : Option Location
  pages : List BurnPage
  waiting : List Item
  failing : Option Code
deriving DecidableEq, Repr

/-- The state of one copy of an item in flight. -/
inductive CopyState
  | loading | loaded | handed | passed | failed
deriving DecidableEq, Repr

/-- One copy of an item in flight: the volume it goes to, and its drive and buffer. -/
structure Copy where
  serial : Nat
  drive : Nat
  buf : Nat
  state : CopyState
deriving DecidableEq, Repr

/-- An item in flight (R142, R145): its job (absent once a system reset has ended it, R157), its start
sector, its record length, its side, and its copies. -/
structure Flight where
  id : Nat
  item : Item
  job : Option Nat
  start : Nat
  length : Nat
  side : Side
  primary : Option Copy
  safety : Option Copy
deriving DecidableEq, Repr

/-- The Filing Unit's volatile state; `turned` is set from a crossing to side B, and from a power-up that finds a pair
on side B, until a side B label has passed on both volumes or their side B load reports have been judged (R148); `closeOps` are the CLOSE FILING PAIR requests in order (R150). -/
structure Filing where
  burns : List BurnJob
  flight : List Flight
  nextItem : Nat
  turned : Bool
  closeOps : List Nat
deriving DecidableEq, Repr

/-! ### Media Check Unit (R158 to R171) -/

/-- The judging of one position of a page read (R158). -/
inductive Judged
  | clean
  | corrected
  | uncorrectable
  | pending (reads latest : Nat)
deriving DecidableEq, Repr

/-- A judging record (R158): the position judgements are listed by position. -/
structure Judging where
  frame : Nat
  loc : Location
  positions : List (Nat × Judged)
  tally : Nat
  uncorrectable : Bool
  entries : List Nat
deriving DecidableEq, Repr

/-- The relocation mark of a log entry (R162). -/
inductive LogMark
  | none | scheduled | deferred
deriving DecidableEq, Repr

/-- A correction log entry (R162); `syndrome` holds the offset and pattern applied when corrected, the
last syndrome otherwise. -/
structure LogEntry where
  seq : Nat
  loc : Location
  reads : Nat
  corrected : Bool
  syndrome : Nat
  mark : LogMark
deriving DecidableEq, Repr

/-- An entry of the relocation table (R163). -/
inductive RelocEntry
  | free
  | reserved (old : Location)
  | awaitingAck (old new : Location)
deriving DecidableEq, Repr

/-- An entry of the relocation job list (R166); `job` is the Scheduler's job once the job has taken its
hold. -/
structure RelocJob where
  frame : Nat
  old : Location
  entry : Nat
  entries : List Nat
  job : Option Nat
deriving DecidableEq, Repr

/-- The Media Check Unit's volatile state. -/
structure MediaCheck where
  judging : List Judging
  log : List LogEntry
  lost : Nat
  counter : Nat
  relocJobs : List RelocJob
deriving DecidableEq, Repr

/-! ### Fee Meter (R172 to R188) -/

/-- The state of a grant, with the fees an OPEN one has (R173). -/
inductive GrantState
  | setAside
  | reserved (frame : Nat)
  | opened (frame fee certification : Nat) (certificationCharged : Bool)
deriving DecidableEq, Repr

/-- A grant (R173).  `order` counts the grants set aside since the start without a limit: it is the model's own record
of which of two grants of equal number was set aside first. -/
structure Grant where
  number : Nat
  order : Nat
  state : GrantState
  slot : Nat
  page : Nat
  port : Nat
  account : Nat
  kind : GrantKind
  copies : Nat
  charged : Nat
deriving DecidableEq, Repr

/-- A sweep cursor on a frame: the next offset, and when its idle timer was last started (R177). -/
structure Cursor where
  frame : Nat
  next : Nat
  timerAt : Nat
deriving DecidableEq, Repr

/-- An account (R184); its grant count is read from the grant table. -/
structure Account where
  isOpen : Bool
  total : Nat
  loss : Nat
  plain : Nat
  certified : Nat
  statutory : Nat
deriving DecidableEq, Repr

/-- A statement in hand or waiting (R69, R169, R187): its slot and target frame, whether it clears, the
next record, how many of that record's transfers have been made, and what was taken in one step and is still to be
written: the log with its summary, or the inventory summary. -/
structure Statement where
  slot : Nat
  frame : Nat
  clear : Bool
  next : Nat
  piece : Nat
  taken : List (List Byte)
deriving DecidableEq, Repr

/-- The Fee Meter's volatile state: an entry of the grant table or a cursor is absent when free or
idle.  `nextOrder` is the `order` that the next grant set aside takes (R173). -/
structure FeeMeter where
  fees : List FeeRow
  grants : List (Option Grant)
  nextGrant : Nat
  nextOrder : Nat
  cursors : List (Option Cursor)
deriving DecidableEq, Repr

/-- The statements in hand, in order, of the Fee Meter, the Media Check Unit and the Inventory (R53). -/
structure Statements where
  account : List Statement
  log : List Statement
  inventory : List Statement
deriving DecidableEq, Repr

/-! ### Battery-held store and Start-Up Unit (R189 to R195) -/

/-- The battery-held store (00_scope.md 2.1, R191): its records, its retention mark, and whether its
check value matches its contents. -/
structure Store where
  volumes : List (Option Volume)
  missingCounter : Nat
  pair : PairRec
  deedSeq : Nat
  relocs : List RelocEntry
  accounts : List Account
  retention : Bool
  checkMatches : Bool
deriving DecidableEq, Repr

/-- How far the power-up steps have gone (R190, R192): no main power; steps 1 and 2; the failed-check
mode; steps 3 to 5; step 6; past step 6. -/
inductive Stage
  | off | checking | failed | drives | audit | done
deriving DecidableEq, Repr

/-- A WRITE SETTINGS operation (R195): the bytes read so far, and whether the write of the
configuration memory has begun. -/
structure SettingsOp where
  slot : Nat
  frame : Nat
  got : List Byte
  writing : Bool
deriving DecidableEq, Repr

/-- The Start-Up Unit's state: the stage, the next start-up write while step 4 (or the failed check's
record) is being written, the fields of the start-up record it last wrote, step 5's reports, and
whether STARTED has been taken since the last start. -/
structure StartUp where
  stage : Stage
  initNext : Option Nat
  cause : StartCause
  batteryGood : Bool
  settingsGood : Bool
  checkCode : Nat
  loadsIssued : Bool
  driveReported : List Bool
  auditDone : Bool
  started : Bool
  settleReported : Bool
  settingsOps : List SettingsOp
  configWriting : Option (List Byte)
deriving DecidableEq, Repr

/-! ### The whole machine -/

/-- The records of the thirteen blocks, document memory and the working settings apart. -/
structure Parts where
  path : PathUnit
  frame : FrameUnit
  slot : SlotUnit
  picker : Picker
  drives : List Drive
  mover : FrameMover
  restores : List RestoreOp
  sched : Scheduler
  retr : Retrieval
  filing : Filing
  media : MediaCheck
  fee : FeeMeter
  stmts : Statements
  store : Store
  startup : StartUp
deriving DecidableEq, Repr

/-- The LR-490 with document memory, the working settings, the configuration memory, the clock in
tenths of a second (00_scope.md 5.3), and the queue of commands waiting. -/
structure State extends Parts where
  mem : Memory
  settings : Settings
  config : ConfigMemory
  now : Nat
  pending : List Instr
deriving DecidableEq, Repr

/-- Why a step stops with a fault. -/
inductive Fault
  /-- Raised by every meaning whose command is not `Instr.wf`: its operands name a master, slot, port,
  cell, drive or report that does not exist on this hardware, or a transfer that R24 says no master
  makes.  Safe: the part never meets such a command. -/
  | noSuchCommand
deriving DecidableEq, Repr

/-- Why a step is refused. -/
inductive Refusal
  /-- Raised by a command that has no meaning yet, naming its mnemonic.  Safe.  No command of this model
  is in that case. -/
  | notModelled (mnemonic : String)
deriving DecidableEq, Repr

/-! ### Values after power-up -/

/-- R189: the default agent table. -/
def defaultAgents : List Agent :=
  [.processor, .processor, .processor, .processor,
   .scanner 0, .scanner 1, .scanner 2, .scanner 3,
   .copier 0, .copier 1, .copier 2, .copier 3, .copier 4, .copier 5, .copier 6, .copier 7]

/-- R189: every field at its default, used when the settings record is not good.  The image is then empty (log entry
78). -/
def defaultSettings : Settings :=
  { mem64 := false, retry := 2, correction := true, relocation := true, preemption := true,
    threshold := 4, idleLimit := 300, voidByte := 0, agents := defaultAgents, image := [] }

/-- R172: every fee 0. -/
def zeroFees : List FeeRow := List.replicate 16 { plain := 0, certified := 0, certification := 0 }

/-- R40: the arbiter at power-up; R34: the four violation counters 0. -/
def PathUnit.start : PathUnit :=
  { vioProcessor := 0, vioScanner := 0, vioCopier := 0, vioUnlisted := 0, port := .free,
    waiting := none, fairness := 0, turn := .frameMover, answer := none }

/-- R1: 255 image frames with 32 MB, 511 with 64 MB. -/
def frameCount (mem64 : Bool) : Nat := if mem64 then 511 else 255

/-- R19: every frame EMPTY, the empty list full and ascending. -/
def FrameUnit.start (mem64 : Bool) : FrameUnit :=
  { frames := List.replicate (frameCount mem64) .empty,
    emptyList := (List.range (frameCount mem64)).map (· + 1), reclaim := [], waitQueue := [] }

/-- R61: a FREE slot, every other field absent. -/
def SlotRec.blank : SlotRec :=
  { state := .free, claimer := none, kind := none, notify := none, age := none, jobRef := none,
    outcome := none }

/-- R61: every slot FREE, the indices and the lost count 0, the work list empty, acceptance numbers
from 1. -/
def SlotUnit.start : SlotUnit :=
  { slots := List.replicate 64 SlotRec.blank, producer := 0, consumer := 0, lost := 0, reserved := [],
    line := false, work := [], workDone := 0, acceptData := [], acceptFault := false,
    acceptKindFault := false, nextAge := 1, held := [] }

/-- R83: the picker IDLE, no order, order numbers from 1, every mark CLEAR, the hatch LOCKED. -/
def Picker.start : Picker :=
  { state := .idle, move := none, orders := [], nextOrder := 1, handUnrecorded := false,
    marks := List.replicate 90 false, hatch := .locked, releaseCause := .button, pendingRelease := none,
    windowStart := none, audit := none, hatchOps := [], auditFaults := 0 }

/-- A FREE buffer (R87). -/
def Buffer.blank : Buffer :=
  { state := .free, serves := none, side := .a, start := 0, count := 0, positions := [], moved := 0,
    handed := false, burned := false }

/-- R99: a drive as step 5 sets it before its power-up LOAD is issued. -/
def Drive.start : Drive :=
  { state := .loading, volume := none, side := .a, loadReport := none, command := none,
    unloadAsked := false, rereads := [], asks := [], lastSector := none, readySince := 0,
    faultTimeout := false, faultCommand := none, loadFor := .powerUp, reloadNext := false,
    bufA := Buffer.blank, bufB := Buffer.blank }

/-- R88: no stream, the pointer at drive 0 A, nothing presented. -/
def FrameMover.start : FrameMover := { streams := [], pointer := 0, presented := none }

/-- R117: a clear drive assignment record. -/
def Assign.clear : Assign :=
  { tasks := [], flips := [], flip := none, departure := none, holder := none, claim := none, incoming := none,
    reserved := none, label := none, victims := [] }

/-- R117: no jobs, empty queues, an empty suspension list, clear assignment records. -/
def Scheduler.start : Scheduler :=
  { jobs := [], queues := [[], [], [], []], suspended := [], assigns := List.replicate 4 Assign.clear,
    nextJob := 1 }

/-- R134: no FETCH job records and no page tasks. -/
def Retrieval.start : Retrieval := { fetches := [], tasks := [] }

/-- R156: no burn job in hand at power-up. -/
def Filing.start : Filing := { burns := [], flight := [], nextItem := 1, turned := false, closeOps := [] }

/-- R170: no judging record, an empty log, the first entry numbered 1, no relocation job. -/
def MediaCheck.start : MediaCheck := { judging := [], log := [], lost := 0, counter := 0, relocJobs := [] }

/-- R188: an empty grant table, every cursor idle, grant numbers from 1. -/
def FeeMeter.start (fees : List FeeRow) : FeeMeter :=
  { fees := fees, grants := List.replicate 512 none, nextGrant := 1, nextOrder := 1,
    cursors := List.replicate 8 none }

/-- No statement in hand. -/
def Statements.start : Statements := { account := [], log := [], inventory := [] }

/-- R188: a CLOSED account with everything 0. -/
def Account.closed : Account :=
  { isOpen := false, total := 0, loss := 0, plain := 0, certified := 0, statutory := 0 }

/-- R191: the records of a LOST store. -/
def Store.lost : Store :=
  { volumes := List.replicate 128 none, missingCounter := 0, pair := .absent, deedSeq := 0,
    relocs := List.replicate 64 .free, accounts := List.replicate 128 Account.closed,
    retention := true, checkMatches := true }

/-- The Start-Up Unit at the application of main power: steps 1 and 2 in hand (R190). -/
def StartUp.start (settingsGood : Bool) : StartUp :=
  { stage := .checking, initNext := none, cause := .powerUp, batteryGood := false,
    settingsGood := settingsGood, checkCode := 0, loadsIssued := false,
    driveReported := [false, false, false, false], auditDone := false, started := false,
    settleReported := false, settingsOps := [], configWriting := none }

/-- Every block at its power-up values (R19, R40, R61, R83, R99, R117, R134, R156, R170, R188), over a
battery-held store. -/
def Parts.start (mem64 settingsGood : Bool) (fees : List FeeRow) (store : Store) : Parts :=
  { path := PathUnit.start, frame := FrameUnit.start mem64, slot := SlotUnit.start,
    picker := Picker.start, drives := List.replicate 4 Drive.start, mover := FrameMover.start,
    restores := [], sched := Scheduler.start, retr := Retrieval.start, filing := Filing.start,
    media := MediaCheck.start, fee := FeeMeter.start fees, stmts := Statements.start, store := store,
    startup := StartUp.start settingsGood }

/-- Memory in which nothing has been written. -/
def Memory.blank : Memory := { cells := [], pattern := none, checks := 0, faulted := [] }

/-- The machine right after power-up, its control-area check in hand, with a configuration memory that
holds no record and a battery-held store that no supply has kept (log entry 13). -/
def State.reset : State :=
  { toParts := Parts.start false false zeroFees { Store.lost with retention := false },
    mem := Memory.blank, settings := defaultSettings, config := { bytes := [], whole := false },
    now := 0, pending := [] }

end Sys2Proof.Machine
end

