-- ==== Sys2Proof/Machine/Run.lean ====
section
/-! DEFINITION. Run.lean: the working copy on which one command is carried out.  A command is whole: its
first effect is made at once, and what it causes in other blocks is listed and taken before the
command ends (`Machine/Settle.lean`), so no consequence outlives its command (log entry 8). -/

namespace Sys2Proof.Machine

/-- A consequence still to be taken inside the command in hand: what one block tells another. -/
inductive Todo
  /-- Serve the frame-wait queue (R9). -/
  | service
  /-- Take the grant decision of the arm (R71). -/
  | arm
  /-- Tell a requester how its picker order ended, `none` when done, with the serial and the destination
  cell of an IMPORT or EXPORT that was done (R72, R73, R74). -/
  | orderEnded (o : Order) (code : Option Code) (serial cell : Nat)
  /-- Let a Drive Controller issue its next command or take its next state (R86, R89). -/
  | drive (d : Nat)
  /-- Tell the Scheduler that a drive is READY (R90, R91, R108). -/
  | driveReady (d : Nat)
  /-- Tell the other blocks that a drive has entered FAULT (R96). -/
  | driveFault (d : Nat) (timeout : Bool)
  /-- The Inventory reports a volume MISSING or removed (R64). -/
  | volumeGone (serial : Nat)
  /-- A fill fails with a code (R14, R129). -/
  | fillFail (frame : Nat) (code : Code)
  /-- See whether a FETCH job has ended (R131). -/
  | fetchEnd (job : Nat)
  /-- See whether a STOPPING job has reached its safe point (R114). -/
  | safePoint (job : Nat)
  /-- Let the Filing Unit's pipeline go on (R145, R146, R148, R149). -/
  | pump
  /-- Place the next page task of a drive (R110). -/
  | placeTasks (d : Nat)
  /-- Place a pending departure's order once the drive's lists allow it (R109, R111). -/
  | depart (d : Nat)
  /-- Hand a LOAD report to the Inventory and the Filing Unit (R90). -/
  | loadReport (d : Nat)
  /-- The Filing Unit is told that a burn job's need or one of its drives failed (R152). -/
  | burnFails (job : Nat) (code : Code)
  /-- Let the hatch advance (R78). -/
  | hatch
  /-- Let the audit go on (R80). -/
  | audit
  /-- Let the start-up sequence go on (R192, R193). -/
  | startup
  /-- Begin the RESTORE DRIVE operations that may begin (R53, R98). -/
  | restores
  /-- Take the waiting CLOSE FILING PAIR requests (R150). -/
  | closes
  /-- Let an EXPORT job act by where its volume lies (R77). -/
  | exportAct (job : Nat)
  /-- Let the Frame Mover present its next transfer (R88). -/
  | present
deriving DecidableEq, Repr

/-- The working copy: the records of the blocks, the settings and the clock to read, the consequences
still to be taken, whether a dispatch pass is wanted after them (R104), and whether that pass takes held
preemptions first because an entry has left the suspension list (R113). -/
structure Run extends Parts where
  settings : Settings
  now : Nat
  todo : List Todo
  pass : Bool
  heldFirst : Bool
deriving DecidableEq, Repr

/-- The working copy a command begins with. -/
def Run.of (s : State) : Run :=
  { toParts := s.toParts, settings := s.settings, now := s.now, todo := [], pass := false, heldFirst := false }

/-- The state a command leaves: the blocks' records from the working copy; document memory, settings,
configuration memory, clock and queue as they were. -/
def State.withRun (s : State) (r : Run) : State := { s with toParts := r.toParts }

/-- List a consequence after those already listed. -/
def Run.push (r : Run) (t : Todo) : Run := { r with todo := r.todo ++ [t] }

/-- The frame-wait queue is served on the claim just made, before what else is listed (R9). -/
def Run.serveFirst (r : Run) : Run :=
  { r with todo := if r.todo.head? = some .service then r.todo else .service :: r.todo }

/-- Ask for a dispatch pass once the consequences have been taken (R104). -/
def Run.wantPass (r : Run) : Run := { r with pass := true }

end Sys2Proof.Machine
end

