-- ==== Sys2Proof/WellFormed.lean ====
section
/-! DEFINITION. WellFormed.lean: which operands a command may carry: the master numbers, slots, ports,
cells and drives that exist, serials and reports within their widths, and the form of a bus transfer. -/

namespace Sys2Proof

/-- R24: a transfer begins on a 4-byte boundary, is 4 to 32 bytes long in whole words, lies within one
32-byte block of the 64 MB window, and a write carries as many bytes as its length. -/
def Transfer.wf (t : Transfer) : Bool :=
  decide (t.master < 16) && decide (t.addr % 4 = 0) && decide (t.len % 4 = 0) &&
  decide (4 ≤ t.len) && decide (t.addr % 32 + t.len ≤ 32) && decide (t.addr + t.len ≤ 67108864) &&
  (if t.write then decide (t.data.length = t.len) else decide (t.data.length = 0))

/-- A serial as read from a label strip: 32 bits, not zero (R63). -/
def serialWf (n : Nat) : Bool := decide (0 < n) && decide (n < 4294967296)

/-- R190: a check result names a byte of frame 0. -/
def CheckResult.wf : CheckResult → Bool
  | .good => true
  | .mismatch a => decide (a < 131072)
  | .parity a => decide (a < 131072)

/-- A probe's strip serial is a serial. -/
def Probe.wf : Probe → Bool
  | .nothing => true
  | .unreadable => true
  | .strip n _ => serialWf n

/-- Sector data is at most one sector of 1,024 bytes (00_scope.md 5.4). -/
def LabelSector.wf : LabelSector → Bool
  | .unwritten => true
  | .bytes _ d => decide (d.length ≤ 1024)

/-- A load report's strip serial is a serial, and its label sector at most one sector. -/
def LoadResult.wf : LoadResult → Bool
  | .noPlatter => true
  | .platter n _ _ l => serialWf n && l.wf

/-- R92, R198: a syndrome is a nonzero 32-bit value. -/
def SectorReport.wf : SectorReport → Bool
  | .clean => true
  | .syndrome v => decide (0 < v) && decide (v < 4294967296)
  | .unwritten => true

/-- One sector read: a report in range and at most 1,024 bytes. -/
def SectorRead.wf (r : SectorRead) : Bool := r.report.wf && decide (r.data.length ≤ 1024)

/-- An optional report is well-formed when it is absent or its value is. -/
def optWf {α : Type} (f : α → Bool) : Option α → Bool
  | none => true
  | some x => f x

/-- The operands of a command are ones that exist on this hardware. -/
def Instr.wf : Instr → Bool
  | .powerUp _ => true
  | .controlAreaCheckDone r => r.wf
  | .initializationDone => true
  | .systemReset => true
  | .systemTransfer t => t.wf
  | .claimRead m s => decide (m < 16) && decide (s < 64)
  | .post m s => decide (m < 16) && decide (s < 64)
  | .releaseClaim m s => decide (m < 16) && decide (s < 64)
  | .releaseSlot m s => decide (m < 16) && decide (s < 64)
  | .cancel m s => decide (m < 16) && decide (s < 64)
  | .stateWordRefused m s v => decide (m < 16) && decide (s < 64) && decide (v < 4294967296)
  | .consumerIndexWrite m v => decide (m < 16) && decide (v < 4294967296)
  | .portGrant => true
  | .memoryAccessComplete _ => true
  | .acceptanceReadDone _ => true
  | .settingsWriteDone => true
  | .accountStatementRecord => true
  | .logStatementRecord => true
  | .inventoryStatementRecord => true
  | .writeBackDone => true
  | .noticeWriteDone => true
  | .moveEnd => true
  | .importProbeResult p => p.wf
  | .moveTimeout => true
  | .handoffPlaced c => decide (c < 2)
  | .handoffTaken c => decide (c < 2)
  | .hatchButton => true
  | .releaseWindowExpiry => true
  | .hatchOpened => true
  | .hatchClosed => true
  | .reHomeEnd _ => true
  | .probeResult p => p.wf
  | .loadComplete d r => decide (d < 4) && optWf LoadResult.wf r
  | .powerUpLoadComplete d r => decide (d < 4) && optWf LoadResult.wf r
  | .findWritePointComplete d r => decide (d < 4) && optWf (fun n => decide (n ≤ 524288)) r
  | .readComplete d r => decide (d < 4) && optWf (fun l => l.all SectorRead.wf && decide (l.length ≤ 129)) r
  | .rereadComplete d r => decide (d < 4) && optWf SectorRead.wf r
  | .sectorPlaced => true
  | .relocationJobHit f => decide (0 < f) && decide (f < 512)
  | .bufferLoaded d _ => decide (d < 4)
  | .burnComplete d _ => decide (d < 4)
  | .verifyComplete d _ => decide (d < 4)
  | .unloadComplete d _ => decide (d < 4)
  | .restoreComplete d _ => decide (d < 4)
  | .driveTimeout d => decide (d < 4)
  | .sweepIdleExpiry p => decide (p < 8)
  | .mainPowerLoss _ => true

end Sys2Proof
end

