-- ==== Sys2Proof/Machine/Ops.lean ====
section
/-! DEFINITION. Ops.lean: the named operations over document memory and over the records every block
uses: bytes and their order, memory reads and writes, the records of slots, frames, drives, jobs and
volumes by number, the taking of a notice (R57), a violation (R34) and an end report (R54). -/

namespace Sys2Proof.Machine

open Sys2Proof.Config

/-! ### Bytes -/

/-- The `n` little-endian bytes of a number (00_scope.md 5.2). -/
def leBytes : Nat → Nat → List Byte
  | 0, _ => []
  | n + 1, v => BitVec.ofNat 8 v :: leBytes n (v / 256)

/-- The number that little-endian bytes spell. -/
def fromLe : List Byte → Nat
  | [] => 0
  | b :: bs => b.toNat + 256 * fromLe bs

/-- Byte `i` of a record, 0 beyond its end. -/
def byteAt (bs : List Byte) (i : Nat) : Nat := (bs.getD i 0).toNat

/-- The 2-byte field at offset `i`. -/
def half (bs : List Byte) (i : Nat) : Nat := byteAt bs i + 256 * byteAt bs (i + 1)

/-- The 4-byte field at offset `i`. -/
def word (bs : List Byte) (i : Nat) : Nat := half bs i + 65536 * half bs (i + 2)

/-- A record padded with zero bytes, or cut, to `n` bytes. -/
def padTo (n : Nat) (bs : List Byte) : List Byte := (bs ++ List.replicate n 0).take n

/-- A record of `n` bytes with fields put at their offsets, zero elsewhere (log entry 79); fields are given in
ascending order. -/
def layout (n : Nat) (fields : List (Nat × List Byte)) : List Byte :=
  padTo n (fields.foldl (fun acc f => padTo f.1 acc ++ f.2) [])

/-- Increment a counter that stops at `cap` (00_scope.md 5.1). -/
def satInc (cap n : Nat) : Nat := if n < cap then n + 1 else n

/-- `n / d` rounded up. -/
def ceilDiv (n d : Nat) : Nat := (n + d - 1) / d

/-! ### Document memory -/

/-- The listed byte at an address. -/
def cellAt : List Host.Cell → Nat → Option Byte
  | [], _ => none
  | (k, v) :: rest, a => if k = a then some v else cellAt rest a

/-- Put a byte at an address of a rising list, or take the address out of it. -/
def cellPut : List Host.Cell → Nat → Option Byte → List Host.Cell
  | [], a, some v => [(a, v)]
  | [], _, none => []
  | (k, w) :: rest, a, o =>
    if k < a then (k, w) :: cellPut rest a o
    else if k = a then (match o with | some v => (a, v) :: rest | none => rest)
    else (match o with | some v => (a, v) :: (k, w) :: rest | none => (k, w) :: rest)

/-- Whether the control-area check's pattern stands at an unlisted address (R190). -/
def Memory.patterned (m : Memory) (a : Nat) : Bool := m.pattern.isSome && decide (a < frameBytes)

/-- What an unlisted address reads as: in frame 0 after a control-area check the check's pattern, a
free value; elsewhere the byte of log entry 4. -/
def Memory.unlisted (m : Memory) (a : Nat) : Byte :=
  if a < frameBytes then (match m.pattern with | some k => checkPattern k a | none => dramByte)
  else dramByte

/-- The byte at an address. -/
def Memory.read (m : Memory) (a : Nat) : Byte := (cellAt m.cells a).getD (m.unlisted a)

/-- Whether a byte written at an address is listed: always where the unlisted byte is a free value,
otherwise when it differs from the unlisted byte. -/
def Memory.lists (m : Memory) (a : Nat) (v : Byte) : Bool := m.patterned a || v != dramByte

/-- Write one byte, with fresh parity (R33). -/
def Memory.writeByte (m : Memory) (a : Nat) (v : Byte) : Memory :=
  { m with cells := cellPut m.cells a (if m.lists a v then some v else none),
           faulted := m.faulted.filter (fun b => b != a) }

/-- Write bytes at ascending addresses. -/
def Memory.write (m : Memory) (a : Nat) : List Byte → Memory
  | [] => m
  | v :: vs => Memory.write (m.writeByte a v) (a + 1) vs

/-- Make a list of writes, in order. -/
def Memory.writes (m : Memory) (ws : List MemWrite) : Memory :=
  ws.foldl (fun m w => m.write w.addr w.bytes) m

/-- Read `n` bytes at ascending addresses. -/
def Memory.readBytes (m : Memory) (a n : Nat) : List Byte := (List.range n).map (fun i => m.read (a + i))

/-- Memory reports a parity fault on some byte of a range (R33). -/
def Memory.faults (m : Memory) (a n : Nat) : Bool :=
  m.faulted.any (fun b => decide (a ≤ b) && decide (b < a + n))

/-- Put an address in a rising list without repeats. -/
def insertUp (a : Nat) : List Nat → List Nat
  | [] => [a]
  | b :: bs => if a < b then a :: b :: bs else if a = b then b :: bs else b :: insertUp a bs

/-- Memory newly reports faults on those bytes of `bad` that lie in a range being read; the fault stays
until the byte is written again (R33). -/
def Memory.learnFaults (m : Memory) (a n : Nat) (bad : List Nat) : Memory :=
  { m with faulted := (bad.filter (fun b => decide (a ≤ b) && decide (b < a + n))).foldl (fun l b => insertUp b l) m.faulted }

/-- A list of numbers strictly rises. -/
def rising : List Nat → Bool
  | [] => true
  | [_] => true
  | a :: b :: rest => decide (a < b) && rising (b :: rest)

/-- The canonical form of memory: addresses strictly rising, no entry that an unlisted address would
read as, and the faulted bytes strictly rising. -/
def Memory.wf (m : Memory) : Bool :=
  rising (m.cells.map (fun c => c.1)) && m.cells.all (fun c => m.lists c.1 c.2) && rising m.faulted

/-- Split a write into pieces that each lie within one 32-byte block (R36); `fuel` bounds the pieces. -/
def splitWrite : Nat → Nat → List Byte → List MemWrite
  | 0, _, _ => []
  | fuel + 1, a, bs =>
    if bs.isEmpty then []
    else
      let n := 32 - a % 32
      { addr := a, bytes := bs.take n } :: splitWrite fuel (a + n) (bs.drop n)

/-- A write as the run of internal transfers that makes it (R36). -/
def pieces (a : Nat) (bs : List Byte) : List MemWrite := splitWrite (bs.length + 1) a bs

/-! ### Records by number -/

/-- The agent of a master number (R21). -/
def Settings.agent (c : Settings) (master : Nat) : Agent := c.agents.getD master .unlisted

/-- The class of an agent (R21). -/
def Agent.cls : Agent → AgentClass
  | .processor => .processor
  | .scanner _ => .scanner
  | .copier _ => .copier
  | .unlisted => .unlisted

/-- The record of image frame `n` (R1). -/
def Run.frameAt (r : Run) (n : Nat) : Frame := if n = 0 then .empty else r.frame.frames.getD (n - 1) .empty

/-- A frame number names an image frame (R1). -/
def Run.isImageFrame (r : Run) (n : Nat) : Bool := decide (0 < n) && decide (n ≤ r.frame.frames.length)

/-- Replace the record of image frame `n`. -/
def Run.setFrame (r : Run) (n : Nat) (f : Frame) : Run :=
  if n = 0 then r else { r with frame := { r.frame with frames := r.frame.frames.set (n - 1) f } }

/-- The record of slot `n` (R41). -/
def Run.slotAt (r : Run) (n : Nat) : SlotRec := r.slot.slots.getD n SlotRec.blank

/-- Change the record of slot `n`. -/
def Run.modSlot (r : Run) (n : Nat) (f : SlotRec → SlotRec) : Run :=
  { r with slot := { r.slot with slots := r.slot.slots.modify n f } }

/-- The record of drive `d` (R85). -/
def Run.driveAt (r : Run) (d : Nat) : Drive := r.drives.getD d Drive.start

/-- Change the record of drive `d`. -/
def Run.modDrive (r : Run) (d : Nat) (f : Drive → Drive) : Run := { r with drives := r.drives.modify d f }

/-- Buffer 0 is A, buffer 1 is B (R87). -/
def Drive.buf (v : Drive) (b : Nat) : Buffer := if b = 0 then v.bufA else v.bufB

/-- Change a buffer record. -/
def Drive.modBuf (v : Drive) (b : Nat) (f : Buffer → Buffer) : Drive :=
  if b = 0 then { v with bufA := f v.bufA } else { v with bufB := f v.bufB }

/-- Change buffer `b` of drive `d`. -/
def Run.modBuf (r : Run) (d b : Nat) (f : Buffer → Buffer) : Run := r.modDrive d (fun v => v.modBuf b f)

/-- The drive assignment record of drive `d` (R105). -/
def Run.assignAt (r : Run) (d : Nat) : Assign := r.sched.assigns.getD d Assign.clear

/-- Change the assignment record of drive `d`. -/
def Run.modAssign (r : Run) (d : Nat) (f : Assign → Assign) : Run :=
  { r with sched := { r.sched with assigns := r.sched.assigns.modify d f } }

/-- The job record with an identity (R101). -/
def Run.jobAt (r : Run) (id : Nat) : Option Job := r.sched.jobs.find? (fun j => j.id == id)

/-- Change a job record. -/
def Run.modJob (r : Run) (id : Nat) (f : Job → Job) : Run :=
  { r with sched := { r.sched with jobs := r.sched.jobs.map (fun j => if j.id = id then f j else j) } }

/-- The FETCH job record of a job (R120). -/
def Run.fetchAt (r : Run) (id : Nat) : Option FetchJob := r.retr.fetches.find? (fun j => j.job == id)

/-- Change a FETCH job record. -/
def Run.modFetch (r : Run) (id : Nat) (f : FetchJob → FetchJob) : Run :=
  { r with retr := { r.retr with fetches := r.retr.fetches.map (fun j => if j.job = id then f j else j) } }

/-- The page task of a frame (R126). -/
def Run.taskAt (r : Run) (frame : Nat) : Option Task := r.retr.tasks.find? (fun t => t.frame == frame)

/-- Change the page task of a frame. -/
def Run.modTask (r : Run) (frame : Nat) (f : Task → Task) : Run :=
  { r with retr := { r.retr with tasks := r.retr.tasks.map (fun t => if t.frame = frame then f t else t) } }

/-- Remove the page task of a frame. -/
def Run.dropTask (r : Run) (frame : Nat) : Run :=
  { r with retr := { r.retr with tasks := r.retr.tasks.filter (fun t => t.frame != frame) } }

/-- The burn job record of a job (R142). -/
def Run.burnAt (r : Run) (id : Nat) : Option BurnJob := r.filing.burns.find? (fun j => j.job == id)

/-- Change a burn job record. -/
def Run.modBurn (r : Run) (id : Nat) (f : BurnJob → BurnJob) : Run :=
  { r with filing := { r.filing with burns := r.filing.burns.map (fun j => if j.job = id then f j else j) } }

/-- The volume record of a serial, if the table holds one (R63). -/
def Store.volume (s : Store) (serial : Nat) : Option Volume :=
  (s.volumes.find? (fun o => match o with | some v => v.serial == serial | none => false)).join

/-- The volume record of a serial. -/
def Run.volume (r : Run) (serial : Nat) : Option Volume := r.store.volume serial

/-- Where a volume is recorded (R63). -/
def Run.locOf (r : Run) (serial : Nat) : Option Loc := (r.volume serial).map (fun v => v.loc)

/-- Change the volume record of a serial. -/
def Run.modVolume (r : Run) (serial : Nat) (f : Volume → Volume) : Run :=
  { r with store := { r.store with volumes := r.store.volumes.map (fun o =>
      match o with
      | some v => if v.serial = serial then some (f v) else some v
      | none => none) } }

/-- The side record of a side. -/
def Volume.sideRec (v : Volume) : Side → SideRec
  | .a => v.sideA
  | .b => v.sideB

/-- Change a side record. -/
def Volume.modSide (v : Volume) (side : Side) (f : SideRec → SideRec) : Volume :=
  match side with
  | .a => { v with sideA := f v.sideA }
  | .b => { v with sideB := f v.sideB }

/-- The volume the table records in a place, if any (R65). -/
def Run.volumeIn (r : Run) (l : Loc) : Option Volume :=
  (r.store.volumes.find? (fun o => match o with | some v => v.loc == l | none => false)).join

/-- The account with a number (R184). -/
def Run.account (r : Run) (n : Nat) : Account := r.store.accounts.getD n Account.closed

/-- Change an account. -/
def Run.modAccount (r : Run) (n : Nat) (f : Account → Account) : Run :=
  { r with store := { r.store with accounts := r.store.accounts.modify n f } }

/-! ### Service of the part -/

/-- The control area is in service: the check has passed and its writes have completed (R23, R61). -/
def StartUp.inService (u : StartUp) : Bool :=
  match u.stage with
  | .off => false
  | .checking => false
  | .failed => false
  | .drives => u.initNext.isNone
  | .audit => u.initNext.isNone
  | .done => u.initNext.isNone

/-- Transfers to image frames are judged: from the end of the check at power-up, from the end of the
initialization at a system reset (R23). -/
def StartUp.framesOpen (u : StartUp) : Bool :=
  match u.stage with
  | .off => false
  | .checking => false
  | .failed => false
  | .drives => u.initNext.isNone || u.cause == .powerUp
  | .audit => u.initNext.isNone || u.cause == .powerUp
  | .done => u.initNext.isNone || u.cause == .powerUp

/-- Main power is on and the control-area check has not failed: the blocks act, from the first step of a power-up on (log
entry 75). -/
def StartUp.acting (u : StartUp) : Bool :=
  match u.stage with
  | .off => false
  | .checking => true
  | .failed => false
  | .drives => true
  | .audit => true
  | .done => true

/-! ### Notices (R57, R60) -/

/-- The number of unread notices: the producer index less the consumer index, modulo 64 (R57). -/
def SlotUnit.unread (u : SlotUnit) : Nat := (u.producer + 64 - u.consumer) % 64

/-- A notice is given the next reserved position, or dropped with the lost count incremented when 63
notices are unread or being written (R57). -/
def SlotUnit.takeNotice (u : SlotUnit) (n : Notice) : SlotUnit :=
  if u.unread + u.reserved.length < 63 then
    { u with reserved := u.reserved ++ [false],
             work := u.work ++ [.notice ((u.producer + u.reserved.length) % 64) n] }
  else { u with lost := satInc max16 u.lost }

/-- A block hands a notice to the Slot Unit.  Before the control area is ready it is kept to follow
STARTED (R61, R156, R193); in the failed-check mode none is taken (R62). -/
def Run.notice (r : Run) (n : Notice) : Run :=
  if r.startup.inService then { r with slot := r.slot.takeNotice n }
  else if r.startup.acting then { r with slot := { r.slot with held := r.slot.held ++ [n] } }
  else r

/-- The violation counters after one more violation of a class, saturating (R34). -/
def PathUnit.countViolation (p : PathUnit) : AgentClass → PathUnit
  | .processor => { p with vioProcessor := satInc max16 p.vioProcessor }
  | .scanner => { p with vioScanner := satInc max16 p.vioScanner }
  | .copier => { p with vioCopier := satInc max16 p.vioCopier }
  | .unlisted => { p with vioUnlisted := satInc max16 p.vioUnlisted }

/-- One violation: the class counter rises and a VIOLATION notice is taken (R34, R35). -/
def Run.violation (r : Run) (master addr : Nat) (reason : Reason) : Run :=
  Run.notice { r with path := r.path.countViolation (r.settings.agent master).cls }
    (.violation master (r.settings.agent master) addr reason)

/-! ### Requests ending (R54) -/

/-- Slot `s` begins at 01000h + 200h × s (R24). -/
def slotBase (s : Nat) : Nat := 4096 + 512 * s

/-- The numeric value of a result code (R196). -/
def Code.value : Code → Nat
  | .ok => 0 | .corrected => 1 | .damaged => 2 | .idMismatch => 3 | .notWritten => 4
  | .volumeUnknown => 5 | .volumeMissing => 6 | .driveFault => 7 | .pickerFault => 8 | .timeout => 9
  | .memoryParity => 10 | .noFrames => 11 | .grantsFull => 12 | .badRequest => 13 | .badFrame => 14
  | .accountClosed => 15 | .accountBusy => 16 | .unsettled => 17 | .alreadyOpen => 18
  | .refusedDamaged => 19 | .mediaExhausted => 20 | .filingFailed => 21 | .sequenceUnset => 22
  | .noCell => 23 | .roleActive => 24 | .aborted => 25

/-- The writes of a result write-back: the result area first, then the count done and the result code
in one word (R54, R196). -/
def writeBackWrites (slot : Nat) (e : Ended) (results : List (Nat × List Byte)) : List MemWrite :=
  results.flatMap (fun f => pieces (slotBase slot + f.1) f.2) ++
    [{ addr := slotBase slot + 12, bytes := leBytes 2 e.code.value ++ leBytes 2 e.count }]

/-- A request can still end: it is in hand and no end report of it has been taken. -/
def SlotRec.inHand (x : SlotRec) : Bool :=
  x.outcome.isNone &&
    (x.state == .posted || x.state == .accepted || x.state == .active || x.state == .cancelling)

/-- The Slot Unit takes an end report: the outcome is recorded, the job reference becomes absent, and a
write-back is appended to the work list; the slot's state is not changed (R54). -/
def Run.endReport (r : Run) (slot : Nat) (e : Ended) (results : List (Nat × List Byte)) : Run :=
  if (r.slotAt slot).inHand then
    let r := r.modSlot slot (fun x => { x with outcome := some e, jobRef := none })
    { r with slot := { r.slot with work := r.slot.work ++ [.writeBack slot (writeBackWrites slot e results)] } }
  else r

/-- A request ends DONE with OK. -/
def Run.endDone (r : Run) (slot count : Nat) (results : List (Nat × List Byte)) : Run :=
  r.endReport slot { done := true, code := .ok, count := count } results

/-- A request ends FAILED with a code and nothing to report: its result area is left as memory holds it (R54, R196, log
entry 56). -/
def Run.endFailed (r : Run) (slot : Nat) (code : Code) (count : Nat) : Run :=
  r.endReport slot { done := false, code := code, count := count } []

/-- The Slot Unit is told that a job has started: an ACCEPTED slot becomes ACTIVE (R52). -/
def Run.slotStarted (r : Run) (slot : Nat) : Run :=
  r.modSlot slot (fun x => if x.state = .accepted then { x with state := .active } else x)

/-! ### Jobs -/

/-- The next acceptance number, which stops at its largest value (R50). -/
def Run.takeAge (r : Run) : Nat × Run :=
  (r.slot.nextAge, { r with slot := { r.slot with nextAge := satInc max32 r.slot.nextAge } })

/-- A job is created: its record is made in state QUEUED and it joins the tail of its level queue; a
pass follows (R52, R101, R103, R104). -/
def Run.createJob (r : Run) (kind : JobKind) (level age : Nat) (slot : Option Nat) : Nat × Run :=
  let id := r.sched.nextJob
  let job : Job :=
    { id := id, kind := kind, level := level, age := age, slot := slot, state := .queued,
      started := false, needs := [], pair := none, pendingPreempt := false, awaited := [],
      cancelTaken := false }
  let sched : Scheduler :=
    { r.sched with jobs := r.sched.jobs ++ [job],
                   queues := r.sched.queues.modify level (fun q => q ++ [id]), nextJob := id + 1 }
  (id, Run.wantPass { r with sched := sched })

/-- The burn jobs are FILE and relocation jobs (06: Jobs). -/
def JobKind.isBurn : JobKind → Bool
  | .fetch => false
  | .file => true
  | .importIn _ => false
  | .exportOut _ => false
  | .relocation _ => true
  | .labelCheck _ => false

/-- The filing pair record, ESTABLISHING or ACTIVE, names a volume (R73, R75, R77). -/
def PairRec.claims (p : PairRec) (serial : Nat) : Bool :=
  match p with
  | .absent => false
  | .establishing a b _ _ _ => serial == a || serial == b
  | .active a b _ => serial == a || serial == b
  | .closing _ _ _ _ => false

/-- The filing pair record, in any state, names a volume. -/
def PairRec.names (p : PairRec) (serial : Nat) : Bool :=
  match p with
  | .absent => false
  | .establishing a b _ _ _ => serial == a || serial == b
  | .active a b _ => serial == a || serial == b
  | .closing a b _ _ => serial == a || serial == b

end Sys2Proof.Machine
end

