-- ==== Sys2Proof/Machine/Flags.lean ====
section
/-! DEFINITION. Flags.lean: the status of the part as software sees it: the numeric value of every code
(R196), the state word, ring header, start-up record and notice records (R197), the statement records
(R198), and the lines and gates that follow from the state (R60, R75, R78). -/

namespace Sys2Proof.Machine

open Sys2Proof.Config

/-! ### Values of codes (R196) -/

/-- The value of a slot state. -/
def SlotState.value : SlotState → Nat
  | .free => 0 | .claimed => 1 | .posted => 2 | .accepted => 3 | .active => 4 | .cancelling => 5
  | .done => 6 | .failed => 7

/-- The value that a write of POSTED carries. -/
def postedValue : Nat := 2

/-- The value that a write of FREE carries. -/
def freeValue : Nat := 0

/-- The value that a write of CANCEL carries, 0Ch. -/
def cancelValue : Nat := 12

/-- The value of a request kind. -/
def Kind.value : Kind → Nat
  | .fetch => 1 | .file => 2 | .importVol => 3 | .exportVol => 4 | .openScan => 16
  | .discardScan => 17 | .openHatch => 18 | .openAccount => 19 | .closeAccount => 20
  | .accountStatement => 21 | .setFees => 22 | .logStatement => 23 | .inventoryStatement => 24
  | .ackRelocation => 25 | .restoreDrive => 26 | .closePair => 27 | .setDeedSequence => 28
  | .writeSettings => 29

/-- Every request kind. -/
def Kind.all : List Kind :=
  [.fetch, .file, .importVol, .exportVol, .openScan, .discardScan, .openHatch, .openAccount,
   .closeAccount, .accountStatement, .setFees, .logStatement, .inventoryStatement, .ackRelocation,
   .restoreDrive, .closePair, .setDeedSequence, .writeSettings]

/-- The request kind a value names, if any (R51). -/
def Kind.ofValue (n : Nat) : Option Kind := Kind.all.find? (fun k => k.value == n)

/-- The value of an agent class. -/
def AgentClass.value : AgentClass → Nat
  | .processor => 0 | .scanner => 1 | .copier => 2 | .unlisted => 3

/-- The port of an agent, 0 when it has none (R35, R196). -/
def Agent.portValue : Agent → Nat
  | .processor => 0
  | .scanner p => p
  | .copier p => p
  | .unlisted => 0

/-- The value of a violation reason. -/
def Reason.value : Reason → Nat
  | .addressRange => 0 | .classRegion => 1 | .frameState => 2 | .scanOwner => 3
  | .slotProtocol => 4 | .ringIndex => 5

/-- The value of a volume role. -/
def Role.value : Role → Nat
  | .unverified => 0 | .blank => 1 | .primary => 2 | .safety => 3 | .retired => 4

/-- The value of a volume location. -/
def Loc.value : Loc → Nat
  | .cell n => n
  | .drive d => 90 + d
  | .hand => 94
  | .missing => 95

/-- The value of a link command. -/
def Command.value : Command → Nat
  | .load => 0 | .findWritePoint => 1 | .read => 2 | .reread => 3 | .burn => 4 | .verify => 5
  | .unload => 6 | .restore => 7

/-- The value of a picker order kind. -/
def OrderKind.value : OrderKind → Nat
  | .mount => 0 | .unmount => 1 | .flip => 2 | .importIn => 3 | .exportOut => 4 | .probe => 5

/-- The value of a close cause. -/
def CloseCause.value : CloseCause → Nat
  | .full => 0 | .request => 1 | .filingFailed => 2 | .volumeMissing => 3

/-- The value of a start cause. -/
def StartCause.value : StartCause → Nat
  | .powerUp => 0
  | .systemReset => 1

/-- The value of a release cause. -/
def ReleaseCause.value : ReleaseCause → Nat
  | .button => 0
  | .request => 1

/-- The value of a picker state. -/
def PickerState.value : PickerState → Nat
  | .idle => 0 | .moving => 1 | .fault => 2

/-- The value of a hatch state. -/
def HatchState.value : HatchState → Nat
  | .locked => 0 | .releasePending => 1 | .released => 2 | .opened => 3 | .auditing => 4

/-- The value of a relocation mark. -/
def LogMark.value : LogMark → Nat
  | .none => 0 | .scheduled => 1 | .deferred => 2

/-- 0 or 1. -/
def bit (b : Bool) : Nat := if b then 1 else 0

/-- The side byte (R196). -/
def sideValue : Side → Nat
  | .a => 0
  | .b => 1

/-- The other side of a platter. -/
def otherSide : Side → Side
  | .a => .b
  | .b => .a

/-- The sector word of a location: sector in bits 0 to 18, side in bit 31 (R196). -/
def sectorWord (side : Side) (sector : Nat) : Nat := sector % 524288 + 2147483648 * sideValue side

/-- The 8 bytes of a location (R196). -/
def locBytes (l : Location) : List Byte := leBytes 4 l.serial ++ leBytes 4 (sectorWord l.side l.sector)

/-- The 3-byte side-and-sector of a RELOCATED notice: sector in bits 0 to 18, side in bit 23 (R197). -/
def locShort (l : Location) : List Byte := leBytes 3 (l.sector % 524288 + 8388608 * sideValue l.side)

/-! ### The control area (R197) -/

/-- The 16 bytes of a notice record. -/
def Notice.bytes : Notice → List Byte
  | .started c b s => layout 16 [(0, leBytes 1 1), (1, leBytes 1 c.value), (2, leBytes 1 (bit (!b))), (3, leBytes 1 (bit (!s)))]
  | .slotDone s k d c n =>
    layout 16 [(0, leBytes 1 2), (1, leBytes 1 s), (2, leBytes 1 (match k with | some k => k.value | none => 0)),
      (3, leBytes 1 (if d then SlotState.done.value else SlotState.failed.value)), (4, leBytes 2 c.value), (6, leBytes 2 n)]
  | .grantUsed s f p a => layout 16 [(0, leBytes 1 3), (1, leBytes 1 s), (2, leBytes 2 f), (4, leBytes 1 p), (5, leBytes 1 a)]
  | .relocated o n =>
    layout 16 [(0, leBytes 1 4), (1, locShort o), (4, leBytes 4 o.serial), (8, leBytes 4 n.serial), (12, locShort n)]
  | .violation m g a x =>
    layout 16 [(0, leBytes 1 5), (1, leBytes 1 m), (2, leBytes 1 g.cls.value), (3, leBytes 1 g.portValue),
      (4, leBytes 4 a), (8, leBytes 1 x.value)]
  | .hatchReleased c => layout 16 [(0, leBytes 1 6), (1, leBytes 1 c.value)]
  | .auditDone c m => layout 16 [(0, leBytes 1 7), (1, leBytes 1 c), (2, leBytes 1 m)]
  | .driveFault d t c =>
    layout 16 [(0, leBytes 1 8), (1, leBytes 1 d), (2, leBytes 1 (bit t)),
      (3, leBytes 1 (match c with | some c => c.value | none => 0))]
  | .pickerFault k n =>
    layout 16 [(0, leBytes 1 9), (1, leBytes 1 k.value), (4, leBytes 4 (n.getD 0))]
  | .auditFault t k n =>
    layout 16 [(0, leBytes 1 9), (1, [Config.auditFaultKind t k]), (4, leBytes 4 (n.getD 0))]
  | .pairClosed p s c => layout 16 [(0, leBytes 1 10), (1, leBytes 1 c.value), (4, leBytes 4 p), (8, leBytes 4 s)]
  | .blanksLow n => layout 16 [(0, leBytes 1 11), (1, leBytes 1 n)]
  | .sweepLost p f i => layout 16 [(0, leBytes 1 12), (1, leBytes 1 p), (2, leBytes 2 f), (4, leBytes 1 (bit i))]

/-- Where the record of a ring position stands: the ring begins at 00200h (R24). -/
def noticeAddr (pos : Nat) : Nat := 512 + 16 * pos

/-- The 256 bytes of the start-up record (R194, R196). -/
def startRecord (u : StartUp) : List Byte :=
  layout 256 [(0, leBytes 1 u.cause.value), (1, leBytes 1 (bit (!u.batteryGood))),
    (2, leBytes 1 (bit (!u.settingsGood))), (3, leBytes 1 u.checkCode)]

/-- The start-up writes in order: the start-up record as eight 32-byte writes, the ring header's memory
copy, and FREE into the state word of each slot (R192, R196).  In the failed-check mode only the record
is written (R190). -/
def startWrite (u : StartUp) (k : Nat) : MemWrite :=
  if k < 8 then { addr := 32 * k, bytes := ((startRecord u).drop (32 * k)).take 32 }
  else if k = 8 then { addr := 256, bytes := leBytes 16 0 }
  else { addr := slotBase (k - 9), bytes := leBytes 4 SlotState.free.value }

/-- How many start-up writes there are: 8 + 1 + 64, or the 8 of the record alone (R190, R192). -/
def startWrites (u : StartUp) : Nat := if u.stage = .failed then 8 else 73

/-! ### Statement records (R198) -/

/-- An account's record. -/
def accountRecord (n : Nat) (a : Account) (grants : Nat) : List Byte :=
  layout 32 [(0, leBytes 1 n), (1, leBytes 1 (bit a.isOpen)), (4, leBytes 4 a.total), (8, leBytes 4 a.loss),
    (12, leBytes 2 a.plain), (14, leBytes 2 a.certified), (16, leBytes 2 a.statutory), (18, leBytes 2 grants)]

/-- The log summary record. -/
def logSummary (m : MediaCheck) (p : PathUnit) : List Byte :=
  layout 32 [(0, leBytes 2 m.lost), (2, leBytes 1 m.log.length), (3, leBytes 1 m.relocJobs.length),
    (4, leBytes 4 m.counter), (8, leBytes 2 p.vioProcessor), (10, leBytes 2 p.vioScanner),
    (12, leBytes 2 p.vioCopier), (14, leBytes 2 p.vioUnlisted)]

/-- A correction log entry's record: a corrected entry carries its offset and pattern, an uncorrectable
one its last syndrome. -/
def logRecord (e : LogEntry) : List Byte :=
  let head := [(0, leBytes 4 e.seq), (4, locBytes e.loc), (12, leBytes 1 e.reads),
    (13, leBytes 1 (if e.corrected then 1 else 2)), (14, leBytes 1 e.mark.value)]
  if e.corrected then layout 32 (head ++ [(16, leBytes 2 (e.syndrome % 65536)), (18, leBytes 2 (e.syndrome / 65536))])
  else layout 32 (head ++ [(20, leBytes 4 e.syndrome)])

/-- A relocation table entry's record. -/
def relocRecord (n : Nat) : RelocEntry → List Byte
  | .free => layout 32 [(0, leBytes 1 n)]
  | .reserved o => layout 32 [(0, leBytes 1 n), (1, leBytes 1 1), (4, locBytes o)]
  | .awaitingAck o w => layout 32 [(0, leBytes 1 n), (1, leBytes 1 2), (4, locBytes o), (12, locBytes w)]

/-- The flags byte of an inventory record. -/
def volumeFlags (v : Volume) : Nat :=
  bit (v.pairClosed.getD false) + 2 * bit v.sideA.confirmed + 4 * bit v.sideA.full +
    8 * bit v.sideB.confirmed + 16 * bit v.sideB.full

/-- An inventory statement record: a free position, which holds no field of a record, its home cell the FFh of an absent
one (R196, log entry 67), or every field of the record held there. -/
def volumeRecord (n : Nat) : Option Volume → List Byte
  | none => layout 32 [(0, leBytes 1 n), (28, leBytes 1 255)]
  | some v => layout 32
      [(0, leBytes 1 n), (1, leBytes 1 1), (2, leBytes 1 v.role.value), (3, leBytes 1 v.loc.value),
       (4, leBytes 4 v.serial), (8, leBytes 4 (v.partner.getD 0)), (12, leBytes 4 (v.missingOrder.getD 0)),
       (16, leBytes 4 v.sideA.writePoint), (20, leBytes 4 v.sideB.writePoint),
       (24, leBytes 2 v.sideA.corrected), (26, leBytes 2 v.sideB.corrected),
       (28, leBytes 1 (v.home.getD 255)), (29, leBytes 1 (volumeFlags v))]

/-- The BLANK count: BLANK volumes whose location is not MISSING (R137). -/
def Store.blankCount (s : Store) : Nat :=
  (s.volumes.filter (fun o => match o with | some v => v.role == .blank && v.loc != .missing | none => false)).length

/-- The inventory summary record of 96 bytes. -/
def inventorySummary (p : Picker) (s : Store) : List Byte :=
  layout 96 [(0, leBytes 1 p.state.value), (1, leBytes 1 p.hatch.value), (2, leBytes 1 s.blankCount),
    (4, p.marks.flatMap (fun m => leBytes 1 (bit m)))]

/-! ### Lines and gates -/

/-- The notice line as the indices call for it (R60). -/
def SlotUnit.lineFollows (u : SlotUnit) : SlotUnit := { u with line := u.producer != u.consumer }

/-- The hatch lock is set (R78). -/
def Picker.lockSet (p : Picker) : Bool :=
  match p.hatch with
  | .locked => true
  | .releasePending => true
  | .released => false
  | .opened => false
  | .auditing => true

/-- The hatch lamp is lit (R78, R79). -/
def Picker.lampOn (p : Picker) : Bool :=
  match p.hatch with
  | .locked => false
  | .releasePending => false
  | .released => true
  | .opened => true
  | .auditing => false

/-- An order's source or destination is a hand-off cell (88 for H0, 89 for H1) while it is in progress:
an IMPORT from it, a move that ends in it, or a MOUNT or EXPORT that took its volume from it. -/
def Move.usesCell (m : Move) (cell : Nat) : Bool :=
  match m.what with
  | .order _ => m.src == some (.cell cell) || m.dest == some (.cell cell)
  | .reHome => false
  | .putAway => m.dest == some (.cell cell)
  | .probe c => c == cell

/-- The outer gate of a hand-off cell is open (R75): no order in progress has the cell as its source or
destination, the hatch is LOCKED or RELEASE_PENDING, and no audit runs. -/
def Picker.gateOpen (p : Picker) (cell : Nat) : Bool :=
  (match p.hatch with
   | .locked => true
   | .releasePending => true
   | .released => false
   | .opened => false
   | .auditing => false) &&
  p.audit.isNone &&
  (match p.move with
   | none => true
   | some m => !m.usesCell cell)

end Sys2Proof.Machine
end

