-- ==== Sys2Proof/Machine/Operands.lean ====
section
/-! DEFINITION. Operands.lean: the operand forms of requests and media: the fields of a request record as
the acceptance read brings it (R197), the settings record (R200), the page header and the side label
(R199), and the results a request writes back (R197). -/

namespace Sys2Proof.Machine

open Sys2Proof.Config

/-! ### The request record (R197) -/

/-- A side byte names a side, or nothing (R196). -/
def sideOf (n : Nat) : Option Side := if n = 0 then some .a else if n = 1 then some .b else none

/-- A grant kind byte names a kind, or nothing (R196). -/
def grantKindOf (n : Nat) : Option GrantKind :=
  if n = 0 then some .plain else if n = 1 then some .certified else if n = 2 then some .statutory else none

/-- The kind byte of a slot's 512 bytes. -/
def reqKind (q : List Byte) : Option Kind := Kind.ofValue (byteAt q 8)

/-- The level byte. -/
def reqLevel (q : List Byte) : Nat := byteAt q 9

/-- The notify flag, bit 0 of the flags. -/
def reqNotify (q : List Byte) : Bool := half q 10 % 2 == 1

/-- The clear-on-statement flag, bit 1 of the flags. -/
def reqClear (q : List Byte) : Bool := half q 10 / 2 % 2 == 1

/-- The start sectors of a FETCH, as many as its page count. -/
def fetchSectors (q : List Byte) : List Nat := (List.range (byteAt q 21)).map (fun i => word q (24 + 4 * i))

/-- Grant spec `i` of a FETCH, when its port, kind, copies and account lie in range (R118). -/
def fetchSpec (q : List Byte) (i : Nat) : Option GrantSpec :=
  let at_ := 88 + 4 * i
  match grantKindOf (byteAt q (at_ + 1)) with
  | none => none
  | some k =>
    if byteAt q at_ ≤ 7 ∧ 1 ≤ byteAt q (at_ + 2) ∧ byteAt q (at_ + 2) ≤ 99 ∧ byteAt q (at_ + 3) ≤ 127 then
      some { port := byteAt q at_, kind := k, copies := byteAt q (at_ + 2), account := byteAt q (at_ + 3) }
    else none

/-- The grant specs counted by a FETCH, all of them in range. -/
def fetchSpecs (q : List Byte) : Option (List GrantSpec) :=
  (List.range (byteAt q 22)).foldr
    (fun i acc => match fetchSpec q i, acc with | some s, some l => some (s :: l) | _, _ => none) (some [])

/-- The page entries of a FILE, as many as its page count: frame and image length. -/
def filePages (q : List Byte) : List (Nat × Nat) :=
  (List.range (byteAt q 17)).map (fun i => (half q (32 + 8 * i), word q (36 + 8 * i)))

/-- The frames listed by a DISCARD SCAN, as many as its count. -/
def discardFrames (q : List Byte) : List Nat := (List.range (byteAt q 16)).map (fun i => half q (18 + 2 * i))

/-- The 48 fees of a SET FEES as a schedule. -/
def feesAt (q : List Byte) (at_ : Nat) : List FeeRow :=
  (List.range 16).map (fun c =>
    { plain := half q (at_ + 6 * c), certified := half q (at_ + 6 * c + 2), certification := half q (at_ + 6 * c + 4) })

/-- A location field: its sector word's bits 19 to 30 are not read (R196). -/
def locationAt (q : List Byte) (at_ : Nat) : Location :=
  { serial := word q at_,
    side := if word q (at_ + 4) / 2147483648 % 2 = 1 then .b else .a,
    sector := word q (at_ + 4) % 524288 }

/-- A list of numbers names nothing twice. -/
def noRepeats : List Nat → Bool
  | [] => true
  | a :: as => !as.contains a && noRepeats as

/-! ### The settings record (R189, R200) -/

/-- The record's 35 words sum to 0 modulo 2^32. -/
def checksumGood (bs : List Byte) : Bool :=
  ((List.range 35).map (fun i => word bs (4 * i))).foldl (· + ·) 0 % 4294967296 == 0

/-- An agent entry in range: its class one of four, its port in the class's range (R189). -/
def agentOf (cls port : Nat) : Option Agent :=
  if cls = 0 then some .processor
  else if cls = 1 then (if port ≤ 3 then some (.scanner port) else none)
  else if cls = 2 then (if port ≤ 7 then some (.copier port) else none)
  else if cls = 3 then some .unlisted
  else none

/-- The agent entries of the record. -/
def agentEntries (bs : List Byte) : List (Option Agent) :=
  (List.range 16).map (fun i => agentOf (byteAt bs (8 + 2 * i)) (byteAt bs (9 + 2 * i)))

/-- The record is good: whole, its checksum good and every field in range (R200). -/
def settingsGood (bs : List Byte) : Bool :=
  decide (bs.length = 140) && checksumGood bs && decide (byteAt bs 0 ≤ 1) && decide (byteAt bs 1 ≤ 3) &&
  decide (1 ≤ byteAt bs 3) && decide (byteAt bs 3 ≤ 16) && decide (50 ≤ half bs 4) &&
  decide (half bs 4 ≤ 1200) && (agentEntries bs).all (fun a => a.isSome)

/-- The settings that a good record gives (R200). -/
def settingsOf (bs : List Byte) : Settings :=
  { mem64 := byteAt bs 0 == 1, retry := byteAt bs 1, correction := byteAt bs 2 % 2 == 1,
    relocation := byteAt bs 2 / 2 % 2 == 1, preemption := byteAt bs 2 / 4 % 2 == 1,
    threshold := byteAt bs 3, idleLimit := half bs 4, voidByte := bs.getD 6 0,
    agents := (agentEntries bs).map (fun a => a.getD .unlisted), image := bs }

/-! ### The platter (R199) -/

/-- The page mark. -/
def pageMark : List Byte := [80, 71, 72, 49]

/-- The label mark. -/
def labelMark : List Byte := [76, 66, 76, 49]

/-- The page header sector of one copy of a page (R145, R199). -/
def headerSector (serial : Nat) (side : Side) (start : Nat) (j : BurnJob) (index : Nat) (p : BurnPage) : List Byte :=
  layout 1024 [(0, pageMark), (4, leBytes 4 serial), (8, leBytes 4 (sectorWord side start)),
    (12, leBytes 4 p.imageLen), (16, leBytes 1 j.deedClass), (17, leBytes 1 (j.pageIndex + index)),
    (18, leBytes 1 (if j.origin.isSome then 1 else 0)), (20, leBytes 4 j.deedSeq), (24, padTo 8 j.stamp),
    (32, match j.origin with | some o => locBytes o | none => leBytes 8 0)]

/-- The side label of a volume (R199). -/
def labelSector (serial : Nat) (role : Role) (side : Side) (partner : Nat) : List Byte :=
  layout 1024 [(0, labelMark), (4, leBytes 4 serial), (8, leBytes 1 role.value), (9, leBytes 1 (sideValue side)),
    (12, leBytes 4 partner)]

/-- The header checks of R127: the page mark, the task's own location, and the fields in range; a header
that passes gives its page fields and whether it carries an origin. -/
def acceptHeader (loc : Location) (bs : List Byte) : Option (PageInfo × Bool) :=
  if bs.take 4 = pageMark ∧ word bs 4 = loc.serial ∧ word bs 8 % 524288 = loc.sector ∧
      word bs 8 / 2147483648 % 2 = sideValue loc.side ∧ 1 ≤ word bs 12 ∧ word bs 12 ≤ 131072 ∧
      byteAt bs 16 ≤ 15 ∧ byteAt bs 17 ≤ 15 ∧ byteAt bs 18 ≤ 1 then
    some ({ deedClass := byteAt bs 16, deedSeq := word bs 20, pageIndex := byteAt bs 17, imageLen := word bs 12 },
      byteAt bs 18 == 1)
  else none

/-- The label report formed from sector 0 of the facing side (R199). -/
def labelReport (side : Side) : LabelSector → LabelReport
  | .unwritten => .none
  | .bytes syndrome bs =>
    if syndrome then .unreadable
    else if bs.take 4 = labelMark ∧ (byteAt bs 8 = 2 ∨ byteAt bs 8 = 3) ∧ byteAt bs 9 = sideValue side then
      .label (word bs 4) (if byteAt bs 8 = 2 then .primary else .safety) (word bs 12) side
    else .unreadable

/-- The record length of a page: 1 plus the image length divided by 1,024 and rounded up (R142). -/
def recordLength (imageLen : Nat) : Nat := 1 + ceilDiv imageLen 1024

/-! ### Results (R197) -/

/-- A FETCH result entry of 16 bytes. -/
def fetchEntry (frame : Nat) (code : Code) (info : Option PageInfo) : List Byte :=
  match info with
  | some i => layout 16 [(0, leBytes 2 frame), (2, leBytes 2 code.value), (4, leBytes 4 i.imageLen),
      (8, leBytes 4 i.deedSeq), (12, leBytes 1 i.pageIndex), (13, leBytes 1 i.deedClass)]
  | none => layout 16 [(2, leBytes 2 code.value)]

/-- The FILE placement word: sector, attempts in bits 24 and 25, PLACED in bit 30, side in bit 31. -/
def placementWord (p : PlacedAt) (attempts : Nat) : Nat :=
  p.sector % 524288 + 16777216 * (attempts % 4) + 1073741824 + 2147483648 * sideValue p.side

/-- A FILE result entry of 12 bytes; a page not PLACED is written as 0. -/
def fileEntry (p : BurnPage) : List Byte :=
  match p.placed with
  | some l => leBytes 4 l.primary ++ leBytes 4 l.safety ++ leBytes 4 (placementWord l p.attempts)
  | none => leBytes 12 0

end Sys2Proof.Machine
end

