-- ==== Sys2Proof/Machine/Volumes.lean ====
section
/-! DEFINITION. Volumes.lean: the Inventory's claims on the volume table (R63 to R68, R137): creating,
removing and moving records, the missing counter, free cells, and the creation of label check jobs. -/

namespace Sys2Proof.Machine

open Sys2Proof.Config

/-- A BLANKS_LOW notice is taken when the BLANK count has fallen to a value below 4 (R137); `before` is
the count before the change. -/
def Run.blankWatch (before : Nat) (r : Run) : Run :=
  if r.store.blankCount < before ∧ r.store.blankCount < 4 then r.notice (.blanksLow r.store.blankCount) else r

/-- A change of a volume record under the watch of the BLANK count. -/
def Run.claimVolume (r : Run) (serial : Nat) (f : Volume → Volume) : Run :=
  (r.modVolume serial f).blankWatch r.store.blankCount

/-- A volume is recorded at a place that is not MISSING; its missing order becomes absent (R63, R65). -/
def Run.placeVolume (r : Run) (serial : Nat) (l : Loc) : Run :=
  r.modVolume serial (fun v => { v with loc := l, missingOrder := none })

/-- A volume is recorded in a cell where it has been put or found: its home cell becomes a shelf cell,
or absent for a hand-off cell (R65, R81). -/
def Run.shelveVolume (r : Run) (serial cell : Nat) : Run :=
  r.modVolume serial (fun v =>
    { v with loc := .cell cell, missingOrder := none, home := if cell < 88 then some cell else none })

/-- A volume is recorded MISSING: the missing counter rises, stopping at its largest value, the record
takes the new value, and the blocks are told (R63, R64). -/
def Run.loseVolume (r : Run) (serial : Nat) : Run :=
  match r.locOf serial with
  | none => r
  | some .missing => r
  | some _ =>
    let n := satInc max32 r.store.missingCounter
    let r1 : Run := { r with store := { r.store with missingCounter := n } }
    ((r1.modVolume serial (fun v => { v with loc := .missing, missingOrder := some n })).blankWatch
      r.store.blankCount).push (.volumeGone serial)

/-- A record is removed from the table, and the blocks are told (R64). -/
def Run.removeVolume (r : Run) (serial : Nat) : Run :=
  let vs := r.store.volumes.map (fun o =>
    match o with
    | some v => if v.serial = serial then none else some v
    | none => none)
  (Run.blankWatch r.store.blankCount { r with store := { r.store with volumes := vs } }).push (.volumeGone serial)

/-- The lowest-numbered position that satisfies a test, counting from `i`. -/
def firstPos (p : Option Volume → Bool) : Nat → List (Option Volume) → Option Nat
  | _, [] => none
  | i, o :: os => if p o then some i else firstPos p (i + 1) os

/-- The lowest missing order of the MISSING records. -/
def oldestMissing (vs : List (Option Volume)) : Option Nat :=
  (vs.filterMap (fun o => o.bind (fun v => if v.loc = .missing then v.missingOrder else none))).min?

/-- A fresh side record (R64). -/
def SideRec.fresh : SideRec := { writePoint := 0, confirmed := false, full := false, corrected := 0 }

/-- A new record (R64). -/
def Volume.fresh (serial : Nat) (blank : Bool) (l : Loc) : Volume :=
  { serial := serial, role := if blank then .blank else .unverified, partner := none, pairClosed := none,
    loc := l, home := match l with | .cell c => if c < 88 then some c else none | _ => none,
    missingOrder := none, sideA := SideRec.fresh, sideB := SideRec.fresh }

/-- One more record has been created, during an audit if one has begun (R82). -/
def Picker.countCreated (p : Picker) : Picker :=
  { p with audit := p.audit.map (fun a => { a with created := a.created + 1 }) }

/-- A new record is put at a position; an audit that has begun and has not ended counts it, whoever creates it (R82, log
entry 88). -/
def Run.putRecord (r : Run) (i serial : Nat) (blank : Bool) (l : Loc) : Run :=
  { r with store := { r.store with volumes := r.store.volumes.set i (some (Volume.fresh serial blank l)) },
           picker := r.picker.countCreated }

/-- A record is created in the lowest-numbered free position, or in place of the oldest MISSING record,
which is removed (R64). -/
def Run.createVolume (r : Run) (serial : Nat) (blank : Bool) (l : Loc) : Run :=
  match firstPos (fun o => o.isNone) 0 r.store.volumes with
  | some i => r.putRecord i serial blank l
  | none =>
    match oldestMissing r.store.volumes with
    | none => r
    | some n =>
      match firstPos (fun o => match o with | some v => v.loc == .missing && v.missingOrder == some n | none => false) 0
          r.store.volumes with
      | none => r
      | some i =>
        let old := ((r.store.volumes.getD i none).map (fun v => v.serial)).getD 0
        (r.putRecord i serial blank l).push (.volumeGone old)

/-- A shelf cell is the home cell of another volume that is in a drive, the hand or a hand-off cell
(R65). -/
def Run.reservedCell (r : Run) (serial : Option Nat) (cell : Nat) : Bool :=
  r.store.volumes.any (fun o =>
    match o with
    | none => false
    | some v => some v.serial != serial && v.home == some cell &&
        (match v.loc with
         | .cell c => decide (88 ≤ c)
         | .drive _ => true
         | .hand => true
         | .missing => false))

/-- A cell is free for a volume, or for a platter no record names (R65). -/
def Run.cellFree (r : Run) (serial : Option Nat) (cell : Nat) : Bool :=
  (r.volumeIn (.cell cell)).isNone && !(r.picker.marks.getD cell false) &&
    (decide (88 ≤ cell) || !r.reservedCell serial cell)

/-- The lowest-numbered free shelf cell. -/
def Run.freeShelf (r : Run) (serial : Option Nat) : Option Nat :=
  (List.range 88).find? (fun c => r.cellFree serial c)

/-- The lowest-numbered free hand-off cell, H0 before H1. -/
def Run.freeHandOff (r : Run) (serial : Option Nat) : Option Nat :=
  [88, 89].find? (fun c => r.cellFree serial c)

/-- Where a volume leaving a drive, or the hand, goes: its home cell if free, else the lowest-numbered
free shelf cell, else a free hand-off cell (R73, R80). -/
def Run.putAwayCell (r : Run) (serial : Option Nat) : Option Nat :=
  let home := serial.bind (fun n => (r.volume n).bind (fun v => v.home))
  match home with
  | some c => if r.cellFree serial c then some c else (r.freeShelf serial).orElse (fun _ => r.freeHandOff serial)
  | none => (r.freeShelf serial).orElse (fun _ => r.freeHandOff serial)

/-- A cell is occupied: a record's location is that cell, or its mark is UNRECORDED (R75). -/
def Run.cellOccupied (r : Run) (cell : Nat) : Bool :=
  (r.volumeIn (.cell cell)).isSome || r.picker.marks.getD cell false

/-- Set or clear the mark of a cell (R75). -/
def Run.setMark (r : Run) (cell : Nat) (m : Bool) : Run :=
  { r with picker := { r.picker with marks := r.picker.marks.set cell m } }

/-- A volume has a label check job (R67). -/
def Run.hasLabelCheck (r : Run) (serial : Nat) : Bool := r.sched.jobs.any (fun j => j.kind == .labelCheck serial)

/-- A label check job for a volume, unless it has one: level 3, the next acceptance number (R67). -/
def Run.createLabelCheck (r : Run) (serial : Nat) : Run :=
  if r.hasLabelCheck serial then r
  else (Run.createJob r.takeAge.2 (.labelCheck serial) 3 r.takeAge.1 none).2

/-- A label check job for each UNVERIFIED volume that has none (R67). -/
def Run.createLabelChecks (r : Run) : Run :=
  r.store.volumes.foldl
    (fun r o => match o with | some v => if v.role = .unverified then r.createLabelCheck v.serial else r | none => r) r

/-- A side label sets the role of an UNVERIFIED volume (R68). -/
def Run.settleLabel (r : Run) (serial : Nat) (rep : LabelReport) : Run :=
  match rep with
  | .none => r.claimVolume serial (fun v => { v with role := .blank, partner := none, pairClosed := none })
  | .unreadable => r.claimVolume serial (fun v => { v with role := .retired, partner := none, pairClosed := none })
  | .label n role partner _ =>
    if n = serial then
      let closed := !r.store.pair.claims serial
      r.claimVolume serial (fun v => { v with role := role, partner := some partner, pairClosed := some closed })
    else r.claimVolume serial (fun v => { v with role := .retired, partner := none, pairClosed := none })

end Sys2Proof.Machine
end

