-- ==== Sys2Proof/Machine/Frames.lean ====
section
/-! DEFINITION. Frames.lean: the Frame Unit's claims (R1 to R20): holds, the empty and reclaim lists,
allocation and lookup, with the page tasks that belong to filling frames (R126). -/

namespace Sys2Proof.Machine

open Sys2Proof.Config

/-! ### Frame records -/

/-- The holders of a frame (R2). -/
def Frame.holders : Frame → List Holder
  | .empty => []
  | .filling _ _ _ _ _ _ hs => hs
  | .sealed _ _ _ _ hs => hs
  | .scan _ => []
  | .filing _ _ _ hs => hs

/-- The hold count is the number of holders (R2). -/
def Frame.holdCount (f : Frame) : Nat := f.holders.length

/-- The frame is SCAN. -/
def Frame.isScan : Frame → Bool
  | .empty => false
  | .filling _ _ _ _ _ _ _ => false
  | .sealed _ _ _ _ _ => false
  | .scan _ => true
  | .filing _ _ _ _ => false

/-- The page fields of a frame, where they are present (R1). -/
def Frame.info : Frame → Option PageInfo
  | .empty => none
  | .filling _ _ i _ _ _ _ => i
  | .sealed _ i _ _ _ => some i
  | .scan _ => none
  | .filing _ i _ _ => some i

/-- A frame with its holders replaced. -/
def Frame.withHolders (f : Frame) (hs : List Holder) : Frame :=
  match f with
  | .empty => .empty
  | .filling t p i m d c _ => .filling t p i m d c hs
  | .sealed t i d c _ => .sealed t i d c hs
  | .scan o => .scan o
  | .filing t i o _ => .filing t i o hs

/-- The frame that a grant names, if it is RESERVED or OPEN (R173). -/
def Grant.frame (g : Grant) : Option Nat :=
  match g.state with
  | .setAside => none
  | .reserved f => some f
  | .opened f _ _ _ => some f

/-- A frame's grant count: the RESERVED and OPEN entries that name it (R173). -/
def FeeMeter.grantCount (m : FeeMeter) (frame : Nat) : Nat :=
  (m.grants.filter (fun o => match o with | some g => g.frame == some frame | none => false)).length

/-- An account's grant count: the entries that name it, in any state (R173). -/
def FeeMeter.accountCount (m : FeeMeter) (account : Nat) : Nat :=
  (m.grants.filter (fun o => match o with | some g => g.account == account | none => false)).length

/-! ### The two lists -/

/-- A SEALED frame with no holds and no grants joins the tail of the reclaim list, and the frame-wait
queue is served (R6, R15). -/
def Run.checkReclaim (r : Run) (n : Nat) : Run :=
  match r.frameAt n with
  | .sealed _ _ _ _ [] =>
    if r.fee.grantCount n = 0 ∧ n ∉ r.frame.reclaim then
      Run.serveFirst { r with frame := { r.frame with reclaim := r.frame.reclaim ++ [n] } }
    else r
  | _ => r

/-- A frame becomes EMPTY and is inserted in the empty list at the place its number calls for; the
frame-wait queue is served (R3, R5, R9). -/
def Run.emptyFrame (r : Run) (n : Nat) : Run :=
  let r := r.setFrame n .empty
  Run.serveFirst { r with frame := { r.frame with emptyList := insertUp n r.frame.emptyList } }

/-- A hold is added, once for a holder; a frame on the reclaim list leaves it in place (R2, R6, R15). -/
def Run.addHold (r : Run) (n : Nat) (h : Holder) : Run :=
  let f := r.frameAt n
  let r := if h ∈ f.holders then r else r.setFrame n (f.withHolders (f.holders ++ [h]))
  { r with frame := { r.frame with reclaim := r.frame.reclaim.filter (fun m => m != n) } }

/-- The frames that bear one of the tags and are SEALED, or are FILLING, lowest-numbered first. -/
def framesTagged (tags : List Location) (wantSealed : Bool) : Nat → List Frame → Option Nat
  | _, [] => none
  | n, f :: fs =>
    let hit := match f with
      | .empty => false
      | .filling t _ _ _ _ _ _ => !wantSealed && tags.contains t
      | .sealed t _ _ _ _ => wantSealed && tags.contains t
      | .scan _ => false
      | .filing _ _ _ _ => false
    if hit then some n else framesTagged tags wantSealed (n + 1) fs

/-- A lookup: a SEALED frame before a FILLING one, and the lowest-numbered among frames of the same
state (R15, R121). -/
def Run.lookupTags (r : Run) (tags : List Location) : Option Nat :=
  match framesTagged tags true 1 r.frame.frames with
  | some n => some n
  | none => framesTagged tags false 1 r.frame.frames

/-- The frames available to an allocation (R7). -/
def FrameUnit.available (u : FrameUnit) : Nat := u.emptyList.length + u.reclaim.length

/-- An allocation of `k` frames, all or none, from the head of the empty list and then of the reclaim
list, in the order taken (R7).  A frame taken from the reclaim list drops its record when it is given
its new state. -/
def Run.allocate (r : Run) (k : Nat) : Option (List Nat × Run) :=
  if k ≤ r.frame.available then
    let fromEmpty := r.frame.emptyList.take k
    let rest := k - fromEmpty.length
    some (fromEmpty ++ r.frame.reclaim.take rest,
      { r with frame := { r.frame with emptyList := r.frame.emptyList.drop k,
                                       reclaim := r.frame.reclaim.drop rest } })
  else none

/-! ### Page tasks and their groups (R105, R126) -/

/-- A task lies on a volume side. -/
def Task.on (t : Task) (serial : Nat) (side : Side) : Bool := t.loc.serial == serial && t.loc.side == side

/-- The needs of a FETCH job that still have a task are kept; a group whose last task has ended is no
longer a need, nor is a preemption held for it (R105, R113). -/
def Run.pruneNeeds (r : Run) (job : Nat) : Run :=
  r.modJob job (fun j =>
    if j.kind = .fetch then
      let needs := j.needs.filter (fun n => r.retr.tasks.any (fun t => t.carrier == some job && t.on n.serial n.side))
      { j with needs := needs, pendingPreempt := needs.any (fun n => n.held) }
    else j)

/-- A frame leaves every task list. -/
def Run.unlist (r : Run) (frame : Nat) : Run :=
  { r with sched := { r.sched with assigns := r.sched.assigns.map (fun a =>
      { a with tasks := a.tasks.filter (fun f => f != frame) }) } }

/-- A job leaves the flip lists in which it has no need any more. -/
def Run.pruneFlips (r : Run) (job : Nat) : Run :=
  let needs := ((r.jobAt job).map (fun j => j.needs)).getD []
  { r with sched := { r.sched with assigns := r.sched.assigns.mapIdx (fun d a =>
      { a with flips := a.flips.filter (fun i =>
          i != job || needs.any (fun n => n.place == .flips d) ||
          ((r.jobAt job).map (fun j => j.pair.isSome)).getD false) }) } }

/-- The Scheduler looks again at every drive: departures and next tasks. -/
def Run.lookAtDrives (r : Run) : Run :=
  [0, 1, 2, 3].foldl (fun r d => (r.push (.depart d)).push (.placeTasks d)) r

/-- A page task ends or is dropped: it leaves its lists and its group, its asks and its judging record
go with it, and the drive and the Scheduler go on (R110, R126, R161). -/
def Run.endTask (r : Run) (frame : Nat) : Run :=
  match r.taskAt frame with
  | none => r
  | some t =>
    let r := (r.dropTask frame).unlist frame
    let r : Run := { r with drives := r.drives.map (fun v => { v with asks := v.asks.filter (fun a => a.frame != frame) }),
                            media := { r.media with judging := r.media.judging.filter (fun j => j.frame != frame) } }
    let r := match t.carrier with
      | some j => (r.pruneNeeds j).pruneFlips j
      | none => r
    r.lookAtDrives.wantPass

/-- A hold is dropped.  On a SEALED frame the frame may join the reclaim list; on a FILLING frame whose
fill is PENDING the last hold's going drops the task and empties the frame (R14, R15). -/
def Run.dropHold (r : Run) (n : Nat) (h : Holder) : Run :=
  let f := r.frameAt n
  if h ∈ f.holders then
    let hs := f.holders.filter (fun x => x != h)
    let r := r.setFrame n (f.withHolders hs)
    match f with
    | .empty => r
    | .scan _ => r
    | .filing _ _ _ _ => r
    | .sealed _ _ _ _ _ => r.checkReclaim n
    | .filling _ .pending _ _ _ _ _ => if hs.isEmpty then (r.endTask n).emptyFrame n else r
    | .filling _ .started _ _ _ _ _ => r
  else r

/-- Every hold of a holder is dropped, in one claim, in ascending frame number (R46, R131, log entry 53). -/
def Run.dropHolds (r : Run) (h : Holder) : Run :=
  (List.range r.frame.frames.length).foldl (fun r i => r.dropHold (i + 1) h) r

/-- The FETCH jobs that hold a frame, with their job records (R126). -/
def Run.fetchHolders (r : Run) (frame : Nat) : List Job :=
  r.sched.jobs.filter (fun j => j.kind == .fetch &&
    (match j.slot with
     | some s => (r.frameAt frame).holders.contains (.slot s)
     | none => false))

/-- A job can carry a task: it is neither STOPPING nor SUSPENDED (R126). -/
def Job.carries (j : Job) : Bool := j.state != .stopping && j.state != .suspended

/-- The first of two jobs by level and age: the most urgent, then the oldest, then the one created
first (R126, R8). -/
def Job.before (i j : Job) : Bool :=
  decide (i.level < j.level) || (i.level == j.level && (decide (i.age < j.age) || (i.age == j.age && decide (i.id < j.id))))

/-- The most urgent and oldest of some jobs. -/
def firstJob : List Job → Option Job
  | [] => none
  | j :: js =>
    match firstJob js with
    | none => some j
    | some k => if k.before j then some k else some j

/-- A job enters its level queue at the place its age gives, unless it is there (R103, log entry 20). -/
def Run.enqueueByAge (r : Run) (job : Nat) : Run :=
  match r.jobAt job with
  | none => r
  | some j =>
    let q := r.sched.queues.getD j.level []
    if job ∈ q then r
    else
      let older := fun i => match r.jobAt i with | some k => k.before j | none => true
      let q' := q.takeWhile older ++ job :: q.dropWhile older
      { r with sched := { r.sched with queues := r.sched.queues.set j.level q' } }

/-- A task joins the group of a new carrier for its volume side: a group on a drive takes it into that
drive's task list, otherwise it waits with the group; a new group is an unplaced need (R126). -/
def Run.joinGroup (r : Run) (frame : Nat) (loc : Location) (carrier : Nat) : Run :=
  let r := r.modTask frame (fun t => { t with carrier := some carrier })
  match r.jobAt carrier with
  | none => r
  | some j =>
    match j.needs.find? (fun n => n.serial == loc.serial && n.side == loc.side) with
    | some n =>
      match n.place with
      | .unplaced => r.wantPass
      | .flips _ => r
      | .tasks d => (r.modAssign d (fun a => { a with tasks := a.tasks ++ [frame] })).push (.placeTasks d)
    | none =>
      ((r.modJob carrier (fun j =>
        { j with needs := j.needs ++ [{ serial := loc.serial, side := loc.side, place := .unplaced, held := false }] })).enqueueByAge
        carrier).wantPass

/-- A task that waits for a carrier: it is UNPLACED, and its carrier has ended or is STOPPING or SUSPENDED (R126). -/
def Run.taskWaits (r : Run) (t : Task) : Bool :=
  decide (t.phase = .unplaced) && !(((t.carrier.bind (fun c => r.jobAt c)).map Job.carries).getD false)

/-- A task passes to a new carrier, leaving its lists and its old carrier's group (R126). -/
def Run.giveTask (r : Run) (t : Task) (job : Nat) : Run :=
  let r := (r.unlist t.frame).joinGroup t.frame t.loc job
  match t.carrier with
  | some c => (r.pruneNeeds c).pruneFlips c
  | none => r

/-- An unplaced task passes from a carrier that has ended, or is STOPPING or SUSPENDED, to the most
urgent and oldest other FETCH job holding its frame that can carry it; if there is none it stays
withdrawn, with its carrier if that has not ended (R126). -/
def Run.passTask (r : Run) (frame : Nat) : Run :=
  match r.taskAt frame with
  | none => r
  | some t =>
    if r.taskWaits t then
      match firstJob ((r.fetchHolders frame).filter (fun j => j.carries && some j.id != t.carrier)) with
      | some j => r.giveTask t j.id
      | none =>
        if (t.carrier.bind (fun c => r.jobAt c)).isNone then
          (r.unlist frame).modTask frame (fun t => { t with carrier := none })
        else r
    else r

/-- A listed consequence is the failure of a frame's fill. -/
def Todo.failsFill (t : Todo) (n : Nat) : Bool :=
  match t with
  | .fillFail f _ => f == n
  | _ => false

/-- Frames are given to misses: each becomes FILLING with its tag, held by the job's request (R11).  A failure still listed
for the frame was of the fill that has ended, and fails no other (R129). -/
def Run.fillFrame (r : Run) (n : Nat) (tag : Location) (slot : Nat) : Run :=
  Run.setFrame { r with todo := r.todo.filter (fun t => !t.failsFill n) } n
    (.filling tag .pending none 0 false false [.slot slot])

end Sys2Proof.Machine
end

