-- ==== Sys2Proof/Machine/Fees.lean ====
section
/-! DEFINITION. Fees.lean: the Fee Meter (R172 to R188): grants set aside, attached, opened, given back
and withdrawn; copier reads offered and sweeps; charges to accounts. -/

namespace Sys2Proof.Machine

open Sys2Proof.Config

/-! ### The grant table -/

/-- The number of free entries (R174). -/
def FeeMeter.freeEntries (m : FeeMeter) : Nat := (m.grants.filter (fun o => o.isNone)).length

/-- Put grants, in order, into the lowest-numbered free entries, giving each the next grant number and its place in
the order of setting aside. -/
def fillEntries : List (Option Grant) → List Grant → Nat → Nat → List (Option Grant)
  | [], _, _, _ => []
  | e :: es, [], _, _ => e :: es
  | some g :: es, gs, n, k => some g :: fillEntries es gs n k
  | none :: es, g :: gs, n, k => some { g with number := n, order := k } :: fillEntries es gs (satInc max32 n) (k + 1)

/-- Apply the stopping increment `k` times. -/
def satAdd (cap n k : Nat) : Nat := min cap (n + k)

/-- The grants a request sets aside: page by page, and within a page spec by spec (R174). -/
def wantedGrants (slot pages : Nat) (specs : List GrantSpec) : List Grant :=
  (List.range pages).flatMap (fun p => specs.map (fun s =>
    { number := 0, order := 0, state := .setAside, slot := slot, page := p, port := s.port, account := s.account,
      kind := s.kind, copies := s.copies, charged := 0 }))

/-- The set-aside of R174, in one step: all the entries, or none. -/
def Run.setAside (r : Run) (slot pages : Nat) (specs : List GrantSpec) : Option Run :=
  let gs := wantedGrants slot pages specs
  if gs.length ≤ r.fee.freeEntries then
    some { r with fee := { r.fee with grants := fillEntries r.fee.grants gs r.fee.nextGrant r.fee.nextOrder,
                                      nextGrant := satAdd max32 r.fee.nextGrant gs.length,
                                      nextOrder := r.fee.nextOrder + gs.length } }
  else none

/-- Change the grants, removing those that become absent. -/
def Run.mapGrants (r : Run) (f : Grant → Option Grant) : Run :=
  { r with fee := { r.fee with grants := r.fee.grants.map (fun o => o.bind f) } }

/-- Set-aside entries are given back: they become free, and name no frame (R174). -/
def Run.giveBack (r : Run) (p : Grant → Bool) : Run :=
  r.mapGrants (fun g => if g.state = .setAside ∧ p g then none else some g)

/-- A page's set-aside entries are attached to a frame as RESERVED grants (R175). -/
def Run.attach (r : Run) (slot page frame : Nat) : Run :=
  r.mapGrants (fun g =>
    if g.state = .setAside ∧ g.slot = slot ∧ g.page = page then some { g with state := .reserved frame } else some g)

/-- An entry opens on a frame with its fees fixed from the row of the frame's deed class (R175). -/
def Grant.openOn (g : Grant) (frame : Nat) (row : FeeRow) : Grant :=
  match g.kind with
  | .plain => { g with state := .opened frame row.plain 0 false }
  | .certified => { g with state := .opened frame row.certified row.certification false }
  | .statutory => { g with state := .opened frame 0 0 false }

/-- The fee row of a deed class. -/
def FeeMeter.row (m : FeeMeter) (deedClass : Nat) : FeeRow :=
  m.fees.getD deedClass { plain := 0, certified := 0, certification := 0 }

/-- A page's set-aside entries at a hit: they open, but a CERTIFIED one on a damaged frame is refused and
given back (R122, R175). -/
def Run.openAtHit (r : Run) (slot page frame deedClass : Nat) (damaged : Bool) : Run :=
  let row := r.fee.row deedClass
  r.mapGrants (fun g =>
    if g.state = .setAside ∧ g.slot = slot ∧ g.page = page then
      (if damaged ∧ g.kind = .certified then none else some (g.openOn frame row))
    else some g)

/-- Some set-aside entry of a page is CERTIFIED, so a hit on a damaged frame refuses it (R122). -/
def FeeMeter.hasCertified (m : FeeMeter) (slot page : Nat) : Bool :=
  m.grants.any (fun o =>
    match o with
    | some g => g.state == .setAside && g.slot == slot && g.page == page && g.kind == .certified
    | none => false)

/-- A port holds a RESERVED or OPEN grant on a frame (R178). -/
def FeeMeter.holds (m : FeeMeter) (port frame : Nat) : Bool :=
  m.grants.any (fun o => match o with | some g => g.port == port && g.frame == some frame | none => false)

/-- The sweep cursor of a copier port (R177). -/
def FeeMeter.cursor (m : FeeMeter) (port : Nat) : Option Cursor := (m.cursors.getD port none)

/-- Set a cursor. -/
def Run.setCursor (r : Run) (port : Nat) (c : Option Cursor) : Run :=
  { r with fee := { r.fee with cursors := r.fee.cursors.set port c } }

/-- A sweep is abandoned when its port has lost its last grant on the cursor's frame (R176). -/
def Run.abandonSweep (r : Run) (port frame : Nat) : Run :=
  match r.fee.cursor port with
  | none => r
  | some c =>
    if c.frame = frame ∧ !r.fee.holds port frame then (r.setCursor port none).notice (.sweepLost port frame false)
    else r

/-- Grants withdrawn for one cause, in one step (R176): the RESERVED and OPEN entries that satisfy the
test become free, sweeps left without a grant are abandoned, and each frame whose grant count fell to 0
is reported to the Frame Unit, in the order of the grant table (log entries 53 and 74). -/
def Run.withdraw (r : Run) (p : Grant → Bool) : Run :=
  let gone := r.fee.grants.filterMap (fun o => o.bind (fun g => if g.frame.isSome && p g then some g else none))
  let r := r.mapGrants (fun g => if g.frame.isSome && p g then none else some g)
  let r := gone.foldl (fun r g => match g.frame with | some f => r.abandonSweep g.port f | none => r) r
  gone.foldl (fun r g => match g.frame with | some f => r.checkReclaim f | none => r) r

/-- The RESERVED grants of a frame open at its seal; if the frame is damaged the CERTIFIED ones are
withdrawn instead (R130, R175). -/
def Run.openAtSeal (r : Run) (frame deedClass : Nat) (damaged : Bool) : Run :=
  let row := r.fee.row deedClass
  let r := if damaged then r.withdraw (fun g => g.state == .reserved frame && g.kind == .certified) else r
  r.mapGrants (fun g => if g.state = .reserved frame then some (g.openOn frame row) else some g)

/-- The slots that own a RESERVED CERTIFIED grant on a frame (R130). -/
def FeeMeter.certifiedOwners (m : FeeMeter) (frame : Nat) : List Nat :=
  m.grants.filterMap (fun o =>
    o.bind (fun g => if g.state = .reserved frame ∧ g.kind = .certified then some g.slot else none))

/-! ### Charges (R180, R181, R184) -/

/-- A charge is applied to an account: what would pass the maximum goes to the saturation loss (R184). -/
def Account.charge (a : Account) (fee : Nat) : Account :=
  if a.total + fee ≤ max32 then { a with total := a.total + fee }
  else { a with total := max32, loss := min max32 (a.loss + (a.total + fee - max32)) }

/-- The copies counter of a grant's kind rises by one, stopping at 65,535 (R180). -/
def Account.countCopy (a : Account) : GrantKind → Account
  | .plain => { a with plain := satInc max16 a.plain }
  | .certified => { a with certified := satInc max16 a.certified }
  | .statutory => { a with statutory := satInc max16 a.statutory }

/-- A grant is older than another: its number is lower, or the numbers are equal and it was set aside first (R173). -/
def Grant.older (g h : Grant) : Bool :=
  decide (g.number < h.number) || (g.number == h.number && decide (g.order < h.order))

/-- The oldest OPEN grant of a port on a frame (R173, R180). -/
def oldestOpen (port frame : Nat) : Nat → List (Option Grant) → Option (Nat × Grant)
  | _, [] => none
  | i, o :: os =>
    let rest := oldestOpen port frame (i + 1) os
    match o with
    | none => rest
    | some g =>
      match g.state with
      | .setAside => rest
      | .reserved _ => rest
      | .opened f _ _ _ =>
        if g.port = port ∧ f = frame then
          (match rest with
           | some (j, h) => if h.older g then some (j, h) else some (i, g)
           | none => some (i, g))
        else rest

/-- What a completed sweep charges to a grant: the fee per copy, and once the certification fee (R180). -/
def Grant.dueNow (g : Grant) : Nat :=
  match g.state with
  | .setAside => 0
  | .reserved _ => 0
  | .opened _ fee cert charged => fee + (if g.kind = .certified ∧ !charged then cert else 0)

/-- A grant after one more copy has been charged to it (R180). -/
def Grant.afterCopy (g : Grant) : Grant :=
  match g.state with
  | .setAside => g
  | .reserved _ => g
  | .opened f fee cert charged =>
    { g with charged := g.charged + 1,
             state := .opened f fee cert (charged || g.kind == .certified) }

/-- Replace an entry of the grant table. -/
def Run.setGrant (r : Run) (i : Nat) (g : Option Grant) : Run :=
  { r with fee := { r.fee with grants := r.fee.grants.set i g } }

/-- An exhausted grant leaves the table, with a GRANT_USED notice if its slot's notify flag is set, and
the frame's grant count is reported if it is then 0 (R181). -/
def Run.exhaust (r : Run) (i : Nat) (g : Grant) (frame : Nat) : Run :=
  let r := r.setGrant i none
  let r := if (r.slotAt g.slot).notify = some true then r.notice (.grantUsed g.slot frame g.port g.account) else r
  r.checkReclaim frame

/-- A sweep completes: one copy is charged to the port's oldest OPEN grant on the frame, and the cursor
becomes idle (R180, R181). -/
def Run.completeSweep (r : Run) (port frame : Nat) : Run :=
  let r := r.setCursor port none
  match oldestOpen port frame 0 r.fee.grants with
  | none => r
  | some (i, g) =>
    let r := r.modAccount g.account (fun a => (a.charge g.dueNow).countCopy g.kind)
    let g := g.afterCopy
    if g.copies ≤ g.charged then r.exhaust i g frame else r.setGrant i (some g)

/-! ### Copier reads (R178, R179) -/

/-- A GRANTED read moves the port's cursor, by the first row of R179's table that applies. -/
def Run.applyRead (r : Run) (port frame offset len imageLen : Nat) (isSealed : Bool) : Run :=
  let advance := fun (r : Run) (next : Nat) =>
    if isSealed ∧ imageLen ≤ next then r.completeSweep port frame
    else r.setCursor port (some { frame := frame, next := next, timerAt := r.now })
  if imageLen ≤ offset then r
  else if offset = 0 then advance r len
  else
    match r.fee.cursor port with
    | none => r
    | some c => if c.frame = frame ∧ c.next = offset then advance r (offset + len) else r.setCursor port none

/-- A COPIER read is offered to the Fee Meter, which answers GRANTED or NONE and applies the read to the
port's cursor in the same step (R178). -/
def Run.offer (r : Run) (port frame offset len : Nat) : Bool × Run :=
  let none_ := match r.fee.cursor port with
    | none => r
    | some c => if c.frame = frame then r.setCursor port none else r
  if r.fee.holds port frame then
    match r.frameAt frame with
    | .filling _ _ info _ _ _ _ =>
      (true, r.applyRead port frame offset len ((info.map (fun i => i.imageLen)).getD frameBytes) false)
    | .sealed _ info _ _ _ => (true, r.applyRead port frame offset len info.imageLen true)
    | .empty => (false, none_)
    | .scan _ => (false, none_)
    | .filing _ _ _ _ => (false, none_)
  else (false, none_)

/-- A GRANTED read that met a parity fault breaks the sweep it has just moved (R183). -/
def Run.copierFault (r : Run) (port frame offset len : Nat) : Run :=
  match r.fee.cursor port with
  | none => r
  | some c => if c.frame = frame ∧ c.next = offset + len then r.setCursor port none else r

end Sys2Proof.Machine
end

