-- ==== Sys2Proof/Machine/Drives.lean ====
section
/-! DEFINITION. Drives.lean: the Drive Controllers (R85 to R100): issuing commands in the order of R89,
READY and BUSY, unloads and reloads (R94), entering FAULT (R96), the write point's confirmation (R91),
and the streams of the Frame Mover (R88). -/

namespace Sys2Proof.Machine

open Sys2Proof.Config

/-! ### Buffers and streams -/

/-- The time limit of a link command, in tenths of a second (R89). -/
def Command.limit : Command → Nat
  | .load => 250 | .findWritePoint => 200 | .read => 80 | .reread => 30 | .burn => 150 | .verify => 150
  | .unload => 200 | .restore => 300

/-- Both buffers are FREE. -/
def Drive.buffersFree (v : Drive) : Bool := v.bufA.state == .free && v.bufB.state == .free

/-- The FREE buffer taken: buffer A where both are FREE (log entry 82). -/
def Drive.freeBuf (v : Drive) : Option Nat :=
  if v.bufA.state = .free then some 0 else if v.bufB.state = .free then some 1 else none

/-- The buffer that serves a page task or a filing item. -/
def Drive.bufFor (v : Drive) (x : Serves) : Option Nat :=
  if v.bufA.serves = some x then some 0 else if v.bufB.serves = some x then some 1 else none

/-- The index of a buffer among the eight (R88). -/
def bufIdx (d b : Nat) : Nat := 2 * d + b

/-- The stream of a buffer, if any. -/
def Run.streamAt (r : Run) (idx : Nat) : Option Stream := r.mover.streams.find? (fun s => s.idx == idx)

/-- Change the stream of a buffer. -/
def Run.modStream (r : Run) (idx : Nat) (f : Stream → Stream) : Run :=
  { r with mover := { r.mover with streams := r.mover.streams.map (fun s => if s.idx = idx then f s else s) } }

/-- Data from offset `o` of an image of length `n` on is zero-filled to a whole sector (R12). -/
def zeroBeyond (n o : Nat) (bs : List Byte) : List Byte := padTo 1024 (bs.take (n - o))

/-- The image length of a frame, 0 where it is absent. -/
def Frame.imageLen (f : Frame) : Nat := (f.info.map (fun i => i.imageLen)).getD 0

/-- The judging record of a frame's page read. -/
def Run.judgingOf (r : Run) (frame : Nat) : Option Judging := r.media.judging.find? (fun j => j.frame == frame)

/-- The judging state of a position. -/
def Judging.get (j : Judging) (p : Nat) : Option Judged := (j.positions.find? (fun y => y.1 == p)).map (fun y => y.2)

/-- A position has its judgement (R88). -/
def Judging.judged (j : Judging) (p : Nat) : Bool :=
  match j.get p with
  | some .clean => true
  | some .corrected => true
  | some .uncorrectable => true
  | some (.pending _ _) => false
  | none => false

/-- A stream has a transfer ready: a loading stream with reads left, or an emptying stream whose position has
its judgement (R88). -/
def Run.streamReady (r : Run) (s : Stream) : Bool :=
  if s.loading then decide (s.done < s.total)
  else match r.judgingOf s.frame with
    | some j => j.judged s.pos
    | none => false

/-- The first stream at or after the rotating pointer that has a transfer ready (R88). -/
def Run.nextStream (r : Run) : Option Nat :=
  ((List.range 8).map (fun i => (r.mover.pointer + i) % 8)).find? (fun i =>
    match r.streamAt i with
    | some s => r.streamReady s
    | none => false)

/-- An internal mover's transfer holds the port (R37). -/
def Port.heldBy (p : Port) (m : Mover) : Bool :=
  match p with
  | .free => false
  | .system _ _ => false
  | .mover n _ => n == m

/-- The Frame Mover presents the next transfer to the arbiter, one at a time: the first stream at or after the rotating
pointer that has one ready, and the pointer goes to the buffer after it (R39, R88, log entry 25). -/
def Run.presentNext (r : Run) : Run :=
  if r.mover.presented.isSome || r.path.port.heldBy .frameMover then r
  else match r.nextStream with
    | none => r
    | some i => { r with mover := { r.mover with presented := some i, pointer := (i + 1) % 8 } }

/-- The next write of an emptying stream: 32 bytes of its position (R12, R36, R88). -/
def Run.streamWrite (r : Run) (s : Stream) : MemWrite :=
  let data := (((r.driveAt (s.idx / 2)).buf (s.idx % 2)).positions.getD s.pos { report := .clean, data := [] }).data
  let len := (r.frameAt s.frame).imageLen
  { addr := frameBytes * s.frame + 1024 * (s.pos - 1) + 32 * s.done,
    bytes := ((zeroBeyond len (1024 * (s.pos - 1)) data).drop (32 * s.done)).take 32 }

/-- The next read of a loading stream: up to 32 bytes of the words that hold image bytes (R88). -/
def Run.streamRead (r : Run) (s : Stream) : Nat × Nat :=
  let len := 4 * ceilDiv (r.frameAt s.frame).imageLen 4
  (frameBytes * s.frame + 32 * s.done, min 32 (len - 32 * s.done))

/-- A stream ends, and a transfer of it that waits is withdrawn.  One that holds the port completes at memory and is told
to nobody (R40, R96). -/
def Run.endStream (r : Run) (idx : Nat) : Run :=
  let port := match r.path.port, r.streamAt idx with
    | .mover m (.stream i), some s =>
      if i = idx then .mover m (.orphan (if s.loading then none else some (r.streamWrite s))) else r.path.port
    | p, _ => p
  let waited := r.mover.presented == some idx
  let r : Run :=
    { r with path := { r.path with port := port },
             mover := { r.mover with streams := r.mover.streams.filter (fun s => s.idx != idx),
                                     presented := if waited then none else r.mover.presented } }
  if waited then r.push .present else r

/-- A buffer becomes FREE, its stream ending and its unissued rereads going with it; a REREAD in
progress of it has its completion discarded (R87, R92, R161). -/
def Run.freeBuffer (r : Run) (d b : Nat) : Run :=
  let r := r.endStream (bufIdx d b)
  r.modDrive d (fun v =>
    let v := v.modBuf b (fun _ => Buffer.blank)
    { v with rereads := v.rereads.filter (fun x => x.1 != b),
             command := v.command.map (fun c =>
               if c.buf = b ∧ (c.command = .reread ∨ c.command = .read) then { c with discard := true } else c) })

/-! ### Commands -/

/-- A command is issued on the drive's channel and its timer starts (R89, R95). -/
def Run.issue (r : Run) (d : Nat) (c : Command) (buf start count pos : Nat) : Run :=
  r.modDrive d (fun v =>
    { v with command := some { command := c, buf := buf, start := start, count := count, pos := pos,
                               issuedAt := r.now, discard := false } })

/-- A drive begins a LOAD (R89, R94, R99). -/
def Run.beginLoad (r : Run) (d : Nat) (why : LoadFor) : Run :=
  (r.modDrive d (fun v => { v with state := .loading, loadFor := why, reloadNext := false, lastSector := none })).issue d
    .load 0 0 0 0

/-- An unload begins: the drive is UNLOADING, UNLOAD is issued, and the ask is over (R85, R94, log entry 62). -/
def Run.beginUnload (r : Run) (d : Nat) : Run :=
  (r.modDrive d (fun v => { v with state := .unloading, unloadAsked := false })).issue d .unload 0 0 0 0

/-- The drive would be READY: it becomes UNLOADING if an unload is asked, and otherwise READY, with the
Scheduler told (R86, R94). -/
def Run.becomeReady (r : Run) (d : Nat) : Run :=
  if (r.driveAt d).unloadAsked then r.beginUnload d
  else ((r.modDrive d (fun v => { v with state := .ready, readySince := r.now })).push (.driveReady d)).wantPass

/-- The recorded write point of a volume's side (R63). -/
def Run.writePoint (r : Run) (serial : Nat) (side : Side) : Nat :=
  ((r.volume serial).map (fun v => (v.sideRec side).writePoint)).getD 0

/-- The confirmed flag of a volume's side (R63). -/
def Run.confirmed (r : Run) (serial : Nat) (side : Side) : Bool :=
  ((r.volume serial).map (fun v => (v.sideRec side).confirmed)).getD false

/-- The serial in a drive, if the drive holds an identified volume (R85). -/
def Drive.serial (v : Drive) : Option Nat :=
  match v.volume with
  | some (.serial n) => some n
  | some .unidentified => none
  | none => none

/-- The conditions of R93 on a BURN handed to a drive. -/
def Run.burnAllowed (r : Run) (d : Nat) (b : Buffer) : Bool :=
  match (r.driveAt d).serial with
  | none => false
  | some n => decide (b.start = r.writePoint n (r.driveAt d).side) && r.confirmed n (r.driveAt d).side &&
      decide (b.start + b.count ≤ sideSectors)

/-- The state of one copy of an item in flight changes. -/
def Flight.setCopy (f : Flight) (d : Nat) (s : CopyState) : Flight :=
  let g := fun (c : Copy) => if c.drive = d then { c with state := s } else c
  { f with primary := f.primary.map g, safety := f.safety.map g }

/-- A copy's result is given to the Filing Unit, which goes on (R147). -/
def Run.copyResult (r : Run) (d item : Nat) (s : CopyState) : Run :=
  Run.push { r with filing := { r.filing with flight := r.filing.flight.map (fun f =>
    if f.id = item then f.setCopy d s else f) } } .pump

/-- The buffer of a drive whose BURN has just completed OK and is to be verified. -/
def Drive.toVerify (v : Drive) : Option Nat :=
  if v.bufA.burned ∧ v.bufA.state = .burning then some 0
  else if v.bufB.burned ∧ v.bufB.state = .burning then some 1 else none

/-- The buffer of a drive whose BURN has been handed and is to be issued. -/
def Drive.toBurn (v : Drive) : Option Nat :=
  if v.bufA.handed ∧ v.bufA.state = .loading then some 0
  else if v.bufB.handed ∧ v.bufB.state = .loading then some 1 else none

/-- The READ to issue next: a data READ before a header READ, in the order asked; a header READ needs a
FREE buffer, a data READ the buffer that holds its page (R89). -/
def Drive.nextAsk (v : Drive) : Option (ReadAsk × Nat) :=
  match v.asks.find? (fun a => a.data && (v.bufFor (.task a.frame)).isSome) with
  | some a => (v.bufFor (.task a.frame)).map (fun b => (a, b))
  | none =>
    match v.asks.find? (fun a => !a.data) with
    | some a => v.freeBuf.map (fun b => (a, b))
    | none => none

/-- The fill phase of a frame becomes STARTED when its header READ is issued (R12). -/
def Run.startFill (r : Run) (n : Nat) : Run :=
  match r.frameAt n with
  | .filling t _ i m d c hs => r.setFrame n (.filling t .started i m d c hs)
  | _ => r

/-- A READ asked by a page task is issued into its buffer (R87, R92). -/
def Run.issueRead (r : Run) (d : Nat) (a : ReadAsk) (b : Nat) : Run :=
  match r.taskAt a.frame with
  | none => r.modDrive d (fun v => { v with asks := v.asks.filter (fun x => x != a) })
  | some t =>
    let n := if a.data then ceilDiv (r.frameAt a.frame).imageLen 1024 else 1
    let start := if a.data then t.loc.sector + 1 else t.loc.sector
    let r := r.modDrive d (fun v => { v with asks := v.asks.filter (fun x => x != a), state := .busy })
    let r := r.modBuf d b (fun x =>
      { x with state := .reading, serves := some (.task a.frame), side := t.loc.side, start := start, count := n })
    let r := if a.data then r else r.startFill a.frame
    r.issue d .read b start (min n (sideSectors - start)) (if a.data then 1 else 0)

/-- A Drive Controller takes its next step when its channel is free: it issues the first command of R89's
order that is ready, refuses a BURN that fails R93, and otherwise is BUSY while a buffer is in use, or
READY (R86). -/
def Run.driveStep (r : Run) (d : Nat) : Run :=
  let v := r.driveAt d
  match v.state with
  | .empty => r
  | .loading => r
  | .unloading => r
  | .fault => r
  | .ready | .busy =>
    if v.command.isSome then r.modDrive d (fun v => { v with state := .busy })
    else
      match v.toVerify with
      | some b =>
        (r.modBuf d b (fun x => { x with state := .verifying, burned := false })).issue d .verify b
          (v.buf b).start (v.buf b).count 0
      | none =>
        match v.rereads with
        | (b, p) :: rest =>
          (r.modDrive d (fun v => { v with rereads := rest, state := .busy })).issue d .reread b
            ((v.buf b).start + p - (if (v.buf b).count = 1 ∧ p = 0 then 0 else 1)) 1 p
        | [] =>
          match v.toBurn with
          | some b =>
            if r.burnAllowed d (v.buf b) then
              (r.modBuf d b (fun x => { x with state := .burning, handed := false })).issue d .burn b
                (v.buf b).start (v.buf b).count 0
            else
              let item := match (v.buf b).serves with
                | some (.item i) => i
                | some (.task _) => 0
                | none => 0
              ((r.freeBuffer d b).copyResult d item .failed).push (.drive d)
          | none =>
            match v.nextAsk with
            | some (a, b) => (r.issueRead d a b).push (.placeTasks d)
            | none =>
              if v.buffersFree then (if v.state = .ready ∧ !v.unloadAsked then r else r.becomeReady d)
              else r.modDrive d (fun v => { v with state := .busy })

/-- An unload is asked of a drive (R94): `none` when it is taken, otherwise the code of its refusal.  An UNLOADING drive
that was to reload stays unloaded for the new ask (log entry 61). -/
def Run.askUnload (r : Run) (d : Nat) : Option Code × Run :=
  match (r.driveAt d).state with
  | .ready => (none, r.beginUnload d)
  | .loading => (none, r.modDrive d (fun v => { v with unloadAsked := true }))
  | .busy => (none, r.modDrive d (fun v => { v with unloadAsked := true }))
  | .unloading => (none, r.modDrive d (fun v => { v with reloadNext := false }))
  | .fault => (some .driveFault, r)
  | .empty => (some .volumeMissing, r)

/-- The drive's order has ended before its grant, so the platter stays and the drive reloads: at once if
its UNLOAD has completed, after it if it is in progress; an unload not yet begun is forgotten (R94). -/
def Run.reload (r : Run) (d : Nat) : Run :=
  let v := r.driveAt d
  let why : LoadFor := if v.volume = some .unidentified then .unidentified else .mount
  match v.state with
  | .unloading => if v.command.isNone then r.beginLoad d why else r.modDrive d (fun v => { v with reloadNext := true })
  | .loading => r.modDrive d (fun v => { v with unloadAsked := false })
  | .busy => r.modDrive d (fun v => { v with unloadAsked := false })
  | .empty => r
  | .ready => r
  | .fault => r

/-- A drive enters FAULT, in one step (R96): the command ends and the channel is free, buffers become
FREE with their pages reported, streams and rereads end, the other blocks are told, and a DRIVE_FAULT
notice is taken.  The Filing Unit has the fault of a drive that its job holds before the results of the copies that
were burning there (R152). -/
def Run.enterFault (r : Run) (d : Nat) (timeout : Bool) (cmd : Option Command) : Run :=
  let v := r.driveAt d
  let code : Code := if timeout then .timeout else .driveFault
  let report := fun (r : Run) (b : Buffer) =>
    match b.serves with
    | none => r
    | some (.task f) => if b.state = .free then r else r.push (.fillFail f code)
    | some (.item i) =>
      match b.state with
      | .burning => r.copyResult d i .failed
      | .verifying => r.copyResult d i .failed
      | .loading => if b.handed then r.copyResult d i .failed else r
      | .free => r
      | .reading => r
      | .held => r
  let r := match (r.assignAt d).holder with
    | some j => r.push (.burnFails j code)
    | none => r
  let r := report (report r v.bufA) v.bufB
  let r := (r.endStream (bufIdx d 0)).endStream (bufIdx d 1)
  let r := r.modDrive d (fun v =>
    { v with state := .fault, faultTimeout := timeout, faultCommand := cmd, command := none,
             unloadAsked := false, rereads := [], asks := [], reloadNext := false,
             bufA := Buffer.blank, bufB := Buffer.blank })
  (r.push (.driveFault d timeout)).notice (.driveFault d timeout cmd)

/-! ### Write points (R91, R136, R147) -/

/-- A side's write point is raised to a value, never lowered; at 524,288 the side is full (R136). -/
def SideRec.raise (s : SideRec) (upTo : Nat) : SideRec :=
  let w := max s.writePoint upTo
  { s with writePoint := w, full := s.full || decide (w = sideSectors) }

/-- The Filing Unit raises the write point of a volume's side. -/
def Run.raiseWritePoint (r : Run) (serial : Nat) (side : Side) (upTo : Nat) : Run :=
  r.modVolume serial (fun v => v.modSide side (fun s => s.raise upTo))

/-- The other volume of an ACTIVE or CLOSING filing pair record (R136). -/
def PairRec.otherOf (p : PairRec) (serial : Nat) : Option Nat :=
  match p with
  | .absent => none
  | .establishing _ _ _ _ _ => none
  | .active a b _ => if serial = a then some b else if serial = b then some a else none
  | .closing a b _ _ => if serial = a then some b else if serial = b then some a else none

/-- The confirmation of a side: its write point becomes the larger of the recorded and the found value
and its confirmed flag is set; the same side of the other volume of an ACTIVE or CLOSING pair is raised
with it (R91, R136). -/
def Run.confirmSide (r : Run) (serial : Nat) (side : Side) (found : Nat) : Run :=
  let raised := decide (r.writePoint serial side < found)
  let r := r.modVolume serial (fun v => v.modSide side (fun s => { s.raise found with confirmed := true }))
  if raised then
    match r.store.pair.otherOf serial with
    | some o => r.raiseWritePoint o side (r.writePoint serial side)
    | none => r
  else r

end Sys2Proof.Machine
end

