-- ==== Sys2Proof/Machine/Arm.lean ====
section
/-! DEFINITION. Arm.lean: the Picker Controller's operations (R70 to R82): placing and ending orders, the
grant of the arm, the ends of its moves, picker faults, the hatch, and the audit. -/

namespace Sys2Proof.Machine

open Sys2Proof.Config

/-! ### Orders -/

/-- An order is placed at the tail of the list with the next order number; while the picker is in FAULT
it is not entered and ends at once (R70, R71). -/
def Run.placeOrder (r : Run) (kind : OrderKind) (drive volume : Option Nat) (side : Option Side)
    (cell : Option Nat) (level : Nat) (who : Requester) : Run :=
  let o : Order :=
    { kind := kind, drive := drive, volume := volume, side := side, cell := cell, level := level,
      number := r.picker.nextOrder, requester := who }
  if r.picker.state = .fault then r.push (.orderEnded o (some .pickerFault) 0 0)
  else
    Run.push { r with picker := { r.picker with orders := r.picker.orders ++ [o],
                                                nextOrder := satInc max32 r.picker.nextOrder } } .arm

/-- Every order of the list that satisfies a test ends with a code and leaves the list. -/
def Run.endOrders (r : Run) (p : Order → Bool) (code : Code) : Run :=
  let gone := r.picker.orders.filter p
  let r : Run := { r with picker := { r.picker with orders := r.picker.orders.filter (fun o => !p o) } }
  gone.foldl (fun r o => r.push (.orderEnded o (some code) 0 0)) r

/-- An order takes a platter out of a drive. -/
def Order.fromDrive (o : Order) : Bool :=
  match o.kind with
  | .mount => false
  | .unmount => true
  | .flip => true
  | .importIn => false
  | .exportOut => o.drive.isSome
  | .probe => false

/-- Whether an order may be granted (R70). -/
def Run.eligible (r : Run) (o : Order) : Bool :=
  match o.kind, o.drive with
  | .mount, some d => (r.driveAt d).state == .empty
  | .mount, none => false
  | .unmount, some d => (r.driveAt d).state == .unloading && (r.driveAt d).command.isNone
  | .unmount, none => false
  | .flip, some d => (r.driveAt d).state == .unloading && (r.driveAt d).command.isNone
  | .flip, none => false
  | .importIn, _ => true
  | .exportOut, some d => (r.driveAt d).state == .unloading && (r.driveAt d).command.isNone
  | .exportOut, none => true
  | .probe, _ => false

/-- The order to grant: the most urgent level, then the lowest number, then the first entered (R71). -/
def bestOrder : List Order → Option Order
  | [] => none
  | o :: os =>
    match bestOrder os with
    | none => some o
    | some p => if p.level < o.level ∨ (p.level = o.level ∧ p.number < o.number) then some p else some o

/-- The picker order in progress, if the move is one. -/
def Picker.inProgress (p : Picker) : Option Order :=
  match p.move with
  | none => none
  | some m =>
    match m.what with
    | .order o => some o
    | .reHome => none
    | .putAway => none
    | .probe _ => none

/-- Some order of the list or in progress names a drive. -/
def Picker.ordersDrive (p : Picker) (d : Nat) : Bool :=
  p.orders.any (fun o => o.drive == some d) ||
    (match p.inProgress with | some o => o.drive == some d | none => false)

/-- A job has an order in progress (R114). -/
def Picker.jobMoving (p : Picker) (job : Nat) : Bool :=
  match p.inProgress with
  | some o => o.requester == .job job
  | none => false

/-- A drive that is the source of the granted order becomes EMPTY (R72, R94), and a pass follows (R104). -/
def Run.driveTaken (r : Run) (d : Nat) : Run :=
  (r.modDrive d (fun v =>
    { v with state := .empty, volume := none, side := .a, loadReport := none, unloadAsked := false,
             reloadNext := false, command := none })).wantPass

/-- A move begins: the order leaves the waiting list, the picker is MOVING and the move timer starts
(R72). -/
def Run.beginMove (r : Run) (o : Order) (src dest : Option Place) (c : Carried) : Run :=
  let m : Move :=
    { what := .order o, startedAt := r.now, src := src, dest := dest, carried := c, probed := false, strip := none }
  { r with picker := { r.picker with state := .moving, move := some m } }

/-- An order ends at its grant before any move, and the grant decision is made again (R71, R73, log entry 58). -/
def Run.endAtGrant (r : Run) (o : Order) (code : Option Code) (serial cell : Nat) : Run :=
  (r.push (.orderEnded o code serial cell)).push .arm

/-- An UNMOUNT is granted (R72, R73): a volume goes to its home cell or another free cell, and an
UNIDENTIFIED platter to the lowest free one. -/
def Run.grantUnmount (r : Run) (o : Order) (d : Nat) : Run :=
  match r.putAwayCell o.volume with
  | none => r.endAtGrant o (some .noCell) 0 0
  | some c =>
    match o.volume with
    | some n => ((r.driveTaken d).placeVolume n .hand).beginMove o (some (.drive d)) (some (.cell c)) (.volume n)
    | none => (r.driveTaken d).beginMove o (some (.drive d)) (some (.cell c)) .unrecorded

/-- An EXPORT is granted (R72, R73, R77).  The filing pair record is looked at before a cell is chosen (log entry 57), and a
cell before where the volume lies: one that lies in a hand-off cell by now ends the order without a move (log entry 92). -/
def Run.grantExport (r : Run) (o : Order) (n : Nat) : Run :=
  if r.store.pair.claims n then r.endAtGrant o (some .roleActive) 0 0
  else
    match r.freeHandOff (some n) with
    | none => r.endAtGrant o (some .noCell) 0 0
    | some c =>
      match o.drive with
      | some d => ((r.driveTaken d).placeVolume n .hand).beginMove o (some (.drive d)) (some (.cell c)) (.volume n)
      | none =>
        match r.locOf n with
        | some (.cell s) =>
          if 88 ≤ s then r.endAtGrant o none n s
          else (r.placeVolume n .hand).beginMove o (some (.cell s)) (some (.cell c)) (.volume n)
        | some (.drive _) =>
          (match o.requester with
           | .job j => (r.push (.exportAct j)).push .arm
           | .restore _ => r
           | .nobody => r)
        | _ => r.endAtGrant o (some .volumeMissing) 0 0

/-- The arm is granted to an order (R72, R73). -/
def Run.grantOrder (r : Run) (o : Order) : Run :=
  let r : Run := { r with picker := { r.picker with orders := r.picker.orders.filter (fun x => x != o) } }
  match o.kind with
  | .mount =>
    match o.drive, o.volume.bind (fun n => r.locOf n) with
    | some d, some (.cell c) =>
      let n := o.volume.getD 0
      (r.placeVolume n .hand).beginMove o (some (.cell c)) (some (.drive d)) (.volume n)
    | _, _ => r.endAtGrant o (some .volumeMissing) 0 0
  | .unmount =>
    match o.drive with
    | some d => r.grantUnmount o d
    | none => r.endAtGrant o (some .volumeMissing) 0 0
  | .flip =>
    match o.drive, o.volume with
    | some d, some n =>
      let o' : Order := { o with side := some (otherSide (r.driveAt d).side) }
      ((r.driveTaken d).placeVolume n .hand).beginMove o' (some (.drive d)) (some (.drive d)) (.volume n)
    | _, _ => r.endAtGrant o (some .volumeMissing) 0 0
  | .importIn =>
    let c := o.cell.getD 88
    let v := (r.volumeIn (.cell c)).map (fun v => v.serial)
    match r.freeShelf v with
    | none => r.endAtGrant o (some .noCell) 0 0
    | some t =>
      let o' : Order := { o with volume := v }
      match v with
      | some n => (r.placeVolume n .hand).beginMove o' (some (.cell c)) (some (.cell t)) (.volume n)
      | none => r.beginMove o' (some (.cell c)) (some (.cell t)) .unrecorded
  | .exportOut =>
    match o.volume with
    | some n => r.grantExport o n
    | none => r.endAtGrant o (some .volumeMissing) 0 0
  | .probe => r

/-- The arm may be granted: the picker IDLE, the hatch LOCKED, no audit running, and the power-up audit
over (R71, R83). -/
def Run.armFree (r : Run) : Bool :=
  r.picker.state == .idle && r.picker.hatch == .locked && r.picker.audit.isNone && r.startup.stage == .done

/-- The grant decision (R71). -/
def Run.armStep (r : Run) : Run :=
  if r.armFree then
    match bestOrder (r.picker.orders.filter r.eligible) with
    | none => r
    | some o => r.grantOrder o
  else r

/-! ### The hatch (R78, R79) -/

/-- The OPEN HATCH requests waiting end DONE (R78, R79). -/
def Run.endHatchOps (r : Run) : Run :=
  let ops := r.picker.hatchOps
  ops.foldl (fun r s => r.endDone s 1 []) { r with picker := { r.picker with hatchOps := [] } }

/-- RELEASE_PENDING becomes RELEASED once the picker is IDLE or in FAULT (R78): the waiting requests end before the
HATCH_RELEASED notice is taken (R49, log entry 91). -/
def Run.hatchStep (r : Run) : Run :=
  if r.picker.hatch = .releasePending ∧ r.picker.state ≠ .moving then
    let p : Picker := { r.picker with hatch := .released, windowStart := some r.now }
    (Run.endHatchOps { r with picker := p }).notice (.hatchReleased r.picker.releaseCause)
  else r

/-- A release request sets RELEASE_PENDING, or the pending-release flag while the power-up audit or an
audit stands in its way (R78). -/
def Run.askRelease (r : Run) (cause : ReleaseCause) : Run :=
  let flag : Picker :=
    { r.picker with pendingRelease := some (r.picker.pendingRelease.getD cause) }
  match r.picker.hatch with
  | .locked =>
    if r.picker.audit.isSome ∨ r.startup.stage = .drives ∨ r.startup.stage = .audit then { r with picker := flag }
    else Run.push { r with picker := { r.picker with hatch := .releasePending, releaseCause := cause } } .hatch
  | .auditing => { r with picker := flag }
  | .releasePending => r
  | .released => r
  | .opened => r

/-- An OPEN HATCH operation begins (R78). -/
def Run.openHatch (r : Run) (slot : Nat) : Run :=
  match r.picker.hatch with
  | .released => r.endDone slot 1 []
  | .opened => r.endDone slot 1 []
  | .locked => Run.askRelease { r with picker := { r.picker with hatchOps := r.picker.hatchOps ++ [slot] } } .request
  | .releasePending => { r with picker := { r.picker with hatchOps := r.picker.hatchOps ++ [slot] } }
  | .auditing => Run.askRelease { r with picker := { r.picker with hatchOps := r.picker.hatchOps ++ [slot] } } .request

/-! ### The audit (R80 to R82) -/

/-- The serials recorded MISSING. -/
def Store.missing (s : Store) : List Nat :=
  s.volumes.filterMap (fun o => o.bind (fun v => if v.loc = .missing then some v.serial else none))

/-- An audit begins; its re-homing waits for a move in progress (R79, R80). -/
def Run.beginAudit (r : Run) : Run :=
  let a : Audit := { phase := .waiting, created := 0, missingBefore := r.store.missing }
  Run.push { r with picker := { r.picker with audit := some a } } .audit

/-- A move of the audit begins under the 40 s limit (R80). -/
def Run.auditMove (r : Run) (what : MoveFor) (dest : Option Place) (c : Carried) : Run :=
  let m : Move :=
    { what := what, startedAt := r.now, src := none, dest := dest, carried := c, probed := false, strip := none }
  { r with picker := { r.picker with state := .moving, move := some m } }

/-- The audit goes on: with no move in progress a waiting audit begins its re-homing (R80). -/
def Run.auditStep (r : Run) : Run :=
  match r.picker.audit with
  | none => r
  | some a =>
    if a.phase = .waiting ∧ r.picker.move = none then
      Run.auditMove { r with picker := { r.picker with audit := some { a with phase := .running } } } .reHome none .nothing
    else r

/-- The orders that an audit's end fails: those that name a volume now MISSING or unrecorded, and an
IMPORT whose cell is not occupied (R82). -/
def Run.orderLost (r : Run) (o : Order) : Bool :=
  (match o.kind with
   | .importIn => !r.cellOccupied (o.cell.getD 88)
   | _ => false) ||
  (match o.volume with
   | none => false
   | some n =>
     match r.locOf n with
     | none => true
     | some .missing => true
     | some _ => false)

/-- The audit ends, in one step (R82).  One that ends in step 5 or 6 of a power-up is the audit of step 6 (log entry 76). -/
def Run.auditEnd (r : Run) (a : Audit) : Run :=
  let lost := (r.store.missing.filter (fun n => !a.missingBefore.contains n)).length
  let r : Run := { r with picker := { r.picker with audit := none, hatch := .locked, windowStart := none } }
  let r := r.notice (.auditDone a.created lost)
  let r := (r.endOrders r.orderLost .volumeMissing).createLabelChecks
  let u : StartUp :=
    { r.startup with auditDone := r.startup.auditDone || r.startup.stage == .drives || r.startup.stage == .audit }
  let r : Run := { r with startup := u }
  let r := match r.picker.pendingRelease with
    | none => r
    | some c =>
      Run.push { r with picker := { r.picker with hatch := .releasePending, releaseCause := c, pendingRelease := none } } .hatch
  (r.push .startup).push .arm

/-- The PICKER_FAULT notice of a move (R74): it names the kind of the order in progress, PROBE for an audit's probe
(R70, R80); the kind of an audit's re-homing or put-away is a free value (log entry 27). -/
def Run.faultNotice (r : Run) (m : Move) : Notice :=
  let serial := (r.volumeIn .hand).map (fun v => v.serial)
  match m.what with
  | .order o => .pickerFault o.kind serial
  | .reHome => .auditFault r.now r.picker.auditFaults serial
  | .putAway => .auditFault r.now r.picker.auditFaults serial
  | .probe _ => .pickerFault .probe serial

/-- The count of picker faults that no order kind names, after a fault of a move (log entry 27). -/
def Picker.faultsAfter (p : Picker) (m : Move) : Nat :=
  match m.what with
  | .order _ => p.auditFaults
  | .reHome => p.auditFaults + 1
  | .putAway => p.auditFaults + 1
  | .probe _ => p.auditFaults

/-- The picker enters FAULT (R74): the move ends, what the hand held stays noted, every order ends with
PICKER_FAULT, and a PICKER_FAULT notice is taken; an audit is abandoned (R80, R81). -/
def Run.pickerFault (r : Run) (m : Move) : Run :=
  let n := r.faultNotice m
  let p : Picker :=
    { r.picker with state := .fault, move := none, auditFaults := r.picker.faultsAfter m,
                    handUnrecorded := r.picker.handUnrecorded || m.carried == .unrecorded }
  let r : Run := { r with picker := p }
  let r := r.notice n
  let r := match m.what with
    | .order o => r.push (.orderEnded o (some .pickerFault) 0 0)
    | .reHome => r
    | .putAway => r
    | .probe _ => r
  let r := match r.picker.audit with
    | none => r
    | some a =>
      match a.phase with
      | .running => r.auditEnd a
      | .stopping => { r with picker := { r.picker with audit := none } }
      | .waiting => r.push .audit
  (r.endOrders (fun _ => true) .pickerFault).push .hatch

/-- The move in progress has ended: the picker is IDLE, and the arm, the hatch and the audit go on. -/
def Run.moveOver (r : Run) : Run :=
  let r : Run := { r with picker := { r.picker with state := .idle, move := none } }
  ((r.push .hatch).push .audit).push .arm

/-- After a move of the audit: a stopping audit ends without the effects of R82, one replaced by a new
audit lets that begin, and a running one goes on to the next move (R79, R80). -/
def Run.auditNext (r : Run) (next : Run → Run) : Run :=
  match r.picker.audit with
  | none => r.moveOver
  | some a =>
    match a.phase with
    | .running => next r
    | .stopping => Run.moveOver { r with picker := { r.picker with audit := none } }
    | .waiting => r.moveOver

/-- The audit probes cell `c`, or ends after H1 (R80, R82). -/
def Run.auditProbe (c : Nat) (r : Run) : Run :=
  if c < 90 then r.auditMove (.probe c) none .nothing
  else
    match r.picker.audit with
    | none => r.moveOver
    | some a => Run.auditEnd { r with picker := { r.picker with state := .idle, move := none } } a

/-- The re-homing ended (R80): an empty hand loses the volume recorded in it; a held platter is put into
a cell, or the picker is put in FAULT when no cell is free. -/
def Run.afterReHome (r : Run) (m : Move) (holds : Bool) : Run :=
  let v := (r.volumeIn .hand).map (fun v => v.serial)
  if holds then
    let r : Run := { r with picker := { r.picker with handUnrecorded := v.isNone } }
    r.auditNext (fun r =>
      match r.putAwayCell v with
      | none => r.pickerFault m
      | some c =>
        match v with
        | some n => r.auditMove .putAway (some (.cell c)) (.volume n)
        | none => r.auditMove .putAway (some (.cell c)) .unrecorded)
  else
    let r : Run := { r with picker := { r.picker with handUnrecorded := false } }
    let r := match v with | some n => r.loseVolume n | none => r
    r.auditNext (Run.auditProbe 0)

/-- The effect of an audit probe's result on cell `c` (R81). -/
def Run.probed (r : Run) (c : Nat) (p : Probe) : Run :=
  let v := (r.volumeIn (.cell c)).map (fun v => v.serial)
  let lose := fun (r : Run) => match v with | some n => r.loseVolume n | none => r
  match p with
  | .nothing => (lose r).setMark c false
  | .unreadable => (lose r).setMark c true
  | .strip s blank =>
    if v = some s then r.setMark c false
    else
      let r := lose r
      match r.locOf s with
      | some (.drive _) => r.setMark c true
      | some _ => (r.shelveVolume s c).setMark c false
      | none => (r.createVolume s blank (.cell c)).setMark c false

/-! ### The ends of moves (R72, R73) -/

/-- A MOUNT or FLIP ends: the volume is in the drive, which is told what it holds and begins its LOAD. -/
def Run.intoDrive (r : Run) (n d : Nat) (side : Side) : Run :=
  let r := r.placeVolume n (.drive d)
  (r.modDrive d (fun v => { v with volume := some (.serial n), side := side })).beginLoad d .mount

/-- An IMPORT's platter has been carried to its destination (R73). -/
def Run.importEnds (r : Run) (o : Order) (src dest : Nat) (serial : Nat) (blank : Bool) : Run :=
  let r := match o.volume with
    | some n => if n = serial then r else r.loseVolume n
    | none => r
  let r := r.setMark src false
  let r := match r.locOf serial with
    | some _ => r.shelveVolume serial dest
    | none =>
      let r := r.createVolume serial blank (.cell dest)
      if blank then r else r.createLabelCheck serial
  r.push (.orderEnded o none serial dest)

/-- The EXPORT jobs that wait for a volume in the hand act again by where it lies (R77). -/
def Run.wakeExports (r : Run) (serial : Nat) : Run :=
  (r.sched.jobs.filter (fun j => j.kind == .exportOut serial && j.state == .running)).foldl
    (fun r j => r.push (.exportAct j.id)) r

/-- The effect of a move's end on the records (R72, R80). -/
def Run.moveEnds (r : Run) (m : Move) : Run :=
  match m.what with
  | .order o =>
    match o.kind, m.dest, m.carried with
    | .mount, some (.drive d), .volume n =>
      ((r.intoDrive n d (o.side.getD .a)).push (.orderEnded o none 0 0)).moveOver
    | .flip, some (.drive d), .volume n =>
      ((r.intoDrive n d (o.side.getD .a)).push (.orderEnded o none 0 0)).moveOver
    | .unmount, some (.cell c), .volume n =>
      ((r.shelveVolume n c).push (.orderEnded o none n c)).moveOver
    | .unmount, some (.cell c), _ => ((r.setMark c true).push (.orderEnded o none 0 c)).moveOver
    | .exportOut, some (.cell c), .volume n =>
      ((r.shelveVolume n c).push (.orderEnded o none n c)).moveOver
    | .importIn, some (.cell c), _ =>
      match m.strip with
      | some (s, blank) => (r.importEnds o (o.cell.getD 88) c s blank).moveOver
      | none => r
    | _, _, _ => r
  | .reHome => r
  | .probe _ => r
  | .putAway =>
    let r : Run := { r with picker := { r.picker with handUnrecorded := false } }
    let r := match m.dest, m.carried with
      | some (.cell c), .volume n => (r.shelveVolume n c).wakeExports n
      | some (.cell c), .unrecorded => r.setMark c true
      | _, _ => r
    r.auditNext (Run.auditProbe 0)

/-- MOVE_END is the report for this move: an order's move (an IMPORT's after its probe has let the
platter be carried) or the audit's put-away. -/
def Move.endsByReport (m : Move) : Bool :=
  match m.what with
  | .order o => o.kind != .importIn || m.probed
  | .reHome => false
  | .putAway => true
  | .probe _ => false

/-- The probe that begins an IMPORT move reports (R73). -/
def Run.importProbed (r : Run) (m : Move) (o : Order) (p : Probe) : Run :=
  let c := o.cell.getD 88
  let back := fun (r : Run) => match o.volume with | some n => r.modVolume n (fun v => { v with loc := .cell c }) | none => r
  match p with
  | .nothing =>
    let r := match o.volume with | some n => r.loseVolume n | none => r
    ((r.setMark c false).push (.orderEnded o (some .volumeMissing) 0 0)).moveOver
  | .unreadable => ((back r).push (.orderEnded o (some .badRequest) 0 0)).moveOver
  | .strip s blank =>
    let elsewhere := match r.locOf s with
      | none => false
      | some .missing => false
      | some _ => o.volume != some s
    if elsewhere then ((back r).push (.orderEnded o (some .badRequest) 0 0)).moveOver
    else { r with picker := { r.picker with move := some { m with probed := true, strip := some (s, blank) } } }

/-! ### The hand-off cells (R75) -/

/-- A hand-off cell's sensor reports a platter taken (R75). -/
def Run.handTaken (r : Run) (c : Nat) : Run :=
  let v := (r.volumeIn (.cell c)).map (fun v => v.serial)
  let r := r.setMark c false
  let r := match v with
    | none => r
    | some n => if r.store.pair.claims n then r.loseVolume n else r.removeVolume n
  r.endOrders (fun o => o.cell == some c || (v.isSome && o.volume == v)) .volumeMissing

end Sys2Proof.Machine
end

