-- ==== Sys2Proof/Machine/Jobs.lean ====
section
/-! DEFINITION. Jobs.lean: the Scheduler's operations on jobs (R101 to R103, R109, R111, R113 to R115): the
work on a drive, orders dropped with their job, stopping, release, the suspension list, and a job's end. -/

namespace Sys2Proof.Machine

open Sys2Proof.Config

/-- A page task is placed: its header READ has been asked (R110). -/
def Task.placed (t : Task) : Bool := t.phase != .unplaced

/-- Some task is placed on a drive (R110). -/
def Run.placedOn (r : Run) (d : Nat) : Bool := r.retr.tasks.any (fun t => t.placed && t.drive == some d)

/-- The jobs with work on a drive (R113): tasks in its list or placed on it, groups in its flip list, a
holding, a claim, an incoming exchange, a label check or an EXPORT departure.  An exchange that stands for nobody once
its label check has ended is no job's work. -/
def Run.workers (r : Run) (d : Nat) : List Nat :=
  let a := r.assignAt d
  let listed := a.tasks.filterMap (fun f => (r.taskAt f).bind (fun t => t.carrier))
  let placed := r.retr.tasks.filterMap (fun t => if t.placed && t.drive == some d then t.carrier else none)
  let export_ := match a.departure with
    | some x => (match x.kind with | .exportOut j => [j] | .labelUnmount => [])
    | none => []
  (listed ++ placed ++ a.flips ++ a.holder.toList ++ a.claim.toList ++ (a.incoming.map (fun i => i.job)).toList.filter (fun j => j != 0) ++
    a.label.toList ++ export_).dedup

/-- A job leaves its level queue (R103). -/
def Run.leaveQueue (r : Run) (job : Nat) : Run :=
  { r with sched := { r.sched with queues := r.sched.queues.map (fun q => q.filter (fun i => i != job)) } }

/-- Set a job's state (R102). -/
def Run.setJobState (r : Run) (job : Nat) (s : JobState) : Run := r.modJob job (fun j => { j with state := s })

/-- Set a job's needs. -/
def Run.setNeeds (r : Run) (job : Nat) (f : Need → Need) : Run :=
  r.modJob job (fun j => { j with needs := j.needs.map f })

/-- A need placed on a drive goes back to unplaced (R114, log entry 31). -/
def Need.unplaceFrom (d : Nat) (n : Need) : Need :=
  match n.place with
  | .unplaced => n
  | .tasks e => if e = d then { n with place := .unplaced } else n
  | .flips e => if e = d then { n with place := .unplaced } else n

/-- Everything attached to a drive goes back to unplaced: task list, flip list and a pending FLIP. -/
def Run.unplaceDrive (r : Run) (d : Nat) : Run :=
  let touched := (r.sched.jobs.filter (fun j =>
    j.needs.any (fun n => n.place == .tasks d || n.place == .flips d) && j.carries)).map (fun j => j.id)
  let r : Run := { r with sched := { r.sched with jobs := r.sched.jobs.map (fun j =>
    { j with needs := j.needs.map (Need.unplaceFrom d) }) } }
  let r := r.modAssign d (fun a =>
    { a with tasks := [], flips := [], flip := none, label := none })
  Run.wantPass (touched.foldl (fun r j => r.enqueueByAge j) r)

/-- The orders of a job that wait in the picker order list are removed (R114, R116): a removed UNMOUNT,
FLIP or EXPORT makes its drive reload, and the departure it served is over; the exchange it served stands until the job's
safe point or its end.  A FLIP that other jobs' groups wait for passes to one of them. -/
def Run.dropOrders (r : Run) (job : Nat) : Run :=
  let mine := r.picker.orders.filter (fun o => o.requester == .job job)
  mine.foldl (fun r o =>
    let others := match o.drive with
      | some d => (r.assignAt d).flips.filter (fun i => i != job)
      | none => []
    match o.kind, others with
    | .flip, k :: _ =>
      { r with picker := { r.picker with orders := r.picker.orders.map (fun x =>
          if x = o then { x with requester := .job k } else x) } }
    | _, _ =>
      let r : Run := { r with picker := { r.picker with orders := r.picker.orders.filter (fun x => x != o) } }
      match o.drive with
      | none => r
      | some d =>
        let r := if o.fromDrive then r.reload d else r
        r.modAssign d (fun a =>
          { a with flip := if o.kind = .flip then none else a.flip,
                   departure := if o.fromDrive ∧ o.kind ≠ .flip then none else a.departure })) r

/-- A job leaves the flip lists; a FLIP not yet placed for which no group waits any more is no longer
pending (R109). -/
def Run.leaveFlips (r : Run) (job : Nat) : Run :=
  { r with sched := { r.sched with assigns := r.sched.assigns.map (fun a =>
      let flips := a.flips.filter (fun i => i != job)
      { a with flips := flips,
               flip := if a.flip = some false ∧ flips.isEmpty ∧ !a.flips.isEmpty then none else a.flip }) } }

/-- A job releases its drives, and its claims and incoming exchanges are cleared (R111, R114). -/
def Run.releaseDrives (r : Run) (job : Nat) : Run :=
  let r := r.dropOrders job
  let held := [0, 1, 2, 3].filter (fun d =>
    match (r.assignAt d).incoming with | some i => i.job == job | none => false)
  let r := held.foldl (fun r d => (r.modAssign d (fun a => { a with incoming := none })).unplaceDrive d) r
  { r with sched := { r.sched with assigns := r.sched.assigns.map (fun a =>
      { a with holder := if a.holder = some job then none else a.holder,
               claim := if a.claim = some job then none else a.claim,
               label := if a.label = some job then none else a.label,
               flip := if a.holder = some job then none else a.flip }) } }

/-- Jobs go to the heads of their level queues, the oldest at the head (R103, R115). -/
def Run.toHead (r : Run) (jobs : List Job) : Run :=
  let queues := r.sched.queues.mapIdx (fun l q =>
    ((jobs.filter (fun j => j.level == l)).insertionSort (fun i j => i.before j = true)).map (fun j => j.id) ++ q)
  Run.wantPass { r with sched := { r.sched with queues := queues } }

/-- Some victims become QUEUED at the heads of their queues (R115). -/
def Run.requeue (r : Run) (ids : List Nat) : Run :=
  let jobs := r.sched.jobs.filter (fun j => ids.contains j.id)
  (ids.foldl (fun r i => r.setJobState i .queued) r).toHead jobs

/-- Entries leave the suspension list; if any does, the pass that follows takes the held preemptions first
(R113, R115). -/
def Run.keepEntries (r : Run) (p : Suspension → Bool) : Run :=
  { r with sched := { r.sched with suspended := r.sched.suspended.filter p },
           heldFirst := r.heldFirst || !(r.sched.suspended.all p) }

/-- A preempting job has ended: its entries leave the list, and the victims that are SUSPENDED are
requeued (R115). -/
def Run.preemptorEnded (r : Run) (job : Nat) : Run :=
  let mine := (r.sched.suspended.filter (fun e => e.preemptor == job)).map (fun e => e.victim)
  let back := (r.sched.jobs.filter (fun j => mine.contains j.id && j.state == .suspended)).map (fun j => j.id)
  let r := r.keepEntries (fun e => e.preemptor != job)
  if back.isEmpty then r else r.requeue back

/-- Every job with work on a drive, when a preemption chose it or now, is past its safe point: none of them is STOPPING
(R114). -/
def Run.driveClear (r : Run) (d : Nat) : Bool :=
  ((r.assignAt d).victims ++ r.workers d).all (fun i => match r.jobAt i with | some j => j.state != .stopping | none => true)

/-- Chosen drives whose victims have all reached their safe points become reserved, each to the most
urgent and oldest job that awaits it, and are taken from the other jobs' awaited drives (R114). -/
def Run.reserveDrives (r : Run) : Run :=
  [0, 1, 2, 3].foldl (fun r d =>
    match firstJob (r.sched.jobs.filter (fun j => j.awaited.contains d)) with
    | none => r
    | some j =>
      if r.driveClear d ∧ (r.assignAt d).reserved = none then
        let r : Run := { r with sched := { r.sched with jobs := r.sched.jobs.map (fun k =>
          { k with awaited := k.awaited.filter (fun e => e != d) }) } }
        (r.modAssign d (fun a => { a with reserved := some j.id, victims := [] })).wantPass
      else r) r

/-- A job ends: its record is removed, it leaves every list, drives that were awaited from it are reserved, and a pass
follows (R102, R114, R116). -/
def Run.jobEnd (r : Run) (job : Nat) : Run :=
  let r := ((r.releaseDrives job).leaveQueue job).leaveFlips job
  let departs : Assign → Bool := fun a => match a.departure with
    | some x => x.kind == .exportOut job
    | none => false
  let sched : Scheduler :=
    { r.sched with jobs := r.sched.jobs.filter (fun j => j.id != job),
                   assigns := r.sched.assigns.map (fun a =>
                     { a with reserved := if a.reserved = some job then none else a.reserved,
                              departure := if departs a then none else a.departure }) }
  let r : Run := { r with sched := sched, frame := { r.frame with waitQueue := r.frame.waitQueue.filter (fun e => e.job != job) } }
  ((((r.keepEntries (fun e => e.victim != job)).preemptorEnded job).reserveDrives).lookAtDrives).wantPass

/-- A job's unplaced tasks pass to other holders of their frames that can carry them (R126). -/
def Run.passTasks (r : Run) (job : Nat) : Run :=
  ((r.retr.tasks.filter (fun t => t.carrier == some job && !t.placed)).map (fun t => t.frame)).foldl
    (fun r f => r.passTask f) r

/-- A job becomes STOPPING (R113, R114, R116): it leaves its queue, its tasks in task lists are withdrawn
into their groups and its groups leave the flip lists, and its waiting orders are removed; every group is unplaced,
while the tasks of it that are placed run to their end; a burn job's Filing Unit goes on to the safe point. -/
def Run.stopJob (r : Run) (job : Nat) : Run :=
  match r.jobAt job with
  | none => r
  | some j =>
    let r := (r.setJobState job .stopping).leaveQueue job
    if j.kind.isBurn then r.push .pump
    else
      let mine := (r.retr.tasks.filter (fun t => t.carrier == some job && !t.placed)).map (fun t => t.frame)
      let r := r.dropOrders job
      let r := mine.foldl (fun r f => r.unlist f) r
      let r := r.setNeeds job (fun n => { n with place := .unplaced })
      let r := r.leaveFlips job
      let r := r.passTasks job
      (r.push (.safePoint job)).lookAtDrives

/-- The state of a started job follows from its needs (R102): WAITING_FRAMES while its misses wait,
WAITING_MEDIA with needs unplaced and none placed, to which a RUNNING job returns (log entry 60) unless it is a burn job,
which goes on holding its drives (R106), else RUNNING; it leaves its queue once no need is unplaced, and enters it again by
age when one is (R103, log entry 20). -/
def Run.refreshJob (r : Run) (job : Nat) : Run :=
  match r.jobAt job with
  | none => r
  | some j =>
    if j.carries ∧ j.state ≠ .queued then
      let waits := r.frame.waitQueue.any (fun e => e.job == job)
      let unplaced := j.needs.any (fun n => n.place == .unplaced) ||
        (match j.pair with | some p => !p.placed | none => false)
      let placed := j.needs.any (fun n => n.place != .unplaced) ||
        (match j.pair with | some p => p.placed | none => false)
      let stays := j.kind.isBurn && j.state == .running
      let s : JobState :=
        if waits then .waitingFrames else if unplaced && !placed && !stays then .waitingMedia else .running
      let r := r.setJobState job s
      if waits then r
      else if unplaced then r.enqueueByAge job
      else (r.leaveQueue job).modJob job (fun j => { j with pendingPreempt := false })
    else r

end Sys2Proof.Machine
end

