-- ==== Sys2Proof/Machine/Fetch.lean ====
section
/-! DEFINITION. Fetch.lean: the Retrieval Unit (R118 to R134): resolution into hits, joins and misses, the
service of the frame-wait queue (R8, R9), failed fills and seals as pages take them, results, and the
ends of FETCH jobs. -/

namespace Sys2Proof.Machine

open Sys2Proof.Config

/-! ### Pages -/

/-- Change a page entry of a FETCH job. -/
def Run.modPage (r : Run) (job i : Nat) (f : PageEntry → PageEntry) : Run :=
  r.modFetch job (fun j => { j with pages := j.pages.modify i f })

/-- The code of a page with a sealed frame (R131: Page codes). -/
def pageCode (damaged corrected refused : Bool) : Code :=
  if damaged then (if refused then .refusedDamaged else .damaged)
  else if corrected then .corrected
  else .ok

/-- A page is final and has a sealed frame. -/
def PageEntry.sealedPage (p : PageEntry) : Bool :=
  match p.code with
  | none => false
  | some .ok => true
  | some .corrected => true
  | some .damaged => true
  | some .refusedDamaged => true
  | some _ => false

/-- A page is a miss that needs a frame of its own, for the location chosen for it (R124). -/
def PageEntry.needsFrame (p : PageEntry) : Bool :=
  p.way == some .miss && p.code.isNone && p.frame.isNone && p.share.isNone && p.chosen.isSome

/-- The pages of a job that share the miss of page `i`, with `i` itself (R124). -/
def FetchJob.sharers (f : FetchJob) (i : Nat) : List Nat :=
  (List.range f.pages.length).filter (fun k =>
    k == i || (match f.pages[k]? with | some p => p.share == some i && p.code.isNone | none => false))

/-! ### Hits and joins (R122, R123) -/

/-- A page is a hit on a SEALED frame (R122): the hold is added, its entries open or are refused, and it
is FINAL. -/
def Run.takeHit (r : Run) (f : FetchJob) (i n : Nat) : Run :=
  match r.frameAt n with
  | .sealed _ info damaged corrected _ =>
    let r := r.addHold n (.slot f.slot)
    let refused := damaged && r.fee.hasCertified f.slot i
    let r := r.openAtHit f.slot i n info.deedClass damaged
    r.modPage f.job i (fun p =>
      { p with way := some .hit, frame := some n, share := none, refused := refused,
               code := some (pageCode damaged corrected refused) })
  | _ => r

/-- A page is a join of a FILLING frame (R123): the hold is added, its entries are attached RESERVED, and
a withdrawn task of the frame passes to the joiner (R126). -/
def Run.takeJoin (r : Run) (f : FetchJob) (i n : Nat) : Run :=
  let r := (r.addHold n (.slot f.slot)).attach f.slot i n
  let r := r.modPage f.job i (fun p => { p with way := some .join, frame := some n, share := none })
  match r.taskAt n with
  | some t => if r.taskWaits t then r.giveTask t f.job else r
  | none => r

/-- A page found under a frame is taken as a hit or a join. -/
def Run.takeFound (r : Run) (f : FetchJob) (i n : Nat) : Run :=
  match r.frameAt n with
  | .sealed _ _ _ _ _ => r.takeHit f i n
  | .filling _ _ _ _ _ _ _ => r.takeJoin f i n
  | .empty => r
  | .scan _ => r
  | .filing _ _ _ _ => r

/-! ### Resolution (R121, R124) -/

/-- The redirect of a location: the new location of the filled entry that holds it (R121, R163). -/
def Store.redirect (s : Store) (l : Location) : Option Location :=
  s.relocs.findSome? (fun e =>
    match e with
    | .awaitingAck o n => if o = l then some n else none
    | .free => none
    | .reserved _ => none)

/-- The tags that a lookup of some locations covers: the locations, and the old location of every filled entry whose new
location is one of them, since its frame keeps the old tag (R121, R167, log entry 65). -/
def Store.tagsFor (s : Store) (ls : List Location) : List Location :=
  ls ++ s.relocs.filterMap (fun e =>
    match e with
    | .awaitingAck o n => if n ∈ ls then some o else none
    | .free => none
    | .reserved _ => none)

/-- Why a candidate is dropped (R124): at or above a confirmed write point, or its volume missing or
unrecorded; the first of them that applies (log entry 52). -/
def Run.sift (r : Run) (l : Location) : Option Code :=
  match r.volume l.serial with
  | none => some .volumeMissing
  | some v =>
    if (v.sideRec l.side).confirmed ∧ (v.sideRec l.side).writePoint ≤ l.sector then some .notWritten
    else if v.loc = .missing then some .volumeMissing
    else none

/-- A volume side is mounted: recorded in a drive not in FAULT that faces it (R124). -/
def Run.mounted (r : Run) (l : Location) : Bool :=
  match r.locOf l.serial with
  | some (.drive d) => (r.driveAt d).state != .fault && (r.driveAt d).side == l.side
  | _ => false

/-- The location chosen to be read among the candidates that remain (R124): the only mounted one, else
the last, which is the new location where there is one. -/
def Run.choose (r : Run) (ls : List Location) : Option Location :=
  match ls.filter r.mounted with
  | [l] => some l
  | _ => ls.getLast?

/-- The first earlier miss of a job with a given chosen location (R124). -/
def FetchJob.missAt (f : FetchJob) (l : Location) : Option Nat :=
  (List.range f.pages.length).find? (fun k =>
    match f.pages[k]? with
    | some p => p.needsFrame && p.chosen == some l
    | none => false)

/-- One page is resolved: a hit, a join, a miss, or a failure (R121 to R124). -/
def Run.resolvePage (r : Run) (job i : Nat) : Run :=
  match r.fetchAt job with
  | none => r
  | some f =>
    match f.pages[i]? with
    | none => r
    | some p =>
      let cands := p.requested :: (r.store.redirect p.requested).toList
      let r := r.modPage job i (fun p => { p with candidates := cands })
      match r.lookupTags (r.store.tagsFor cands) with
      | some n => r.takeFound f i n
      | none =>
        match r.choose (cands.filter (fun l => (r.sift l).isNone)) with
        | none =>
          let code := (r.sift p.requested).getD .volumeMissing
          (r.modPage job i (fun p => { p with code := some code })).giveBack (fun g => g.slot == f.slot && g.page == i)
        | some l =>
          r.modPage job i (fun p => { p with way := some .miss, chosen := some l, share := f.missAt l })

/-! ### The frame-wait queue (R8, R9) -/

/-- A job enters the queue at the place its level and age give (R8). -/
def insertWait (e : WaitEntry) : List WaitEntry → List WaitEntry
  | [] => [e]
  | x :: xs =>
    if e.level < x.level ∨ (e.level = x.level ∧ (e.age < x.age ∨ (e.age = x.age ∧ e.job < x.job))) then e :: x :: xs
    else x :: insertWait e xs

/-- The misses of a job looked at again: those now under a frame's tag become hits or joins, with the
pages that share them (R9, R125). -/
def Run.reLook (r : Run) (job : Nat) : Run :=
  match r.fetchAt job with
  | none => r
  | some f =>
    (List.range f.pages.length).foldl (fun r i =>
      match (r.fetchAt job).bind (fun g => g.pages[i]?) with
      | none => r
      | some p =>
        if p.needsFrame then
          match r.lookupTags (r.store.tagsFor p.candidates) with
          | none => r
          | some n => (f.sharers i).foldl (fun r k => r.takeFound f k n) r
        else r) r

/-- Frames are given to a job's misses in ascending page order: each becomes FILLING, the entries of its
pages are attached, and a page task is made and counted in the job's group (R11, R125, R126). -/
def Run.giveFrames (r : Run) (f : FetchJob) (misses frames : List Nat) : Run :=
  (misses.zip frames).foldl (fun r x =>
    match (f.pages[x.1]?).bind (fun p => p.chosen) with
    | none => r
    | some l =>
      let r := r.fillFrame x.2 l f.slot
      let r := (f.sharers x.1).foldl (fun r k =>
        (r.attach f.slot k x.2).modPage f.job k (fun p => { p with frame := some x.2 })) r
      let t : Task := { frame := x.2, loc := l, carrier := some f.job, phase := .unplaced, drive := none, origin := false }
      let r : Run := { r with retr := { r.retr with tasks := r.retr.tasks ++ [t] } }
      r.joinGroup x.2 l f.job) r

/-- The head of the queue is served if its need can be met (R9); `none` when it must wait. -/
def Run.serveHead (r : Run) (job : Nat) : Option Run :=
  let r := r.reLook job
  match r.fetchAt job with
  | none => some r
  | some f =>
    let misses := (List.range f.pages.length).filter (fun i =>
      match f.pages[i]? with | some p => p.needsFrame | none => false)
    if misses.isEmpty then some r
    else (r.allocate misses.length).map (fun x => x.2.giveFrames f misses x.1)

/-- The queue is served from its head until it is empty or a head must wait (R9). -/
def Run.serveWait : Nat → Run → Run
  | 0, r => r
  | fuel + 1, r =>
    match r.frame.waitQueue with
    | [] => r
    | e :: _ =>
      match r.serveHead e.job with
      | none => r.reLook e.job
      | some r =>
        let r : Run := { r with frame := { r.frame with waitQueue := r.frame.waitQueue.filter (fun x => x.job != e.job) } }
        Run.serveWait fuel (((r.refreshJob e.job).push (.fetchEnd e.job)).wantPass)

/-- Serve the frame-wait queue (R9). -/
def Run.service (r : Run) : Run := Run.serveWait (r.frame.waitQueue.length + 1) r

/-- The service that a claim just made has called for is given within the claim (R9, R46). -/
def Run.serveListed (r : Run) : Run :=
  match r.todo with
  | .service :: ts => Run.service { r with todo := ts }
  | _ => r

/-- Every hold of a request is dropped in one claim, which serves the frame-wait queue if a frame has become available
(R46). -/
def Run.releaseHolds (r : Run) (slot : Nat) : Run := (r.dropHolds (.slot slot)).serveListed

/-- A job without a resolution is resolved, and its misses that need frames are asked of the Frame Unit
together (R121, R125). -/
def Run.resolve (r : Run) (job : Nat) : Run :=
  match r.fetchAt job, r.jobAt job with
  | some f, some j =>
    let r := (List.range f.pages.length).foldl (fun r i => r.resolvePage job i) r
    let r := r.modFetch job (fun f => { f with resolved := true })
    let needs := match r.fetchAt job with
      | some f => f.pages.any (fun p => p.needsFrame)
      | none => false
    if needs then
      let e : WaitEntry := { job := job, level := j.level, age := j.age }
      Run.service { r with frame := { r.frame with waitQueue := insertWait e r.frame.waitQueue } }
    else r
  | _, _ => r

/-- Tasks without a carrier, on frames a job holds, pass to it when it is started (R126). -/
def Run.adoptTasks (r : Run) (job : Nat) : Run :=
  match r.fetchAt job with
  | none => r
  | some f =>
    (r.retr.tasks.filter (fun t => t.carrier.isNone && t.phase == .unplaced &&
      (r.frameAt t.frame).holders.contains (.slot f.slot))).foldl (fun r t => r.joinGroup t.frame t.loc job) r

/-- The Scheduler starts a FETCH job (R104, R121). -/
def Run.startFetch (r : Run) (job : Nat) : Run :=
  let r := match r.fetchAt job with
    | some f => if f.resolved then r else r.resolve job
    | none => r
  (r.adoptTasks job).push (.fetchEnd job)

/-! ### Fill failures and seals, as pages take them (R129, R130) -/

/-- Every open page served by a frame becomes FINAL with a failure code and no frame (R129). -/
def Run.failPages (r : Run) (frame : Nat) (code : Code) : Run :=
  { r with retr := { r.retr with fetches := r.retr.fetches.map (fun f =>
      { f with pages := f.pages.map (fun p =>
          if p.frame = some frame ∧ p.code.isNone then { p with code := some code, frame := none } else p) }) } }

/-- A fill fails (R14, R129): the task ends, every hold is dropped, every grant on the frame is withdrawn,
the frame becomes EMPTY, and the pages it served fail with the code. -/
def Run.fillFails (r : Run) (frame : Nat) (code : Code) : Run :=
  match r.frameAt frame with
  | .filling _ _ _ _ _ _ _ =>
    let jobs := (r.retr.fetches.filter (fun f => f.pages.any (fun p => p.frame == some frame && p.code.isNone))).map
      (fun f => f.job)
    let t := r.taskAt frame
    let r := r.endTask frame
    let r := match t.bind (fun t => t.drive) with
      | some d => (match (r.driveAt d).bufFor (.task frame) with
        | some b => (r.freeBuffer d b).push (.drive d)
        | none => r.push (.drive d))
      | none => r
    let r := r.setFrame frame ((r.frameAt frame).withHolders [])
    let r := r.withdraw (fun g => g.frame == some frame)
    let r := (r.failPages frame code).emptyFrame frame
    let r := match t.bind (fun t => t.carrier) with
      | some j => r.push (.safePoint j)
      | none => r
    jobs.foldl (fun r j => r.push (.fetchEnd j)) r
  | _ => r

/-- The pages a frame serves become FINAL at its seal (R130). -/
def Run.sealPages (r : Run) (frame : Nat) (damaged corrected : Bool) (refusing : List Nat) : Run :=
  { r with retr := { r.retr with fetches := r.retr.fetches.map (fun f =>
      { f with pages := f.pages.map (fun p =>
          if p.frame = some frame ∧ p.code.isNone then
            let refused := refusing.contains f.slot
            { p with refused := refused, code := some (pageCode damaged corrected refused) }
          else p) }) } }

/-! ### Ends (R131, R132) -/

/-- A page's result entry: the frame and its content fields for a page with a sealed frame, else its code
(R131). -/
def Run.pageEntry (r : Run) (p : PageEntry) : List Byte :=
  if p.sealedPage then
    match p.frame with
    | some n => fetchEntry n (p.code.getD .ok) (r.frameAt n).info
    | none => fetchEntry 0 (p.code.getD .aborted) none
  else fetchEntry 0 (p.code.getD .aborted) none

/-- The result area of a FETCH: one entry for each page, zeros for the entries not used (log entry 23). -/
def Run.fetchResults (r : Run) (f : FetchJob) : List (Nat × List Byte) :=
  [(256, padTo 256 (f.pages.flatMap r.pageEntry))]

/-- The FETCH job record goes, with the Scheduler's. -/
def Run.fetchOver (r : Run) (job : Nat) : Run :=
  Run.jobEnd { r with retr := { r.retr with fetches := r.retr.fetches.filter (fun f => f.job != job) } } job

/-- A FETCH job ends with its own outcome (R131): DONE when every page has a sealed frame, else FAILED
with the code of the lowest failed page. -/
def Run.finishFetch (r : Run) (f : FetchJob) : Run :=
  let count := (f.pages.filter PageEntry.sealedPage).length
  let outcome : Ended := match f.pages.find? (fun p => !p.sealedPage) with
    | none => { done := true, code := .ok, count := count }
    | some p => { done := false, code := p.code.getD .aborted, count := count }
  (r.endReport f.slot outcome (r.fetchResults f)).fetchOver f.job

/-- A FETCH job ends with ABORTED (R131, R132): its results are composed, its holds dropped in a claim taken as a release
is (R46), its grants and set-aside entries withdrawn and given back, and its unplaced tasks pass on or are dropped.  That
the frame-wait queue is served again at the end of every such step is the model's choice (log entry 80). -/
def Run.abortFetch (r : Run) (f : FetchJob) : Run :=
  let count := (f.pages.filter PageEntry.sealedPage).length
  let r := r.endReport f.slot { done := false, code := .aborted, count := count } (r.fetchResults f)
  let r : Run := { r with frame := { r.frame with waitQueue := r.frame.waitQueue.filter (fun e => e.job != f.job) } }
  let r : Run := { r with retr := { r.retr with fetches := r.retr.fetches.filter (fun g => g.job != f.job) } }
  let r := (r.releaseHolds f.slot).giveBack (fun g => g.slot == f.slot)
  let r := r.withdraw (fun g => g.slot == f.slot)
  let mine := (r.retr.tasks.filter (fun t => t.carrier == some f.job && !t.placed)).map (fun t => t.frame)
  let r := r.jobEnd f.job
  (mine.foldl (fun r n => r.passTask n) r).serveFirst

/-- A FETCH job whose pages are all FINAL and that has no task placed ends; otherwise its state follows
its needs (R131, R133). -/
def Run.fetchEnds (r : Run) (job : Nat) : Run :=
  match r.fetchAt job, r.jobAt job with
  | some f, some _ =>
    if f.resolved ∧ f.pages.all (fun p => p.code.isSome) ∧
        !(r.retr.tasks.any (fun t => t.carrier == some job && t.placed)) then r.finishFetch f
    else (r.refreshJob job).push (.safePoint job)
  | _, _ => r

/-! ### Groups that fail (R105, R112, R129) -/

/-- Every task of a job's group for a volume side fails its fill with a code. -/
def Run.failGroup (r : Run) (job serial : Nat) (side : Side) (code : Code) : Run :=
  (r.retr.tasks.filter (fun t => t.carrier == some job && !t.placed && t.on serial side)).foldl
    (fun r t => r.push (.fillFail t.frame code)) r

/-- A volume is gone while a FETCH waits for frames (R112): its misses on that volume become FINAL with
VOLUME_MISSING, with the pages that share them, and their set-aside entries are given back. -/
def Run.waitLosesVolume (r : Run) (serial : Nat) : Run :=
  let jobs := (r.frame.waitQueue.map (fun e => e.job))
  let r := jobs.foldl (fun r job =>
    match r.fetchAt job with
    | none => r
    | some f =>
      (List.range f.pages.length).foldl (fun r i =>
        match f.pages[i]? with
        | none => r
        | some p =>
          if p.needsFrame ∧ (p.chosen.map (fun l => l.serial)) = some serial then
            (f.sharers i).foldl (fun r k =>
              (r.modPage job k (fun p => { p with code := some .volumeMissing })).giveBack
                (fun g => g.slot == f.slot && g.page == k)) r
          else r) r) r
  let idle := jobs.filter (fun job =>
    match r.fetchAt job with
    | none => false
    | some f => !(f.pages.any (fun p => p.needsFrame)))
  if idle.isEmpty then r
  else
    let r : Run := { r with frame := { r.frame with waitQueue := r.frame.waitQueue.filter (fun e => !idle.contains e.job) } }
    (idle.foldl (fun r j => (r.refreshJob j).push (.fetchEnd j)) r).serveFirst

end Sys2Proof.Machine
end

