-- ==== Sys2Proof/Machine/Reads.lean ====
section
/-! DEFINITION. Reads.lean: page reads (R127, R128), the Media Check Unit's judgements (R158 to R162), the
placing of sectors and the seal (R12, R13, R130), and relocation candidates (R165, R166). -/

namespace Sys2Proof.Machine

open Sys2Proof.Config

/-! ### Syndromes (R159, R198) -/

/-- The byte offset of a syndrome. -/
def syndromeOffset (v : Nat) : Nat := v % 65536

/-- The first byte of a syndrome's burst pattern. -/
def syndromeFirst (v : Nat) : Nat := v / 65536 % 256

/-- The second byte of a syndrome's burst pattern. -/
def syndromeSecond (v : Nat) : Nat := v / 16777216 % 256

/-- A syndrome is decodable (R159). -/
def decodable (v : Nat) : Bool :=
  (decide (syndromeOffset v ≤ 1022) && (syndromeFirst v != 0 || syndromeSecond v != 0)) ||
    (decide (syndromeOffset v = 1023) && syndromeFirst v != 0 && syndromeSecond v == 0)

/-- The correction: the pattern combined by exclusive-or into the sector at the offset (R160). -/
def correctSector (v : Nat) (data : List Byte) : List Byte :=
  let o := syndromeOffset v
  let d := padTo 1024 data
  (d.modify o (fun b => b ^^^ BitVec.ofNat 8 (syndromeFirst v))).modify (o + 1)
    (fun b => b ^^^ BitVec.ofNat 8 (syndromeSecond v))

/-! ### Judging records (R158) -/

/-- Change a judging record. -/
def Run.modJudging (r : Run) (frame : Nat) (f : Judging → Judging) : Run :=
  { r with media := { r.media with judging := r.media.judging.map (fun j => if j.frame = frame then f j else j) } }

/-- Set the judging state of a position. -/
def Judging.put (j : Judging) (p : Nat) (x : Judged) : Judging :=
  { j with positions := (j.positions.filter (fun y => y.1 != p)) ++ [(p, x)] }

/-! ### The correction log (R162) -/

/-- An entry is made: the counter rises, giving 1 after its largest value, the oldest entry leaves a full
log and the lost count rises. -/
def MediaCheck.logEntry (m : MediaCheck) (loc : Location) (reads : Nat) (corrected : Bool) (syndrome : Nat) :
    MediaCheck :=
  let seq := if m.counter = max32 then 1 else m.counter + 1
  let full := decide (logRoom ≤ m.log.length)
  let e : LogEntry :=
    { seq := seq, loc := loc, reads := reads, corrected := corrected, syndrome := syndrome, mark := .none }
  { m with counter := seq, lost := if full then satInc max16 m.lost else m.lost,
           log := (if full then m.log.drop 1 else m.log) ++ [e] }

/-- The log entries with given sequence numbers are marked (R165). -/
def Run.markLog (r : Run) (seqs : List Nat) (m : LogMark) : Run :=
  { r with media := { r.media with log := r.media.log.map (fun e => if seqs.contains e.seq then { e with mark := m } else e) } }

/-! ### Header and data READs (R127, R128) -/

/-- The location of a position of a page. -/
def posLocation (l : Location) (p : Nat) : Location := { l with sector := l.sector + p }

/-- A header sector judged good is examined: accepted, it sets the frame's fields and the data READ is
asked; otherwise the fill fails with ID_MISMATCH (R12, R127, R128). -/
def Run.examineHeader (r : Run) (d : Nat) (t : Task) (data : List Byte) : Run :=
  match acceptHeader t.loc data with
  | none => r.push (.fillFail t.frame .idMismatch)
  | some (info, origin) =>
    let r := match r.frameAt t.frame with
      | .filling tag ph _ m dm co hs => r.setFrame t.frame (.filling tag ph (some info) m dm co hs)
      | _ => r
    let r := r.modTask t.frame (fun t => { t with phase := .data, origin := origin })
    (r.modDrive d (fun v => { v with asks := v.asks ++ [{ frame := t.frame, data := true }] })).push (.drive d)

/-- The data of a buffer position. -/
def Run.posData (r : Run) (d b p : Nat) : List Byte :=
  (((r.driveAt d).buf b).positions.getD p { report := .clean, data := [] }).data

/-- A judgement is delivered (R161): a log entry and the side's count or the uncorrectable flag, then the
header goes to the Retrieval Unit; a data position is ready for the stream. -/
def Run.deliver (r : Run) (d b : Nat) (t : Task) (p reads syndrome : Nat) (x : Judged) : Run :=
  let r := (r.modJudging t.frame (fun j => j.put p x)).push .present
  let log := fun (r : Run) (corrected : Bool) =>
    let m := r.media.logEntry (posLocation t.loc p) reads corrected syndrome
    let r : Run := { r with media := m }
    r.modJudging t.frame (fun j => { j with entries := j.entries ++ [m.counter] })
  let r := match x with
    | .clean => r
    | .pending _ _ => r
    | .corrected =>
      ((log r true).modJudging t.frame (fun j => { j with tally := j.tally + 1 })).modVolume t.loc.serial
        (fun v => v.modSide t.loc.side (fun s => { s with corrected := satInc max16 s.corrected }))
    | .uncorrectable => (log r false).modJudging t.frame (fun j => { j with uncorrectable := true })
  if p = 0 then
    match x with
    | .uncorrectable => r.push (.fillFail t.frame .idMismatch)
    | .clean => r.examineHeader d t (r.posData d b 0)
    | .corrected => r.examineHeader d t (r.posData d b 0)
    | .pending _ _ => r
  else r

/-- The first report of a position is taken (R159). -/
def Run.judgeFirst (r : Run) (d b : Nat) (t : Task) (p : Nat) (rep : SectorReport) : Run :=
  match rep with
  | .clean => r.deliver d b t p 1 0 .clean
  | .unwritten => r
  | .syndrome v =>
    if r.settings.retry = 0 then r.deliver d b t p 1 v .uncorrectable
    else
      let r := r.modJudging t.frame (fun j => j.put p (.pending 1 v))
      r.modDrive d (fun x => { x with rereads := x.rereads ++ [(b, p)] })

/-- A REREAD's report is taken against the position's judging state (R160). -/
def Run.judgeReread (r : Run) (d b : Nat) (t : Task) (p reads latest : Nat) (rep : SectorReport) : Run :=
  match rep with
  | .clean => r.deliver d b t p (reads + 1) 0 .clean
  | .unwritten => r
  | .syndrome v =>
    if r.settings.correction ∧ v = latest ∧ decodable v then
      let fix := fun (x : SectorRead) => { x with data := correctSector v x.data }
      let r := r.modBuf d b (fun y => { y with positions := y.positions.modify p fix })
      r.deliver d b t p (reads + 1) v .corrected
    else if reads + 1 < 1 + r.settings.retry then
      let r := r.modJudging t.frame (fun j => j.put p (.pending (reads + 1) v))
      r.modDrive d (fun x => { x with rereads := x.rereads ++ [(b, p)] })
    else r.deliver d b t p (reads + 1) v .uncorrectable

/-- A header READ has completed into its buffer: the judging record is made and the report taken (R127,
R158). -/
def Run.headerRead (r : Run) (d b : Nat) (t : Task) (s : SectorRead) : Run :=
  let rec_ : Judging :=
    { frame := t.frame, loc := t.loc, positions := [], tally := 0, uncorrectable := false, entries := [] }
  let r : Run := { r with media := { r.media with judging := r.media.judging ++ [rec_] } }
  match s.report with
  | .unwritten => r.push (.fillFail t.frame .notWritten)
  | .clean => r.judgeFirst d b t 0 .clean
  | .syndrome v => r.judgeFirst d b t 0 (.syndrome v)

/-- A data READ has completed into its buffer (R128): any UNWRITTEN position fails the fill; otherwise the
emptying stream begins and the positions are judged in ascending order (R88, R159). -/
def Run.dataRead (r : Run) (d b : Nat) (t : Task) (ss : List SectorRead) : Run :=
  if ss.any (fun s => s.report == .unwritten) then r.push (.fillFail t.frame .notWritten)
  else
    let r := r.modTask t.frame (fun t => { t with phase := .emptying })
    let s : Stream := { idx := bufIdx d b, frame := t.frame, loading := false, pos := 1, done := 0, total := 32, acc := [] }
    let r : Run := { r with mover := { r.mover with streams := r.mover.streams ++ [s] } }
    (List.range ss.length).foldl (fun r i =>
      match ss[i]? with
      | some s => r.judgeFirst d b t (i + 1) s.report
      | none => r) r

/-- A READ has completed OK with the sectors of its range (R87, R92): the last sector is set, the buffer
is HELD, positions beyond sector 524,287 are UNWRITTEN, and the reports go to the page's owner. -/
def Run.readOk (r : Run) (d : Nat) (c : Issued) (ss : List SectorRead) : Run :=
  let r := r.modDrive d (fun v => { v with command := none, lastSector := some (c.start + c.count - 1) })
  let buf := (r.driveAt d).buf c.buf
  match buf.serves with
  | some (.task f) =>
    match r.taskAt f with
    | none => r.push (.drive d)
    | some t =>
      let all := ss ++ List.replicate (buf.count - ss.length) { report := .unwritten, data := [] }
      let head := if c.pos = 0 then [] else buf.positions.take 1
      let r := r.modBuf d c.buf (fun x => { x with state := .held, positions := head ++ all })
      let r := if c.pos = 0 then
          (match all with
           | s :: _ => r.headerRead d c.buf t s
           | [] => r)
        else r.dataRead d c.buf t all
      (r.push (.drive d)).push (.placeTasks d)
  | some (.item _) => r.push (.drive d)
  | none => r.push (.drive d)

/-- A REREAD has completed OK (R87, R160). -/
def Run.rereadOk (r : Run) (d : Nat) (c : Issued) (s : SectorRead) : Run :=
  let r := r.modDrive d (fun v => { v with command := none })
  let r := match ((r.driveAt d).buf c.buf).serves with
    | some (.task f) =>
      let r := r.modBuf d c.buf (fun x => { x with positions := x.positions.set c.pos s })
      match r.taskAt f, (r.judgingOf f).bind (fun j => j.get c.pos) with
      | some t, some (.pending reads latest) => r.judgeReread d c.buf t c.pos reads latest s.report
      | _, _ => r
    | some (.item _) => r
    | none => r
  r.push (.drive d)

/-- The completion of an abandoned READ or REREAD is discarded: the channel is free (R100, R161). -/
def Run.discardRead (r : Run) (d : Nat) : Run :=
  (r.modDrive d (fun v => { v with command := none })).push (.drive d)

/-! ### Placing page tasks (R110, R127) -/

/-- A task's level is its carrying job's level (R126). -/
def Run.taskLevel (r : Run) (t : Task) : Nat := ((t.carrier.bind (fun c => r.jobAt c)).map (fun j => j.level)).getD 3

/-- The task with the lowest start sector. -/
def lowestTask : List Task → Option Task
  | [] => none
  | t :: ts =>
    match lowestTask ts with
    | none => some t
    | some u => if u.loc.sector < t.loc.sector then some u else some t

/-- The next task of a list (R110): of the most urgent level, the lowest start sector at or above the last
sector, or the lowest of all. -/
def Run.nextTask (r : Run) (ts : List Task) (last : Option Nat) : Option Task :=
  match (ts.map r.taskLevel).min? with
  | none => none
  | some l =>
    let urgent := ts.filter (fun t => r.taskLevel t == l)
    match last with
    | none => lowestTask urgent
    | some s => (lowestTask (urgent.filter (fun t => s ≤ t.loc.sector))).orElse (fun _ => lowestTask urgent)

/-- The Scheduler places the next task of a drive (R110), checked against the write point of the facing
side (R127). -/
def Run.placeTasks (r : Run) (d : Nat) : Run :=
  let v := r.driveAt d
  let a := r.assignAt d
  let ready := (v.state == .ready || v.state == .busy) && !v.unloadAsked && a.incoming.isNone
  if ready ∧ v.freeBuf.isSome ∧ !(v.asks.any (fun x => !x.data)) then
    match v.serial with
    | none => r
    | some n =>
      let ts := (a.tasks.filterMap (fun f => r.taskAt f)).filter (fun t => t.on n v.side)
      match r.nextTask ts v.lastSector with
      | none => r.push (.depart d)
      | some t =>
        let r := r.unlist t.frame
        if r.writePoint n v.side ≤ t.loc.sector then (r.push (.fillFail t.frame .notWritten)).push (.placeTasks d)
        else
          let r := r.modTask t.frame (fun t => { t with phase := .header, drive := some d })
          ((r.modDrive d (fun v => { v with asks := v.asks ++ [{ frame := t.frame, data := false }] })).push
            (.drive d)).push (.placeTasks d)
  else if a.tasks.isEmpty then r.push (.depart d)
  else r

/-! ### Relocation candidates (R165, R166) -/

/-- Some entry that is not FREE holds a location as its old location (R163). -/
def Store.holdsOld (s : Store) (l : Location) : Bool :=
  s.relocs.any (fun e =>
    match e with
    | .free => false
    | .reserved o => o == l
    | .awaitingAck o _ => o == l)

/-- The lowest-numbered FREE entry of the relocation table (R163). -/
def Store.freeReloc (s : Store) : Option Nat :=
  (List.range s.relocs.length).find? (fun i => s.relocs[i]? == some .free)

/-- Set an entry of the relocation table. -/
def Run.setReloc (r : Run) (i : Nat) (e : RelocEntry) : Run :=
  { r with store := { r.store with relocs := r.store.relocs.set i e } }

/-- At the seal of a page read that is a candidate, a relocation job is created and an entry reserved, or
its log entries are marked DEFERRED (R165). -/
def Run.judgeCandidate (r : Run) (t : Task) : Run :=
  match r.judgingOf t.frame with
  | none => r
  | some j =>
    if r.settings.threshold ≤ j.tally ∧ !j.uncorrectable then
      let may := r.settings.relocation && !t.origin && !r.store.holdsOld t.loc &&
        decide (r.media.relocJobs.length < relocationJobs)
      match r.store.freeReloc with
      | some e =>
        if may then
          let job : RelocJob := { frame := t.frame, old := t.loc, entry := e, entries := j.entries, job := none }
          let r := (r.setReloc e (.reserved t.loc)).markLog j.entries .scheduled
          { r with media := { r.media with relocJobs := r.media.relocJobs ++ [job] } }
        else r.markLog j.entries .deferred
      | none => r.markLog j.entries .deferred
    else r

/-- A relocation job that has not taken its hold takes it, or is not created because its frame no longer
bears the old location (R166). -/
def Run.relocationHit (r : Run) (q : RelocJob) : Run :=
  let drop := fun (r : Run) =>
    let r := (r.setReloc q.entry .free).markLog q.entries .deferred
    { r with media := { r.media with relocJobs := r.media.relocJobs.filter (fun x => x.entry != q.entry) } }
  match r.frameAt q.frame with
  | .sealed tag info _ _ _ =>
    if tag = q.old then
      let r := r.addHold q.frame (.relocation q.entry)
      let (id, r) := Run.createJob r.takeAge.2 (.relocation q.entry) 3 r.takeAge.1 none
      let b : BurnJob :=
        { job := id, slot := none, entry := some q.entry, deedClass := info.deedClass, deedSeq := info.deedSeq,
          pageIndex := info.pageIndex, stamp := List.replicate 8 0, origin := some tag,
          pages := [{ frame := q.frame, imageLen := info.imageLen, attempts := 0, placed := none }],
          waiting := [.page 0], failing := none }
      { r with media := { r.media with relocJobs := r.media.relocJobs.map (fun x =>
                 if x.entry = q.entry then { x with job := some id } else x) },
               filing := { r.filing with burns := r.filing.burns ++ [b] } }
    else drop r
  | _ => drop r

/-! ### Placing sectors and the seal (R12, R13, R130) -/

/-- The last sector of an image is placed: the frame seals, its grants open or are withdrawn, its pages
become FINAL, the page read is judged for relocation, and the task ends (R13, R130, R165). -/
def Run.sealFrame (r : Run) (frame : Nat) : Run :=
  match r.frameAt frame, r.taskAt frame with
  | .filling tag _ (some info) _ damaged corrected hs, some t =>
    let r := r.setFrame frame (.sealed tag info damaged corrected hs)
    let refusing := if damaged then r.fee.certifiedOwners frame else []
    let r := r.openAtSeal frame info.deedClass damaged
    let jobs := (r.retr.fetches.filter (fun f => f.pages.any (fun p => p.frame == some frame && p.code.isNone))).map
      (fun f => f.job)
    let r := r.sealPages frame damaged corrected refusing
    let r := (r.judgeCandidate t).endTask frame
    let r := r.checkReclaim frame
    let r := match t.carrier with
      | some j => r.push (.safePoint j)
      | none => r
    jobs.foldl (fun r j => r.push (.fetchEnd j)) r
  | _, _ => r

/-- A sector of a filling frame has been placed by its stream (R12): the fill mark rises and the flags are
set; the last one ends the stream and seals the frame. -/
def Run.placeSector (r : Run) (s : Stream) : Run :=
  let judged := (r.judgingOf s.frame).bind (fun j => j.get s.pos)
  match r.frameAt s.frame with
  | .filling tag ph (some info) _ damaged corrected hs =>
    let mark := min info.imageLen (1024 * s.pos)
    let r := r.setFrame s.frame
      (.filling tag ph (some info) mark (damaged || judged == some .uncorrectable)
        (corrected || judged == some .corrected) hs)
    let d := s.idx / 2
    let b := s.idx % 2
    if info.imageLen ≤ 1024 * s.pos then
      (((r.freeBuffer d b).sealFrame s.frame).push (.drive d)).push (.placeTasks d)
    else
      let r := r.modBuf d b (fun x => { x with moved := x.moved + 1 })
      r.modStream s.idx (fun s => { s with pos := s.pos + 1, done := 0 })
  | _ => r

end Sys2Proof.Machine
end

