-- ==== Sys2Proof/Machine/Burns.lean ====
section
/-! DEFINITION. Burns.lean: the Filing Unit (R135 to R157): the pre-check, the choice of a pair, labels and
replacements, loading, handing and settling items, crossings and closes, and the ends of burn jobs, with
the Media Check Unit's taking of relocation outcomes (R167, R168). -/

namespace Sys2Proof.Machine

open Sys2Proof.Config

/-! ### The job in hand and its items -/

/-- The burn job in hand: the one that is RUNNING or STOPPING (R135). -/
def Run.inHand (r : Run) : Option Job :=
  r.sched.jobs.find? (fun j => j.kind.isBurn && (j.state == .running || j.state == .stopping))

/-- The copies of an item in flight. -/
def Flight.copies (f : Flight) : List Copy := f.primary.toList ++ f.safety.toList

/-- Every copy of an item has been handed to be burned (R146). -/
def Flight.handedOver (f : Flight) : Bool := f.copies.all (fun c => c.state == .handed || c.state == .passed || c.state == .failed)

/-- Every copy of an item has its result (R147). -/
def Flight.settled (f : Flight) : Bool := f.copies.all (fun c => c.state == .passed || c.state == .failed)

/-- Every copy of an item is loaded (R145). -/
def Flight.loaded (f : Flight) : Bool := f.copies.all (fun c => c.state == .loaded)

/-- An item is a label item. -/
def Item.isLabel : Item → Bool
  | .page _ => false
  | .label _ _ => true

/-- A page of a burn job is PLACED. -/
def BurnJob.allPlaced (j : BurnJob) : Bool := j.pages.all (fun p => p.placed.isSome)

/-- The record length of an item (R142). -/
def BurnJob.itemLength (j : BurnJob) : Item → Nat
  | .page i => ((j.pages[i]?).map (fun p => recordLength p.imageLen)).getD 0
  | .label _ _ => 1

/-- The waiting list of a job goes on from its pages only (R143, R153). -/
def BurnJob.dropLabels (j : BurnJob) : BurnJob := { j with waiting := j.waiting.filter (fun i => !i.isLabel) }

/-- The two volumes and the current side of the record, when it has them (R135). -/
def PairRec.pair (p : PairRec) : Option (Nat × Nat × Side) :=
  match p with
  | .absent => none
  | .establishing a b s _ _ => some (a, b, s)
  | .active a b s => some (a, b, s)
  | .closing a b s _ => some (a, b, s)

/-- Set the filing pair record. -/
def Run.setPair (r : Run) (p : PairRec) : Run := { r with store := { r.store with pair := p } }

/-- The drive recorded for a volume. -/
def Run.driveOf (r : Run) (serial : Nat) : Option Nat :=
  match r.locOf serial with
  | some (.drive d) => some d
  | _ => none

/-! ### The pre-check and the choice of a pair (R143, R144) -/

/-- The room of a side of a volume (R143). -/
def Run.room (r : Run) (serial : Nat) (side : Side) : Nat :=
  let full := ((r.volume serial).map (fun v => (v.sideRec side).full)).getD true
  let w := r.writePoint serial side
  if full then 0 else sideSectors - w - (if w = 0 then 1 else 0)

/-- The pages that fit in a room, in order, and those after the first that does not (R143). -/
def fitIn : Nat → List Nat → List Nat × List Nat
  | _, [] => ([], [])
  | room, l :: ls => if l ≤ room then (l :: (fitIn (room - l) ls).1, (fitIn (room - l) ls).2) else ([], l :: ls)

/-- The rooms of the current side and the next, the blanks needed for the current and for the next side
(R143). -/
def Run.roomsFor (r : Run) : Nat × Nat × Nat × Nat :=
  match r.store.pair with
  | .active p _ .a => (r.room p .a, r.room p .b, 0, 0)
  | .active p _ .b => (r.room p .b, sideSectors - 1, 0, 2)
  | .establishing _ _ _ _ _ => (sideSectors - 1, sideSectors - 1, 0, 0)
  | .absent => (sideSectors - 1, sideSectors - 1, 2, 0)
  | .closing _ _ _ _ => (sideSectors - 1, sideSectors - 1, 2, 0)

/-- The BLANK volumes that may be chosen for a pair, in the order of R144: shelf cells ascending, H0, H1,
then drives ascending that are not in FAULT. -/
def Run.choosable (r : Run) : List Nat :=
  let blankAt := fun (l : Loc) =>
    (r.volumeIn l).bind (fun v => if v.role = .blank then some v.serial else none)
  (List.range 90).filterMap (fun c => blankAt (.cell c)) ++
    ([0, 1, 2, 3].filter (fun d => (r.driveAt d).state != .fault)).filterMap (fun d => blankAt (.drive d))

/-- The outcome of the pre-check (R143): the job fails with MEDIA_EXHAUSTED, or the pages fit with a
crossing to make at once or without. -/
inductive PreCheck
  | exhausted
  | cross
  | fits
deriving DecidableEq, Repr

/-- The space pre-check over the pages of a job's waiting list (R143). -/
def Run.preCheck (r : Run) (j : BurnJob) : PreCheck :=
  let rooms := r.roomsFor
  let lengths := (j.waiting.filter (fun i => !i.isLabel)).map j.itemLength
  let split := fitIn rooms.1 lengths
  let blanks := r.store.blankCount
  if blanks < rooms.2.2.1 then .exhausted
  else if split.2.isEmpty then .fits
  else if rooms.2.1 < split.2.sum ∨ blanks < rooms.2.2.2 then .exhausted
  else if split.1.isEmpty then .cross
  else .fits

/-- The role, partner and pair-closed fields that the Filing Unit sets on a volume (R66). -/
def Run.setRole (r : Run) (serial : Nat) (role : Role) (partner : Option Nat) (closed : Option Bool) : Run :=
  r.claimVolume serial (fun v => { v with role := role, partner := partner, pairClosed := closed })

/-- A volume is made RETIRED (R66, R144). -/
def Run.retire (r : Run) (serial : Nat) : Run := r.setRole serial .retired none none

/-- An establishment is abandoned: a named volume whose label attempted flag is set is RETIRED, the primary first (log
entry 89), and the record becomes ABSENT (R144). -/
def Run.abandonPair (r : Run) : Run :=
  match r.store.pair with
  | .establishing p s _ tp ts =>
    let r := r.setPair .absent
    let r := if tp then r.retire p else r
    if ts then r.retire s else r
  | .absent => r
  | .active _ _ _ => r
  | .closing _ _ _ _ => r

/-- A close is decided: the record becomes CLOSING with its cause, which the first one decides (R149). -/
def Run.decideClose (r : Run) (c : CloseCause) : Run :=
  match r.store.pair with
  | .active p s side => r.setPair (.closing p s side c)
  | .absent => r
  | .establishing _ _ _ _ _ => r
  | .closing _ _ _ _ => r

/-- A close is completed, in one step (R149). -/
def Run.completeClose (r : Run) : Run :=
  match r.store.pair with
  | .closing p s _ c =>
    let shut := fun (r : Run) (n : Nat) => r.modVolume n (fun v => { v with pairClosed := some true })
    ((shut (shut r p) s).notice (.pairClosed p s c)).setPair .absent
  | .absent => r
  | .establishing _ _ _ _ _ => r
  | .active _ _ _ => r

/-- The full flag of a side is set on both volumes of a pair (R148); the write points stand as they are (log entry 95). -/
def Run.fillSide (r : Run) (p s : Nat) (side : Side) : Run :=
  let f := fun (r : Run) (n : Nat) => r.modVolume n (fun v => v.modSide side (fun x => { x with full := true }))
  f (f r p) s

/-- A new pair is chosen and the record becomes ESTABLISHING on side A (R144); `none` when two BLANK
volumes cannot be chosen. -/
def Run.chooseNew (r : Run) : Option Run :=
  match r.choosable with
  | p :: s :: _ => some (r.setPair (.establishing p s .a false false))
  | _ => none

/-! ### Asks of the Scheduler for the running job (R106, R148) -/

/-- The pair need of a job follows the record (R106). -/
def Run.needFromRecord (r : Run) (job : Nat) (placed : Bool) : Run :=
  match r.store.pair.pair with
  | none => r.modJob job (fun j => { j with pair := none })
  | some (p, s, side) =>
    r.modJob job (fun j => { j with pair := some { primary := p, safety := s, side := side, placed := placed } })

/-- A held drive is asked for a FLIP (R106, R109). -/
def Run.flipDrive (r : Run) (job level d : Nat) : Run :=
  let r := r.modAssign d (fun a => { a with flip := some true })
  (Run.askUnload (r.placeOrder .flip (some d) (r.driveAt d).serial none none level (.job job)) d).2

/-- An EXPORT whose departure is pending on a drive looks again at where its volume lies, an exchange now taking the drive
(R77). -/
def Run.exportAgain (r : Run) (d : Nat) : Run :=
  match (r.assignAt d).departure with
  | none => r
  | some x =>
    match x.kind with
    | .exportOut k => r.push (.exportAct k)
    | .labelUnmount => r

/-- An exchange of a volume into a drive is begun (R108). -/
def Run.beginExchange (r : Run) (d serial : Nat) (side : Side) (job level : Nat) : Run :=
  let r := (r.exportAgain d).modAssign d (fun a =>
    { a with incoming := some { serial := serial, side := side, job := job, level := level }, departure := none,
             flip := none })
  if (r.driveAt d).state = .empty then
    r.placeOrder .mount (some d) (some serial) (some side) none level (.job job)
  else
    (Run.askUnload (r.placeOrder .unmount (some d) (r.driveAt d).serial none none level (.job job)) d).2

/-- The drives a job holds in which a volume of the filing pair record lies. -/
def Run.pairDrives (r : Run) (job : Nat) : List Nat :=
  [0, 1, 2, 3].filter (fun d => (r.assignAt d).holder == some job &&
    (match (r.driveAt d).serial with
     | some n => r.store.pair.names n
     | none => false))

/-- Both held drives are turned to the record's current side (R148), their FLIP orders made in ascending drive number (log
entry 97). -/
def Run.turnPair (r : Run) (j : Job) : Run :=
  (r.pairDrives j.id).foldl (fun r d => r.flipDrive j.id j.level d) (r.needFromRecord j.id true)

/-- The seat of a volume of a running job's new need, `swaps` naming each replaced volume with the new one: the drive the
volume lies in, or the one that holds the volume it replaces (R106, R144). -/
def Run.seatOf (r : Run) (swaps : List (Nat × Nat)) (serial : Nat) : Option Nat :=
  r.driveOf (((swaps.find? (fun x => x.2 == serial)).map (fun x => x.1)).getD serial)

/-- The running job's new need stays unplaced for now: the job stays RUNNING and in hand, and it goes on holding its drives
(R106, R111, log entry 21). -/
def Run.unplacePair (r : Run) (j : Job) (swaps : List (Nat × Nat)) : Run :=
  let seat := r.seatOf swaps
  let r := (r.needFromRecord j.id false).modJob j.id (fun k =>
    { k with pair := k.pair.map (fun n => { n with primarySeat := seat n.primary, safetySeat := seat n.safety }) })
  (r.refreshJob j.id).wantPass

/-- The drive that a volume is incoming to by an exchange (R105, R106). -/
def Run.incomingTo (r : Run) (serial : Nat) : Option Nat :=
  [0, 1, 2, 3].find? (fun d => match (r.assignAt d).incoming with | some i => i.serial == serial | none => false)

/-- A volume lies in a cell and no exchange is bringing it to a drive, so that an exchange may (R106). -/
def Run.exchangeable (r : Run) (serial : Nat) : Bool :=
  (r.incomingTo serial).isNone &&
    (match r.locOf serial with
     | some (.cell _) => true
     | _ => false)

/-- New volumes are exchanged into the drives that hold the ones they replace (R106, R144, R148), the primary first (log
entry 97); where a new volume lies in no cell, or an exchange made for another need is bringing it to a drive, the need
waits for a later pass, the drives held meanwhile (R106, log entry 21). -/
def Run.exchangePair (r : Run) (j : Job) (swaps : List (Nat × Nat)) : Run :=
  let drives := swaps.map (fun x => (r.driveOf x.1, x.2))
  if swaps.all (fun x => r.exchangeable x.2) ∧ drives.all (fun x => x.1.isSome) then
    let r := r.needFromRecord j.id true
    drives.foldl (fun r x => match x.1 with
      | some d => r.beginExchange d x.2 .a j.id j.level
      | none => r) r
  else r.unplacePair j swaps

/-! ### Relocation outcomes (R167, R168) -/

/-- A relocation page has settled on both copies (R163, R167): the entry RESERVED for it keeps its old location. -/
def Run.relocationDone (r : Run) (entry : Nat) (new : Location) : Run :=
  match r.media.relocJobs.find? (fun q => q.entry == entry), r.store.relocs[entry]? with
  | some q, some (.reserved old) =>
    let r := (r.setReloc entry (.awaitingAck old new)).notice (.relocated old new)
    let r : Run := { r with media := { r.media with relocJobs := r.media.relocJobs.filter (fun x => x.entry != entry) } }
    r.dropHold q.frame (.relocation entry)
  | _, _ => r

/-- A relocation job has failed (R168). -/
def Run.relocationFailed (r : Run) (entry : Nat) : Run :=
  match r.media.relocJobs.find? (fun q => q.entry == entry) with
  | none => r
  | some q =>
    let r := (r.setReloc entry .free).markLog q.entries .deferred
    let r : Run := { r with media := { r.media with relocJobs := r.media.relocJobs.filter (fun x => x.entry != entry) } }
    r.dropHold q.frame (.relocation entry)

/-! ### Ends of burn jobs (R151 to R153) -/

/-- The results of a FILE: the deed sequence and the placement of every page PLACED, zeros for the entries
not used (R151, R197, log entry 23). -/
def fileResults (b : BurnJob) : List (Nat × List Byte) :=
  [(256, leBytes 4 b.deedSeq), (264, padTo 192 (b.pages.flatMap fileEntry))]

/-- The burn job's record goes, with the Scheduler's, and the waiting closes are taken (R150). -/
def Run.burnOver (r : Run) (job : Nat) : Run :=
  (Run.jobEnd { r with filing := { r.filing with burns := r.filing.burns.filter (fun b => b.job != job) } } job).push .closes

/-- A FILE's frames return to SCAN, with the slot's hold dropped (R18). -/
def Run.framesToScan (r : Run) (b : BurnJob) : Run :=
  b.pages.foldl (fun r p =>
    match r.frameAt p.frame with
    | .filing _ _ owner _ => r.setFrame p.frame (.scan owner)
    | _ => r) r

/-- A burn job ends FAILED with a code (R152, R153, R155). -/
def Run.burnEndsFailed (r : Run) (b : BurnJob) (code : Code) : Run :=
  let r := match b.slot, b.entry with
    | some s, _ =>
      let count := (b.pages.filter (fun (p : BurnPage) => p.placed.isSome)).length
      (r.framesToScan b).endReport s { done := false, code := code, count := count } (fileResults b)
    | none, some e => r.relocationFailed e
    | none, none => r
  r.burnOver b.job

/-- The frame of a FILE's page becomes SEALED under the location of its primary copy (R17, R151). -/
def Run.sealFiled (r : Run) (p : BurnPage) : Run :=
  match r.frameAt p.frame, p.placed with
  | .filing _ info _ hs, some l =>
    (r.setFrame p.frame (.sealed { serial := l.primary, side := l.side, sector := l.sector } info false false hs)).checkReclaim
      p.frame
  | _, _ => r

/-- A burn job whose pages are all PLACED is filed (R151), or its relocation is reported (R167). -/
def Run.burnFiled (r : Run) (b : BurnJob) : Run :=
  let r := match b.slot, b.entry with
    | some s, _ => (b.pages.foldl Run.sealFiled r).endDone s b.pages.length (fileResults b)
    | none, some e =>
      (match b.pages with
       | p :: _ => (match p.placed with
         | some l => r.relocationDone e { serial := l.primary, side := l.side, sector := l.sector }
         | none => r)
       | [] => r)
    | none, none => r
  r.burnOver b.job

/-- The Filing Unit is told of a failure (R152): the first code taken stands, unless the job is STOPPING
for a cancel; a job in hand ends when its flight list is empty, another at once. -/
def Run.burnFails (r : Run) (job : Nat) (code : Code) : Run :=
  match r.burnAt job, r.jobAt job with
  | some b, some j =>
    if j.state = .running ∨ j.state = .stopping then
      let r := if j.cancelTaken ∨ b.failing.isSome then r else r.modBurn job (fun b => { b with failing := some code })
      r.push .pump
    else r.burnEndsFailed b code
  | _, _ => r

/-! ### Loading and handing (R145, R146) -/

/-- A drive holds a volume facing a side, READY or BUSY (R145). -/
def Run.faces (r : Run) (serial : Nat) (side : Side) : Bool :=
  match r.driveOf serial with
  | none => false
  | some d =>
    let v := r.driveAt d
    (v.state == .ready || v.state == .busy) && v.serial == some serial && v.side == side && !v.unloadAsked &&
      (r.assignAt d).incoming.isNone

/-- The drive that holds a volume is READY (R144). -/
def Run.isReady (r : Run) (serial : Nat) : Bool :=
  match r.driveOf serial with
  | none => false
  | some d => (r.driveAt d).state == .ready

/-- A drive of the pair has a FREE buffer. -/
def Run.bufferFree (r : Run) (serial : Nat) : Bool :=
  match r.driveOf serial with
  | none => false
  | some d => (r.driveAt d).freeBuf.isSome

/-- The predicted start of a page (R145). -/
def Run.predicted (r : Run) (p : Nat) (side : Side) : Nat :=
  r.writePoint p side + (r.filing.flight.map (fun f => f.length)).sum

/-- The head of the waiting list fits (R145). -/
def Run.headFits (r : Run) (b : BurnJob) (p s : Nat) (side : Side) (i : Item) : Bool :=
  match i with
  | .page _ => decide (r.predicted p side + b.itemLength i ≤ sideSectors)
  | .label cp cs =>
    r.filing.flight.isEmpty && (!cp || r.writePoint p side == 0) && (!cs || r.writePoint s side == 0)

/-- One copy of an item begins to load into the FREE buffer of its volume's drive (R88, R145). -/
def Run.loadCopy (r : Run) (id serial : Nat) (side : Side) (start length frame imageLen : Nat) (head : List Byte) :
    Option Copy × Run :=
  match r.driveOf serial with
  | none => (none, r)
  | some d =>
    match (r.driveAt d).freeBuf with
    | none => (none, r)
    | some b =>
      let total := ceilDiv (4 * ceilDiv imageLen 4) 32
      let st : Stream := { idx := bufIdx d b, frame := frame, loading := true, pos := 1, done := 0, total := total, acc := [] }
      let r := r.modBuf d b (fun _ =>
        { state := .loading, serves := some (.item id), side := side, start := start, count := length,
          positions := [{ report := .clean, data := head }], moved := 0, handed := false, burned := false })
      let r : Run := { r with mover := { r.mover with streams := r.mover.streams ++ [st] } }
      (some { serial := serial, drive := d, buf := b, state := .loading }, (r.push (.drive d)).push .present)

/-- The head of the waiting list moves to the tail of the flight list and begins to load (R145). -/
def Run.loadHead (r : Run) (b : BurnJob) (p s : Nat) (side : Side) (i : Item) : Run :=
  let r := r.modBurn b.job (fun b => { b with waiting := b.waiting.drop 1 })
  let id := r.filing.nextItem
  let start := match i with
    | .page _ => r.predicted p side
    | .label _ _ => 0
  let length := b.itemLength i
  let head := fun (n : Nat) (role : Role) (partner : Nat) => match i with
    | .page k => (match b.pages[k]? with
      | some pg => headerSector n side start b k pg
      | none => [])
    | .label _ _ => labelSector n role side partner
  let frame := match i with
    | .page k => ((b.pages[k]?).map (fun pg => pg.frame)).getD 0
    | .label _ _ => 0
  let imageLen := match i with
    | .page k => ((b.pages[k]?).map (fun pg => pg.imageLen)).getD 0
    | .label _ _ => 0
  let wants := match i with
    | .page _ => (true, true)
    | .label cp cs => (cp, cs)
  let cp := if wants.1 then r.loadCopy id p side start length frame imageLen (head p .primary s) else (none, r)
  let r := cp.2
  let cs := if wants.2 then r.loadCopy id s side start length frame imageLen (head s .safety p) else (none, r)
  let r := cs.2
  let f : Flight :=
    { id := id, item := i, job := some b.job, start := start, length := length, side := side, primary := cp.1, safety := cs.1 }
  { r with filing := { r.filing with flight := r.filing.flight ++ [f], nextItem := id + 1 } }

/-- Items whose BURN has not been handed are withdrawn: their buffers become FREE, and each goes back to
the head of the waiting list in its old order (R149, R153). -/
def Run.withdrawItems (r : Run) (b : BurnJob) : Run :=
  let gone := r.filing.flight.filter (fun f => f.job == some b.job && !f.handedOver)
  let r := gone.foldl (fun r f =>
    f.copies.foldl (fun r c => (r.freeBuffer c.drive c.buf).push (.drive c.drive)) r) r
  let r : Run := { r with filing := { r.filing with flight := r.filing.flight.filter (fun f => !(gone.any (fun g => g.id == f.id))) } }
  r.modBurn b.job (fun b => { b with waiting := gone.map (fun f => f.item) ++ b.waiting })

/-- The oldest item in flight, once LOADED, is handed to be burned to the drive of each copy; a side A
label of an establishment sets the label attempted flags (R144, R146). -/
def Run.handItem (r : Run) (f : Flight) : Run :=
  let hand := fun (o : Option Copy) => o.map (fun (c : Copy) => { c with state := CopyState.handed })
  let r : Run := { r with filing := { r.filing with flight := r.filing.flight.map (fun g =>
    if g.id = f.id then { g with primary := hand g.primary, safety := hand g.safety } else g) } }
  let r := match f.item, r.store.pair with
    | .label cp cs, .establishing p s side tp ts => r.setPair (.establishing p s side (tp || cp) (ts || cs))
    | _, _ => r
  f.copies.foldl (fun r c => (r.modBuf c.drive c.buf (fun x => { x with handed := true })).push (.drive c.drive)) r

/-! ### Establishing, labels and replacements (R144, R148) -/

/-- The next BLANK volume to take the place of an unfit one: not already named (R144). -/
def Run.replacement (r : Run) (p s : Nat) : Option Nat := r.choosable.find? (fun n => n != p && n != s)

/-- Volumes of an ESTABLISHING record are retired and replaced (R144), the primary first where both are (log entry 73);
`false` when no BLANK volume remains, with the establishment abandoned: an unfit volume is RETIRED by then, whether its label
attempted flag is set or not (log entry 94). -/
def Run.replaceVolumes (r : Run) (j : Job) (badP badS : Bool) : Bool × Run :=
  match r.store.pair with
  | .establishing p s side tp ts =>
    let r := if badP then r.retire p else r
    let r := if badS then r.retire s else r
    let np := if badP then r.replacement p s else some p
    let ns := if badS then r.choosable.find? (fun n => n != p && n != s && some n != np) else some s
    match np, ns with
    | some p', some s' =>
      let r := r.setPair (.establishing p' s' side (tp && !badP) (ts && !badS))
      let goes := decide (j.state = .running) && (((r.burnAt j.id).map (fun b => b.failing.isNone)).getD false)
      (true, if goes then r.exchangePair j ((if badP then [(p, p')] else []) ++ (if badS then [(s, s')] else [])) else r)
    | _, _ => (false, r.abandonPair)
  | .absent => (true, r)
  | .active _ _ _ => (true, r)
  | .closing _ _ _ _ => (true, r)

/-- A label settled with its results taken per volume (R144, R148).  A pair that becomes ACTIVE keeps the side B write points
its volumes have, equal or not (log entry 96). -/
def Run.labelSettle (r : Run) (f : Flight) : Run :=
  let failed : Option Copy → Bool := fun o => match o with | some c => c.state == .failed | none => false
  match r.store.pair with
  | .establishing p s _ _ _ =>
    if failed f.primary ∨ failed f.safety then
      match f.job.bind (fun i => r.jobAt i) with
      | none => r
      | some j =>
        let x := r.replaceVolumes j (failed f.primary) (failed f.safety)
        if x.1 then x.2 else x.2.burnFails j.id .mediaExhausted
    else
      let r := (r.setRole p .primary (some s) (some false)).setRole s .safety (some p) (some false)
      r.setPair (.active p s .a)
  | .active _ _ _ =>
    if failed f.primary ∨ failed f.safety then r.decideClose .filingFailed
    else { r with filing := { r.filing with turned := false } }
  | .absent => r
  | .closing _ _ _ _ => r

/-- A volume chosen for a new pair is unfit: its side A report is not NONE or its side A write point is
not 0 (R144). -/
def Run.unfit (r : Run) (serial : Nat) : Bool :=
  let report := (r.driveOf serial).bind (fun d => (r.driveAt d).loadReport)
  let none_ := match report with
    | some x => x.label == .none
    | none => false
  !none_ || r.writePoint serial .a != 0

/-- A volume's side B label names it, its role, its partner and side B (R148). -/
def Run.labelNames (r : Run) (serial partner : Nat) (role : Role) : Bool :=
  let report := (r.driveOf serial).bind (fun d => (r.driveAt d).loadReport)
  match report with
  | some x => x.label == .label serial role partner .b
  | none => false

/-! ### Settling (R147, R157) -/

/-- No settle remains after a system reset: an ESTABLISHING record is abandoned, a CLOSING one completes
its close, and the Start-Up Unit is told (R157). -/
def Run.resetSettled (r : Run) : Run :=
  let r := r.abandonPair.completeClose
  let r : Run := { r with startup := { r.startup with settleReported := true } }
  (r.push .startup).push .closes

/-- A page's copies have settled (R147): PLACED with both passed, else another attempt, up to three. -/
def Run.pageSettle (r : Run) (job : Nat) (i : Nat) (f : Flight) : Run :=
  let passed := f.copies.all (fun c => c.state == .passed)
  let setPage := fun (r : Run) (g : BurnPage → BurnPage) =>
    r.modBurn job (fun b => { b with pages := b.pages.modify i g })
  if passed then
    match f.primary, f.safety with
    | some cp, some cs =>
      let r := setPage r (fun p =>
        { p with placed := some { primary := cp.serial, safety := cs.serial, side := f.side, sector := f.start } })
      let frame := ((r.burnAt job).bind (fun b => (b.pages[i]?).map (fun p => p.frame))).getD 0
      match r.frameAt frame with
      | .filing _ info o hs =>
        r.setFrame frame (.filing (some { serial := cp.serial, side := f.side, sector := f.start }) info o hs)
      | _ => r
    | _, _ => r
  else
    let r := setPage r (fun p => { p with attempts := p.attempts + 1 })
    let attempts : Nat := ((r.burnAt job).bind (fun b => (b.pages[i]?).map (fun p => p.attempts))).getD 0
    if 3 ≤ attempts then (r.decideClose .filingFailed).burnFails job .filingFailed
    else r.modBurn job (fun b => { b with waiting := .page i :: b.waiting })

/-- A side B label that was burning at a system reset and passed on both volumes has labelled the side; with a copy failed
side B is still to be judged (R148, R157, log entry 29). -/
def Run.lateLabel (r : Run) (f : Flight) : Run :=
  if f.item.isLabel ∧ f.side = .b ∧ f.copies.all (fun c => c.state == .passed) then
    { r with filing := { r.filing with turned := false } }
  else r

/-- An item settles (R147): the write points of its volumes rise past its range whatever the results, it
leaves the flight list, and its results are taken. -/
def Run.settleItem (r : Run) (f : Flight) : Run :=
  let r := f.copies.foldl (fun r c => r.raiseWritePoint c.serial f.side (f.start + f.length)) r
  let r : Run := { r with filing := { r.filing with flight := r.filing.flight.filter (fun g => g.id != f.id) } }
  match f.job with
  | none =>
    let r := r.lateLabel f
    if r.filing.flight.isEmpty then r.resetSettled else r
  | some j =>
    match f.item with
    | .page i => r.pageSettle j i f
    | .label _ _ => r.labelSettle f

/-! ### The pipeline (R145 to R149) -/

/-- A crossing (R148): the side being left is full on both volumes; side A leads to side B, and side B to
a close as FULL. -/
def Run.cross (r : Run) (j : Job) : Run :=
  match r.store.pair with
  | .active p s .a =>
    let r : Run := { r with filing := { r.filing with turned := true } }
    ((r.fillSide p s .a).setPair (.active p s .b)).turnPair j
  | .active p s .b => ((r.fillSide p s .b).decideClose .full).push .pump
  | .absent => r
  | .establishing _ _ _ _ _ => r
  | .closing _ _ _ _ => r

/-- The job in hand has pages left and the record is ABSENT: a new pair is chosen and exchanged into the
held drives, or the job fails with MEDIA_EXHAUSTED (R148). -/
def Run.newPair (r : Run) (j : Job) : Run :=
  let old := j.pair
  if r.store.blankCount < 2 then r.burnFails j.id .mediaExhausted
  else
    match r.chooseNew with
    | none => r.burnFails j.id .mediaExhausted
    | some r =>
      match old, r.store.pair.pair with
      | some o, some (p, s, _) => r.exchangePair j [(o.primary, p), (o.safety, s)]
      | _, _ => r.unplacePair j []

/-- With both volumes mounted on the current side, what must come before pages: the examination of chosen
volumes and their side A labels (R144), the side B label or the judgement of side B labels (R148).  `true`
when the pipeline may go on to the head of the waiting list. -/
def Run.prepare (r : Run) (j : Job) (b : BurnJob) (p s : Nat) : Bool × Run :=
  let labelling := b.waiting.any Item.isLabel || r.filing.flight.any (fun f => f.item.isLabel)
  let addLabel := fun (r : Run) (cp cs : Bool) => r.modBurn b.job (fun b => { b with waiting := .label cp cs :: b.waiting })
  match r.store.pair with
  | .establishing _ _ _ tp ts =>
    if labelling then (true, r)
    else if !(r.isReady p && r.isReady s) then (false, r)
    else
      let badP := !tp && r.unfit p
      let badS := !ts && r.unfit s
      if badP ∨ badS then
        let x := r.replaceVolumes j badP badS
        (false, if x.1 then x.2.push .pump else x.2.burnFails j.id .mediaExhausted)
      else (false, (addLabel r (!tp) (!ts)).push .pump)
  | .active _ _ .b =>
    if labelling then (true, r)
    else if r.writePoint p .b = 0 ∧ r.writePoint s .b = 0 then
      (false, (addLabel r true true).push .pump)
    else if r.filing.turned then
      let r : Run := { r with filing := { r.filing with turned := false } }
      if r.labelNames p s .primary ∧ r.labelNames s p .safety then (true, r)
      else (false, (r.decideClose .filingFailed).push .pump)
    else (true, r)
  | .active _ _ .a => (true, r)
  | .absent => (false, r)
  | .closing _ _ _ _ => (false, r)

/-- The running job's pipeline takes its next steps on a pair whose drives both face the current side:
the head is loaded, or crossed for, and the oldest item is handed (R145, R146, R148). -/
def Run.pipeline (r : Run) (j : Job) (b : BurnJob) (p s : Nat) (side : Side) : Run :=
  let x := r.prepare j b p s
  if x.1 then
    let r := x.2
    let labelFlying := r.filing.flight.any (fun f => f.item.isLabel)
    let active := match r.store.pair with
      | .active _ _ _ => true
      | .absent => false
      | .establishing _ _ _ _ _ => false
      | .closing _ _ _ _ => false
    let r := match b.waiting with
      | [] => r
      | i :: _ =>
        if r.headFits b p s side i then
          if r.filing.flight.length < 2 ∧ r.bufferFree p ∧ r.bufferFree s ∧
              (i.isLabel || (active && !labelFlying)) then (r.loadHead b p s side i).push .pump
          else r
        else if r.filing.flight.isEmpty ∧ !i.isLabel then r.cross j
        else r
    match r.filing.flight with
    | f :: _ => if f.loaded then r.handItem f else r
    | [] => r
  else x.2

/-- The Filing Unit goes on (R145 to R149, R152, R153): settled items are taken first; then items are
withdrawn if the job stops or fails or the pair closes; with nothing in flight the close completes and
the job is filed, fails, stops, or goes on; one that stops for a preemption with every page PLACED is filed too (log entry
72). -/
def Run.pump (r : Run) : Run :=
  match r.filing.flight.find? (fun f => f.settled) with
  | some f => (r.settleItem f).push .pump
  | none =>
    match r.inHand with
    | none => r
    | some j =>
      match r.burnAt j.id with
      | none => r
      | some b =>
        let closing := match r.store.pair with
          | .closing _ _ _ _ => true
          | .absent => false
          | .establishing _ _ _ _ _ => false
          | .active _ _ _ => false
        let ending := decide (j.state = .stopping) || b.failing.isSome || closing
        let r := if ending then r.withdrawItems b else r
        if r.filing.flight.isEmpty ∧ closing then r.completeClose.push .pump
        else if r.filing.flight.isEmpty then
          match b.failing with
          | some c => r.burnEndsFailed ((r.burnAt j.id).getD b) c
          | none =>
            if b.allPlaced then r.burnFiled b
            else if j.state = .stopping then r.push (.safePoint j.id)
            else
              match j.pair, r.store.pair.pair with
              | some n, some (p, s, side) =>
                if n.placed ∧ r.faces p side ∧ r.faces s side then r.pipeline j b p s side else r
              | _, none => r.newPair j
              | none, some _ => r
        else if ending then r
        else
          match j.pair, r.store.pair.pair with
          | some n, some (p, s, side) =>
            if n.placed ∧ r.faces p side ∧ r.faces s side then r.pipeline j b p s side else r
          | _, _ => r

/-! ### CLOSE FILING PAIR (R150) -/

/-- The head of the waiting CLOSE FILING PAIR requests is taken: it waits while a burn job is in hand or
pages are settling, and otherwise closes or abandons the record and ends DONE (R150).  A RUNNING job whose need waits to be
placed again is in hand all the while, so a request waits for it too (log entry 21). -/
def Run.closeStep (r : Run) : Run :=
  match r.filing.closeOps with
  | [] => r
  | s :: rest =>
    if r.inHand.isSome ∨ !r.filing.flight.isEmpty then r
    else
      let r := (r.abandonPair.decideClose .request).completeClose
      let r : Run := { r with filing := { r.filing with closeOps := rest } }
      (r.endDone s 1 []).push .closes

/-- A volume named by the filing pair record has gone (R154): an establishment is abandoned, an ACTIVE pair
closes with cause VOLUME_MISSING at once, and every burn job in hand, SUSPENDED or WAITING_MEDIA ends.  A QUEUED one is
spared, one that is QUEUED again after a suspension too (log entry 101). -/
def Run.pairLosesVolume (r : Run) (serial : Nat) : Run :=
  if r.store.pair.names serial then
    let r := match r.store.pair with
      | .active _ _ _ => (r.decideClose .volumeMissing).completeClose
      | .establishing _ _ _ _ _ => r.abandonPair
      | .absent => r
      | .closing _ _ _ _ => r
    let jobs := (r.sched.jobs.filter (fun j => j.kind.isBurn && j.state != .queued)).map (fun j => j.id)
    jobs.foldl (fun r j => r.burnFails j .volumeMissing) r
  else r

/-! ### Taking a job in hand (R143) -/

/-- The pair need follows the record, for which a new pair is chosen when it is ABSENT; the job fails with
MEDIA_EXHAUSTED when none can be (R106, R143, R144). -/
def Run.needGiven (r : Run) (j : Job) (b : BurnJob) : Run :=
  match r.store.pair with
  | .absent =>
    (match r.chooseNew with
     | some r => r.needFromRecord j.id false
     | none => r.burnEndsFailed b .mediaExhausted)
  | .establishing _ _ _ _ _ => r.needFromRecord j.id false
  | .active _ _ _ => r.needFromRecord j.id false
  | .closing _ _ _ _ => r.burnEndsFailed b .mediaExhausted

/-- The crossing made at the start of a job whose first waiting page does not fit on the current side, and the
pair need given after it (R143, R148). -/
def Run.crossAtStart (r : Run) (j : Job) (b : BurnJob) : Run :=
  match r.store.pair with
  | .active p s .a =>
    let r : Run := { r with filing := { r.filing with turned := true } }
    ((r.fillSide p s .a).setPair (.active p s .b)).needFromRecord j.id false
  | .active p s .b => (((r.fillSide p s .b).decideClose .full).completeClose).needGiven j b
  | .absent => r.burnEndsFailed b .mediaExhausted
  | .establishing _ _ _ _ _ => r.burnEndsFailed b .mediaExhausted
  | .closing _ _ _ _ => r.burnEndsFailed b .mediaExhausted

/-- The Filing Unit gives the Scheduler a burn job's pair need: at a start after the pre-check, which may fail
the job or call for a crossing, and at a later pass from the record as it then is (R106, R143, log entry 19). -/
def Run.givePair (r : Run) (j : Job) (b : BurnJob) (start : Bool) : Run :=
  let r := r.modBurn j.id BurnJob.dropLabels
  let b := b.dropLabels
  if start then
    match r.preCheck b with
    | .exhausted => r.burnEndsFailed b .mediaExhausted
    | .fits => r.needGiven j b
    | .cross => r.crossAtStart j b
  else r.needGiven j b

end Sys2Proof.Machine
end

