-- ==== Sys2Proof/Machine/Place.lean ====
section
/-! DEFINITION. Place.lean: the Scheduler's dispatch pass (R104 to R109, R111, R113): starting jobs, placing
groups and pair needs, choosing drives, exchanges, and preemption. -/

namespace Sys2Proof.Machine

open Sys2Proof.Config

/-! ### Choosing a drive (R107) -/

/-- A burn job is in a level queue or on the suspension list (R107). -/
def Run.burnWaits (r : Run) : Bool :=
  r.sched.jobs.any (fun j => j.kind.isBurn &&
    (r.sched.queues.any (fun q => q.contains j.id) || r.sched.suspended.any (fun e => e.victim == j.id)))

/-- An EMPTY drive that may be selected (R107, log entry 28). -/
def Run.emptyChoice (r : Run) (taken : List Nat) (d : Nat) : Bool :=
  let a := r.assignAt d
  (r.driveAt d).state == .empty && a.incoming.isNone && a.reserved.isNone && a.holder.isNone &&
    !taken.contains d && !r.picker.ordersDrive d

/-- A READY drive that may be selected (R107). -/
def Run.readyChoice (r : Run) (taken : List Nat) (d : Nat) : Bool :=
  let a := r.assignAt d
  let v := r.driveAt d
  let departs := a.flip.isSome || (match a.departure with
    | some x => x.kind != .labelUnmount
    | none => false)
  let pairVolume := match v.serial with
    | some n => r.burnWaits && r.store.pair.names n
    | none => false
  v.state == .ready && a.tasks.isEmpty && a.flips.isEmpty && !departs && a.holder.isNone && a.claim.isNone &&
    a.incoming.isNone && a.reserved.isNone && a.label.isNone && !taken.contains d && !pairVolume &&
    !r.placedOn d

/-- The drive READY longest, the lowest-numbered among equals. -/
def Run.longestReady (r : Run) : List Nat → Option Nat
  | [] => none
  | d :: ds =>
    match r.longestReady ds with
    | none => some d
    | some e => if (r.driveAt e).readySince < (r.driveAt d).readySince then some e else some d

/-- A drive selected for an exchange, outside those already taken (R107). -/
def Run.selectDrive (r : Run) (taken : List Nat) : Option Nat :=
  match [0, 1, 2, 3].find? (r.emptyChoice taken) with
  | some d => some d
  | none => r.longestReady ([0, 1, 2, 3].filter (r.readyChoice taken))

/-- A drive reserved to a job that may take an exchange now: no order of it waits or is in progress, it is not in FAULT,
and no other work has come to it since (R105, R114, log entry 45). -/
def Run.reservedFree (r : Run) (job d : Nat) : Bool :=
  let a := r.assignAt d
  let departs := a.flip.isSome || (match a.departure with
    | some x => x.kind != .labelUnmount
    | none => false)
  a.reserved == some job && a.incoming.isNone && !r.picker.ordersDrive d && (r.driveAt d).state != .fault &&
    a.tasks.isEmpty && a.flips.isEmpty && !departs && a.holder.isNone && a.label.isNone && !r.placedOn d

/-- The drives reserved to a job. -/
def Run.reservedTo (r : Run) (job : Nat) : List Nat := [0, 1, 2, 3].filter (fun d => (r.assignAt d).reserved == some job)

/-! ### Placing a group or a label check (R105) -/

/-- A need's placement changes; a preemption is no longer held for it, and the job's mark stands only while one is held
for another of its needs (R113). -/
def Run.setPlace (r : Run) (job serial : Nat) (side : Side) (p : Placement) : Run :=
  r.modJob job (fun j =>
    let needs := j.needs.map (fun n =>
      if n.serial = serial ∧ n.side = side then { n with place := p, held := false } else n)
    { j with needs := needs, pendingPreempt := needs.any (fun n => n.held) })

/-- The frames of a job's unplaced tasks for a volume side. -/
def Run.groupFrames (r : Run) (job serial : Nat) (side : Side) : List Nat :=
  (r.retr.tasks.filter (fun t => t.carrier == some job && !t.placed && t.on serial side)).map (fun t => t.frame)

/-- A group is attached to a drive's task list; a label check waits there for its LOAD report, which is at
hand when the volume is already mounted (R105, R111, log entry 17). -/
def Run.attachTasks (r : Run) (j : Job) (n : Need) (d : Nat) : Run :=
  let r := r.setPlace j.id n.serial n.side (.tasks d)
  match j.kind with
  | .labelCheck _ => (r.modAssign d (fun a => { a with label := some j.id })).push (.loadReport d)
  | _ =>
    (r.modAssign d (fun a => { a with tasks := a.tasks ++ r.groupFrames j.id n.serial n.side })).push (.placeTasks d)

/-- A group is attached to a drive's flip list, and a FLIP departure is pending (R105, R109). -/
def Run.attachFlip (r : Run) (j : Job) (n : Need) (d : Nat) : Run :=
  let r := r.setPlace j.id n.serial n.side (.flips d)
  (r.modAssign d (fun a =>
    { a with flips := if a.flips.contains j.id then a.flips else a.flips ++ [j.id],
             flip := some (a.flip.getD false) })).push (.depart d)

/-- A reservation for a job is over once its need is placed on the drive (R114). -/
def Assign.placed (a : Assign) (job : Nat) : Assign :=
  { a with reserved := if a.reserved = some job then none else a.reserved }

/-- A need fails before it is placed: a group's tasks fail their fills; a label check ends (R67, R105). -/
def Run.failNeed (r : Run) (j : Job) (n : Need) (code : Code) : Run :=
  match j.kind with
  | .labelCheck _ => r.jobEnd j.id
  | _ => r.failGroup j.id n.serial n.side code

/-- An UNMOUNT of a drive is in the order list. -/
def Run.unmountListed (r : Run) (d : Nat) : Bool := r.picker.orders.any (fun o => o.kind == .unmount && o.drive == some d)

/-- A drive takes no more groups: claimed or held by a burn job, UNLOADING, its volume to be taken out by an UNMOUNT, or
another volume coming into it (R105). -/
def Run.closedTo (r : Run) (d serial : Nat) : Bool :=
  let a := r.assignAt d
  a.holder.isSome || a.claim.isSome || (r.driveAt d).state == .unloading || r.unmountListed d ||
    (match a.incoming with | some i => i.serial != serial | none => false)

/-- How a need was taken: placed or failed, left unplaced, or left unplaced for want of a drive, which is
taken to R113. -/
inductive Tried
  | taken
  | waits
  | lacksDrive
deriving DecidableEq, Repr

/-- Place a need on a drive in which its volume lies (R105, R114). -/
def Run.placeInDrive (r : Run) (j : Job) (n : Need) (d : Nat) : Tried × Run :=
  let a := r.assignAt d
  if (r.driveAt d).state = .fault then (.taken, r.failNeed j n .driveFault)
  else if r.closedTo d n.serial ∨ a.departure.isSome then (.waits, r)
  else
    let r' := r.modAssign d (fun a => a.placed j.id)
    if (r.driveAt d).side = n.side then
      (if a.flip.isSome then (.waits, r) else (.taken, r'.attachTasks j n d))
    else (.taken, r'.attachFlip j n d)

/-- Place one need of a FETCH or label check job (R105), on its reserved drive before any selection
(R114; of several needs the first in page order takes it, log entry 85); a drive with a departure pending takes no group
but one for its FLIP (R109, R111). -/
def Run.placeNeed (r : Run) (j : Job) (n : Need) : Tried × Run :=
  match r.incomingTo n.serial with
  | some d =>
    let a := r.assignAt d
    if a.holder.isSome ∨ a.claim.isSome ∨ a.departure.isSome then (.waits, r)
    else
      let side := (a.incoming.map (fun i => i.side)).getD n.side
      if side ≠ n.side then (.taken, r.attachFlip j n d)
      else if a.flip.isSome then (.waits, r)
      else (.taken, r.attachTasks j n d)
  | none =>
    match r.locOf n.serial with
    | none => (.taken, r.failNeed j n .volumeMissing)
    | some .missing => (.taken, r.failNeed j n .volumeMissing)
    | some .hand => (.waits, r)
    | some (.drive d) => r.placeInDrive j n d
    | some (.cell _) =>
      match ((r.reservedTo j.id).find? (r.reservedFree j.id)).orElse (fun _ => r.selectDrive []) with
      | some d =>
        let r := r.modAssign d (fun a => a.placed j.id)
        (.taken, (r.beginExchange d n.serial n.side j.id j.level).attachTasks j n d)
      | none => (.lacksDrive, r)

/-! ### Preemption (R113) -/

/-- A job may be a victim of a need at level L (R113, log entry 22). -/
def Job.victimFor (k : Job) (level : Nat) : Bool :=
  (k.state == .running || k.state == .stopping) && decide (level + 2 ≤ k.level) &&
    (k.kind == .fetch || k.kind.isBurn)

/-- A candidate drive for a preemption at level L (R113). -/
def Run.candidate (r : Run) (j : Job) (d : Nat) : Bool :=
  let ws := r.workers d
  (r.driveAt d).state != .fault && (r.assignAt d).reserved.isNone && !ws.isEmpty && !j.awaited.contains d &&
    ws.all (fun i => match r.jobAt i with | some k => k.victimFor j.level | none => false)

/-- The best of some candidate drives: the fewest victims, and the lowest-numbered among equals (R113). -/
def Run.fewest (r : Run) : List Nat → Option Nat
  | [] => none
  | d :: ds =>
    match r.fewest ds with
    | none => some d
    | some e => if (r.workers e).length < (r.workers d).length then some e else some d

/-- The candidate drives chosen, as many as are lacking. -/
def Run.chooseVictims (r : Run) (j : Job) : Nat → List Nat → List Nat
  | 0, _ => []
  | k + 1, taken =>
    match r.fewest ([0, 1, 2, 3].filter (fun d => r.candidate j d && !taken.contains d)) with
    | none => []
    | some d => d :: r.chooseVictims j k (d :: taken)

/-- The jobs with work on a chosen drive join those that a preemption still waiting for the drive has noted (R114). -/
def Run.noteVictims (r : Run) (d : Nat) : Run :=
  let ws := r.workers d
  let waited := r.sched.jobs.any (fun k => k.awaited.contains d)
  r.modAssign d (fun a => { a with victims := ((if waited then a.victims else []) ++ ws).dedup })

/-- A preemption of chosen drives is made in one step, or held when the suspension list cannot take its
entries; the mark of a held one stands until the need is placed, a FETCH's named by its volume side (R113). -/
def Run.preemptDrives (r : Run) (j : Job) (ds : List Nat) (need : Option (Nat × Side)) : Run :=
  let victims := (ds.flatMap r.workers).dedup
  let fresh := victims.filter (fun i => match r.jobAt i with | some k => k.state != .stopping | none => false)
  if r.sched.suspended.length + fresh.length ≤ suspensionRoom then
    let entries := fresh.map (fun i => { victim := i, preemptor := j.id : Suspension })
    let r : Run := { r with sched := { r.sched with suspended := r.sched.suspended ++ entries } }
    let r := ds.foldl (fun r d => r.noteVictims d) r
    let r := r.modJob j.id (fun k => { k with awaited := k.awaited ++ ds })
    let r := fresh.foldl (fun r i => r.setJobState i .stopping) r
    let r := fresh.foldl (fun r i => r.stopJob i) r
    victims.foldl (fun r i => r.push (.safePoint i)) r
  else r.modJob j.id (fun k =>
    { k with pendingPreempt := true,
             needs := k.needs.map (fun n => if some (n.serial, n.side) = need then { n with held := true } else n) })

/-- A need that lacks drives may preempt (R113): `lacking` drives are chosen, less those already awaited or
reserved for the job (log entry 22), or none where there are fewer candidates than that (log entry 70). -/
def Run.tryPreempt (r : Run) (job lacking : Nat) (need : Option (Nat × Side)) : Run :=
  match r.jobAt job with
  | none => r
  | some j =>
    let covered := j.awaited.length + (r.reservedTo job).length
    if r.settings.preemption ∧ j.level ≤ 1 ∧ covered < lacking then
      let ds := r.chooseVictims j (lacking - covered) []
      if ds.length = lacking - covered then r.preemptDrives j ds need else r
    else r

/-! ### Placing a pair need (R106) -/

/-- Where one volume of a pair need can be placed. -/
inductive PairSpot
  | cannot
  | take (d : Nat)
  | claim (d : Nat)
  | exchange
  | fails (code : Code)
deriving DecidableEq, Repr

/-- The first case of R106 that applies to a volume of a job's pair need.  A drive with work in its lists is claimed by one
job: a second job's need waits without a claim (log entry 84), and so does one on a drive with empty lists that is to be
unloaded (log entry 90).  A drive that the job holds already is taken whatever departure waits there for its release (R106,
R111). -/
def Run.pairSpot (r : Run) (job serial : Nat) : PairSpot :=
  match r.incomingTo serial with
  | some _ => .cannot
  | none =>
    match r.locOf serial with
    | none => .fails .volumeMissing
    | some .missing => .fails .volumeMissing
    | some .hand => .cannot
    | some (.cell _) => .exchange
    | some (.drive d) =>
      let v := r.driveAt d
      let a := r.assignAt d
      match v.state with
      | .loading => .cannot
      | .unloading => .cannot
      | .empty => .cannot
      | .fault => .fails .driveFault
      | .ready | .busy =>
        if a.holder = some job then (if a.incoming.isSome ∨ v.unloadAsked then .cannot else .take d)
        else if a.departure.isSome ∨ a.incoming.isSome ∨ a.label.isSome ∨ r.unmountListed d ∨ a.holder.isSome then .cannot
        else if a.tasks.isEmpty ∧ a.flips.isEmpty ∧ !r.placedOn d then (if v.unloadAsked then .cannot else .take d)
        else if a.claim.isSome ∧ a.claim ≠ some job then .cannot
        else .claim d

/-- A drive for a pair volume that needs an exchange, outside those taken: the seat that the job holds for it (R106), else
one reserved to the job, else one selected under R107 (R107, R114). -/
def Run.pairDrive (r : Run) (job : Nat) (seat : Option Nat) (taken : List Nat) : Option Nat :=
  match seat.filter (fun d => (r.assignAt d).holder == some job && !taken.contains d) with
  | some d => some d
  | none =>
    match (r.reservedTo job).find? (fun d => r.reservedFree job d && !taken.contains d) with
    | some d => some d
    | none => r.selectDrive taken

/-- A volume of a pair need that can be placed takes its drive: as it is, by a FLIP, or by an exchange.  A claim for burning
that another job has on the drive stands (R106, log entry 98). -/
def Run.takePair (r : Run) (j : Job) (serial : Nat) (side : Side) (spot : PairSpot) (d : Nat) : Run :=
  let r := r.modAssign d (fun a => { a.placed j.id with holder := some j.id })
  match spot with
  | .take _ => if (r.driveAt d).side = side then r else r.flipDrive j.id j.level d
  | .exchange => r.beginExchange d serial side j.id j.level
  | .cannot => r
  | .claim _ => r
  | .fails _ => r

/-- A job's claims for burning are over once its need is placed (R106); a departure that waited for one may then be placed
(R111). -/
def Run.dropClaims (r : Run) (job : Nat) : Run :=
  Run.lookAtDrives { r with sched := { r.sched with assigns := r.sched.assigns.map (fun a =>
    { a with claim := if a.claim = some job then none else a.claim }) } }

/-- Place a burn job's pair need, whole or not at all (R106), the primary first (log entry 97). -/
def Run.placePair (r : Run) (j : Job) (n : PairNeed) : Run :=
  let sp := r.pairSpot j.id n.primary
  let ss := r.pairSpot j.id n.safety
  match sp, ss with
  | .fails c, _ => r.burnFails j.id c
  | _, .fails c => r.burnFails j.id c
  | _, _ =>
    let fixed := (match sp with | .take d => [d] | .claim d => [d] | _ => []) ++
      (match ss with | .take d => [d] | .claim d => [d] | _ => [])
    let dp := match sp with
      | .take d => some d
      | .exchange => r.pairDrive j.id n.primarySeat fixed
      | _ => none
    let ds := match ss with
      | .take d => some d
      | .exchange => r.pairDrive j.id n.safetySeat (fixed ++ dp.toList)
      | _ => none
    match dp, ds with
    | some a, some b =>
      let r := (r.takePair j n.primary n.side sp a).takePair j n.safety n.side ss b
      let r := r.modJob j.id (fun k => { k with pair := some { n with placed := true }, pendingPreempt := false })
      ((r.dropClaims j.id).refreshJob j.id).push .pump
    | _, _ =>
      let claim := fun (r : Run) (s : PairSpot) => match s with
        | .claim d => r.modAssign d (fun a => { a with claim := some j.id })
        | _ => r
      let r := claim (claim r sp) ss
      let lacking := (if sp = .exchange ∧ dp = none then 1 else 0) + (if ss = .exchange ∧ ds = none then 1 else 0)
      let used := ((dp.toList ++ ds.toList).filter (fun d => (r.assignAt d).reserved == some j.id)).length
      let r := r.refreshJob j.id
      if lacking = 0 then r else r.tryPreempt j.id (lacking + used) none

/-! ### EXPORT and IMPORT jobs (R76, R77) -/

/-- An EXPORT or IMPORT job ends with its outcome. -/
def Run.moveJobEnds (r : Run) (j : Job) (code : Option Code) (results : List (Nat × List Byte)) : Run :=
  let r := match j.slot, code with
    | some s, none => r.endDone s 1 results
    | some s, some c => r.endFailed s c 0
    | none, _ => r
  r.jobEnd j.id

/-- An EXPORT's result: the hand-off cell (R197), the one byte of its word that the kind defines (log entry 55). -/
def exportResults (cell : Nat) : List (Nat × List Byte) := [(256, leBytes 1 (cell - 88))]

/-- An IMPORT's results: the serial and the destination cell (R73, R197), the five bytes of their words that the kind
defines (log entry 55). -/
def importResults (serial cell : Nat) : List (Nat × List Byte) := [(256, leBytes 4 serial ++ leBytes 1 cell)]

/-- The volume in a drive is already on its way out of it: another volume is coming in, an order other than a FLIP takes it
to a cell, a RESTORE DRIVE does, or another EXPORT does (R70, R77, R98, log entry 41). -/
def Run.leaving (r : Run) (d serial : Nat) : Bool :=
  let a := r.assignAt d
  (match a.incoming with | some i => i.serial != serial | none => false) ||
    r.picker.orders.any (fun o => o.drive == some d && o.fromDrive && o.kind != .flip) ||
    r.restores.any (fun x => x.drive == d && (x.phase == .unloading || x.phase == .ordered)) ||
    (match a.departure with | some x => x.placed || x.kind != .labelUnmount | none => false)

/-- A started EXPORT job acts by where its volume lies (R77): an order from a shelf cell, an EXPORT
departure on a drive, a wait while it is in the hand, or its end, with VOLUME_MISSING too where the record has been removed
(log entry 68).  Its departure replaces a label check's UNMOUNT that has not been placed (log entry 81). -/
def Run.exportAct (r : Run) (job : Nat) : Run :=
  match r.jobAt job with
  | none => r
  | some j =>
    match j.kind with
    | .exportOut serial =>
      match r.locOf serial with
      | none => r.moveJobEnds j (some .volumeMissing) []
      | some .missing => r.moveJobEnds j (some .volumeMissing) []
      | some .hand => r
      | some (.cell c) =>
        if 88 ≤ c then r.moveJobEnds j none (exportResults c)
        else r.placeOrder .exportOut none (some serial) none none 3 (.job job)
      | some (.drive d) =>
        if (r.driveAt d).state = .fault then r.moveJobEnds j (some .driveFault) []
        else if r.leaving d serial then r
        else (r.modAssign d (fun a => { a with departure := some { kind := .exportOut job, placed := false } })).push (.depart d)
    | _ => r

/-- An EXPORT job has its order or its departure. -/
def Run.exportPlaced (r : Run) (job : Nat) : Bool :=
  r.picker.orders.any (fun o => o.requester == .job job) || r.picker.jobMoving job ||
    r.sched.assigns.any (fun a => match a.departure with | some x => x.kind == .exportOut job | none => false)

/-! ### The dispatch pass (R104) -/

/-- Another burn job is RUNNING or STOPPING (R104). -/
def Run.otherBurn (r : Run) (job : Nat) : Option Job :=
  r.sched.jobs.find? (fun k => k.kind.isBurn && k.id != job && (k.state == .running || k.state == .stopping))

/-- A job is started (R104): its started flag is set. -/
def Run.markStarted (r : Run) (j : Job) : Run :=
  r.modJob j.id (fun k => { k with state := .running, started := true })

/-- A job has work to wait for: it has not ended, and some page of a FETCH is not FINAL (R120, R131). -/
def Run.goesOn (r : Run) (job : Nat) : Bool :=
  match r.jobAt job with
  | none => false
  | some j => j.kind != .fetch || ((r.fetchAt job).map (fun f => f.pages.any (fun p => p.code.isNone))).getD false

/-- The slot of a job just started is told, once; a job that its start has already brought to its end takes its slot from
ACCEPTED to its end (R52, R104, log entry 54). -/
def Run.tellStarted (r : Run) (j : Job) : Run :=
  match j.slot with
  | some s => if j.started || !r.goesOn j.id then r else r.slotStarted s
  | none => r

/-- The unplaced needs of a FETCH in ascending order of their lowest page index (R104). -/
def Run.unplacedNeeds (r : Run) (j : Job) : List Need :=
  let index := fun (n : Need) =>
    match r.fetchAt j.id with
    | none => 0
    | some f => ((List.range f.pages.length).find? (fun i =>
        match (f.pages[i]?).bind (fun (p : PageEntry) => p.frame) with
        | some fr => (r.groupFrames j.id n.serial n.side).contains fr
        | none => false)).getD 16
  (j.needs.filter (fun n => n.place == .unplaced)).insertionSort (fun a b => index a ≤ index b)

/-- Place the unplaced needs of a FETCH or label check job, and take those that find no drive to R113. -/
def Run.placeNeeds (r : Run) (job : Nat) : Run :=
  match r.jobAt job with
  | none => r
  | some j =>
    let x := (r.unplacedNeeds j).foldl (fun (acc : Nat × Run) n =>
      match acc.2.jobAt job with
      | none => acc
      | some j =>
        let t := acc.2.placeNeed j n
        match t.1 with
        | .taken => (acc.1, t.2)
        | .waits => (acc.1, t.2)
        | .lacksDrive => (acc.1 + 1, t.2.tryPreempt job (acc.1 + 1) (some (n.serial, n.side)))) (0, r)
    x.2.refreshJob job

/-- One burn job in a pass (R104, R106): not started, and not placed, while another is RUNNING or STOPPING,
unless it may preempt the running one, whose drives it then awaits, both of them (R113, log entry 71).  A running job's need
that is still unplaced is placed where it can be, on the drives the job holds (R106, log entry 21). -/
def Run.passBurn (r : Run) (j : Job) : Run :=
  match r.otherBurn j.id with
  | some k =>
    let ds := ([0, 1, 2, 3].filter (fun d => (r.assignAt d).holder == some k.id)).take 2
    if r.settings.preemption ∧ j.level ≤ 1 ∧ k.state = .running ∧ k.victimFor j.level ∧
        ds.all (fun d => r.candidate j d) ∧ !ds.isEmpty then r.preemptDrives j ds none
    else r
  | none =>
    match r.burnAt j.id with
    | none => r
    | some b =>
      if j.state = .running then
        match j.pair with
        | some n => if n.placed ∨ b.failing.isSome then r else r.placePair j n
        | none => r
      else
      let r := if j.state = .queued then r.markStarted j else r
      let r := (r.setJobState j.id .waitingMedia).givePair j b (decide (j.state = .queued))
      let r := if j.state = .queued then r.tellStarted j else r
      match r.jobAt j.id with
      | none => r
      | some j =>
        match j.pair with
        | some n => r.placePair j n
        | none => r

/-- One job in a pass (R104). -/
def Run.passJob (r : Run) (job : Nat) : Run :=
  match r.jobAt job with
  | none => r
  | some j =>
    let queued := r.sched.queues.any (fun q => q.contains job)
    if !queued ∨ j.state = .waitingFrames ∨ !j.carries then r
    else
      match j.kind with
      | .fetch =>
        let r := if j.state = .queued then ((r.markStarted j).startFetch job).tellStarted j else r
        let r := r.refreshJob job
        (match r.jobAt job with
         | some k => if k.state = .waitingFrames then r else r.placeNeeds job
         | none => r)
      | .labelCheck serial =>
        let r := if j.state = .queued then
            (r.markStarted j).modJob job (fun k => { k with needs := [{ serial := serial, side := .a, place := .unplaced, held := false }] })
          else r
        r.placeNeeds job
      | .importIn cell =>
        let r := ((r.markStarted j).tellStarted j).leaveQueue job
        let v := (r.volumeIn (.cell (88 + cell))).map (fun v => v.serial)
        r.placeOrder .importIn none v none (some (88 + cell)) 3 (.job job)
      | .exportOut _ =>
        let first := j.state = .queued
        let r := if first then r.markStarted j else r
        let r := if r.exportPlaced job then r else r.exportAct job
        let r := if first then r.tellStarted j else r
        if r.exportPlaced job then r.leaveQueue job else r
      | .file => r.passBurn j
      | .relocation _ => r.passBurn j

/-- A pass may run: STARTED has been taken (R104). -/
def Run.passAllowed (r : Run) : Bool := r.startup.started && r.startup.acting

/-- The jobs with a held preemption, most urgent and oldest first (R113). -/
def Run.heldJobs (r : Run) : List Nat :=
  ((r.sched.jobs.filter (fun j => j.pendingPreempt)).insertionSort (fun i j => i.before j = true)).map (fun j => j.id)

/-- A dispatch pass (R104, R113): after an entry has left the suspension list the jobs with a held preemption,
then the level queues in order from head to tail, passing over those already taken. -/
def Run.dispatch (r : Run) : Run :=
  if r.passAllowed then
    let held := if r.heldFirst then r.heldJobs else []
    let r : Run := { r with heldFirst := false }
    let rest := (r.sched.queues.flatten).filter (fun i => !held.contains i)
    (held ++ rest).foldl (fun r i => r.passJob i) r
  else r

end Sys2Proof.Machine
end

