-- ==== Sys2Proof/Machine/Ends.lean ====
section
/-! DEFINITION. Ends.lean: what one block's event does in the others: cancels (R116, R132, R153), safe points
(R114), orders that ended (R108, R109, R98), drives READY or in FAULT (R112), volumes gone (R112, R154),
departures (R109, R111), RESTORE DRIVE (R98), and the start-up sequence (R192, R193). -/

namespace Sys2Proof.Machine

open Sys2Proof.Config

/-! ### Cancels and safe points -/

/-- A job's entry leaves the suspension list. -/
def Run.dropEntry (r : Run) (job : Nat) : Run := (r.keepEntries (fun e => e.victim != job)).wantPass

/-- A cancelled FETCH job (R116, R132). -/
def Run.cancelFetch (r : Run) (j : Job) : Run :=
  let atOnce := match r.fetchAt j.id with
    | some f => r.abortFetch f
    | none => r.jobEnd j.id
  match j.state with
  | .queued => atOnce
  | .waitingFrames => atOnce
  | .waitingMedia => atOnce
  | .suspended => atOnce
  | .running => if r.retr.tasks.any (fun t => t.carrier == some j.id && t.placed) then r.stopJob j.id else atOnce
  | .stopping => (r.dropEntry j.id).push (.safePoint j.id)

/-- A cancelled FILE job (R116, R153). -/
def Run.cancelBurn (r : Run) (j : Job) : Run :=
  let atOnce := match r.burnAt j.id with
    | some b => r.burnEndsFailed b .aborted
    | none => r.jobEnd j.id
  match j.state with
  | .queued => atOnce
  | .waitingFrames => atOnce
  | .waitingMedia => atOnce
  | .suspended => atOnce
  | .running => r.stopJob j.id
  | .stopping => (r.dropEntry j.id).push .pump

/-- The Scheduler takes a cancel handed to a job (R116). -/
def Run.cancelJob (r : Run) (id : Nat) : Run :=
  let r := r.modJob id (fun j => { j with cancelTaken := true })
  match r.jobAt id with
  | none => r
  | some j =>
    match j.kind with
    | .fetch => r.cancelFetch j
    | .file => r.cancelBurn j
    | .relocation _ => r.cancelBurn j
    | .labelCheck _ => r.jobEnd id
    | .importIn _ => if r.picker.jobMoving id then r else r.moveJobEnds j (some .aborted) []
    | .exportOut _ => if r.picker.jobMoving id then r else r.moveJobEnds j (some .aborted) []

/-- A STOPPING job has come to its safe point (R114): a FETCH with none of its tasks placed and no order in
progress, a burn job with nothing in flight. -/
def Run.atSafePoint (r : Run) (j : Job) : Bool :=
  if j.kind.isBurn then r.filing.flight.all (fun f => f.job != some j.id)
  else !(r.retr.tasks.any (fun t => t.carrier == some j.id && t.placed)) && !r.picker.jobMoving j.id

/-- A job at its safe point after a cancel ends with its own outcome if its work is complete, else with
ABORTED (R114, R132, R153). -/
def Run.cancelEnds (r : Run) (j : Job) : Run :=
  if j.kind.isBurn then
    match r.burnAt j.id with
    | none => r.jobEnd j.id
    | some b => if b.allPlaced then r.burnFiled b else r.burnEndsFailed b (b.failing.getD .aborted)
  else
    match r.fetchAt j.id with
    | none => r.jobEnd j.id
    | some f => if f.resolved ∧ f.pages.all (fun p => p.code.isSome) then r.finishFetch f else r.abortFetch f

/-- A STOPPING job reaches its safe point (R114): it releases its drives, its withdrawn tasks pass to other holders of their
frames that can carry them by now (R126, R133), it becomes SUSPENDED, QUEUED or ENDED, and the drives awaited are
reserved. -/
def Run.safePoint (r : Run) (job : Nat) : Run :=
  match r.jobAt job with
  | none => r
  | some j =>
    if j.state = .stopping ∧ r.atSafePoint j then
      let r := (r.releaseDrives job).modJob job (fun k => { k with pair := none })
      let r := if j.kind.isBurn then r else r.passTasks job
      let r := if j.cancelTaken then r.cancelEnds j
        else if r.sched.suspended.any (fun e => e.victim == job) then r.setJobState job .suspended
        else r.requeue [job]
      let r := if j.kind.isBurn then r.push .closes else r.push (.fetchEnd job)
      (r.reserveDrives.lookAtDrives).wantPass
    else r

/-! ### Orders that ended -/

/-- An exchange into a drive went wrong (R108): the need that asked for it fails with the code, and the
others attached to it go back to unplaced (log entry 31). -/
def Run.exchangeFails (r : Run) (d : Nat) (code : Code) : Run :=
  match (r.assignAt d).incoming with
  | none => r
  | some i =>
    let r := r.modAssign d (fun a => { a with incoming := none })
    match r.jobAt i.job with
    | none => r.unplaceDrive d
    | some j =>
      match j.kind with
      | .fetch =>
        let r := r.failGroup j.id i.serial i.side code
        let r := r.setPlace j.id i.serial i.side .unplaced
        r.unplaceDrive d
      | .labelCheck _ => (r.jobEnd j.id).unplaceDrive d
      | .file => r.burnFails j.id code
      | .relocation _ => r.burnFails j.id code
      | .importIn _ => r
      | .exportOut _ => r

/-- The groups of a drive's flip list end with a code (R109, R112). -/
def Run.failFlips (r : Run) (d : Nat) (code : Code) : Run :=
  let jobs := (r.assignAt d).flips
  let r := r.modAssign d (fun a => { a with flips := [] })
  jobs.foldl (fun r i =>
    match r.jobAt i with
    | none => r
    | some j => (j.needs.filter (fun n => n.place == .flips d)).foldl (fun r n => r.failNeed j n code) r) r

/-- The groups of a drive's flip list move onto its task list once it faces their side (R109). -/
def Run.flipsToTasks (r : Run) (d : Nat) : Run :=
  let jobs := (r.assignAt d).flips
  let r := r.modAssign d (fun a => { a with flips := [], flip := none })
  jobs.foldl (fun r i =>
    match r.jobAt i with
    | none => r
    | some j => (j.needs.filter (fun n => n.place == .flips d)).foldl (fun r n => r.attachTasks j n d) r) r

/-- A drive's MOUNT, UNMOUNT or FLIP has ended (R94, R108, R109).  The exchange of a STOPPING job goes no further, and stands
until the job's safe point (R114, log entry 87). -/
def Run.driveOrderEnded (r : Run) (o : Order) (d : Nat) (code : Option Code) : Run :=
  match o.kind, code with
  | .mount, none => r
  | .mount, some c => r.exchangeFails d c
  | .unmount, none =>
    match (r.assignAt d).incoming with
    | none => r.modAssign d (fun a => { a with departure := none })
    | some i =>
      match r.jobAt i.job with
      | some j => if j.carries then r.placeOrder .mount (some d) (some i.serial) (some i.side) none i.level (.job i.job) else r
      | none => (r.modAssign d (fun a => { a with incoming := none })).unplaceDrive d
  | .unmount, some c => ((r.reload d).modAssign d (fun a => { a with departure := none })).exchangeFails d c
  | .flip, none => r.flipsToTasks d
  | .flip, some c =>
    let r := ((r.reload d).modAssign d (fun a => { a with flip := none })).failFlips d c
    match o.requester with
    | .job j => if ((r.jobAt j).map (fun k => k.kind.isBurn)).getD false then r.burnFails j c else r
    | .restore _ => r
    | .nobody => r
  | _, _ => r

/-- A RESTORE DRIVE operation ends (R98). -/
def Run.restoreEnds (r : Run) (slot : Nat) (code : Option Code) : Run :=
  let r : Run := { r with restores := r.restores.filter (fun x => x.slot != slot) }
  let r := match code with
    | none => r.endDone slot 1 []
    | some c => r.endFailed slot c 0
  r.push .restores

/-- A picker order's requester is told how it ended (R72, R74, R76, R77, R98, R108, R109). -/
def Run.orderEnded (r : Run) (o : Order) (code : Option Code) (serial cell : Nat) : Run :=
  let r := match o.requester, o.kind, o.drive with
    | .restore s, _, some d =>
      (match code with
       | none => r
       | some _ => r.reload d).restoreEnds s code
    | .restore s, _, none => r.restoreEnds s code
    | _, .importIn, _ =>
      (match o.requester with
       | .job j => (match r.jobAt j with
         | some k => r.moveJobEnds k code (importResults serial cell)
         | none => r)
       | _ => r)
    | _, .exportOut, d =>
      let r := match d, code with
        | some d, some _ => r.reload d
        | _, _ => r
      (match o.requester with
       | .job j => (match r.jobAt j with
         | some k => r.moveJobEnds k code (exportResults cell)
         | none => r)
       | _ => r)
    | _, _, some d => r.driveOrderEnded o d code
    | _, _, none => r
  let r := match o.requester with
    | .job j => r.push (.safePoint j)
    | .restore _ => r
    | .nobody => r
  (r.lookAtDrives).wantPass

/-! ### Drives -/

/-- The Start-Up Unit is told that a drive has reached READY, EMPTY or FAULT (R99). -/
def Run.driveReports (r : Run) (d : Nat) : Run :=
  if r.startup.loadsIssued ∧ r.startup.stage = .drives then
    Run.push { r with startup := { r.startup with driveReported := r.startup.driveReported.set d true } } .startup
  else r

/-- A drive is READY (R91, R108): the exchange that brought its volume is over, and its work proceeds. -/
def Run.driveReady (r : Run) (d : Nat) : Run :=
  let serial := (r.driveAt d).serial
  let r := r.modAssign d (fun a =>
    { a with incoming := match a.incoming with
        | some i => if some i.serial = serial then none else some i
        | none => none })
  ((((r.driveReports d).push (.placeTasks d)).push (.depart d)).push .pump).wantPass

/-- A drive has entered FAULT (R97, R112): its orders end, the work on it fails, its assignment record is
cleared, and no preemption awaits it any more. -/
def Run.driveFault (r : Run) (d : Nat) (timeout : Bool) : Run :=
  let r := r.endOrders (fun o => o.fromDrive && o.drive == some d) .driveFault
  let a := r.assignAt d
  let r := a.tasks.foldl (fun r f => r.push (.fillFail f .driveFault)) r
  let r := (r.retr.tasks.filter (fun t => t.placed && t.drive == some d)).foldl
    (fun r t => r.push (.fillFail t.frame (if timeout then .timeout else .driveFault))) r
  let r := r.failFlips d .driveFault
  let r := r.modAssign d (fun _ => Assign.clear)
  let r : Run := { r with sched := { r.sched with jobs := r.sched.jobs.map (fun j =>
    { j with awaited := j.awaited.filter (fun e => e != d) }) } }
  let r := match a.holder with
    | some j => r.burnFails j (if timeout then .timeout else .driveFault)
    | none => r
  let r := match a.claim with
    | some j => r.burnFails j .driveFault
    | none => r
  let r := match a.label with
    | some j => r.jobEnd j
    | none => r
  let r := match a.incoming with
    | some i => (match (r.jobAt i.job).map (fun (j : Job) => j.kind) with
      | some (.labelCheck _) => r.jobEnd i.job
      | _ => r)
    | none => r
  let r := match a.departure with
    | some x => (match x.kind with
      | .exportOut j => (match r.jobAt j with
        | some k => r.moveJobEnds k (some .driveFault) []
        | none => r)
      | .labelUnmount => r)
    | none => r
  (((r.driveReports d).push .restores).push .pump).wantPass

/-- A pending FLIP is placed, at the most urgent level of its flip list, and the unload asked (R109). -/
def Run.placeFlip (r : Run) (d : Nat) : Run :=
  match firstJob (r.sched.jobs.filter (fun j => (r.assignAt d).flips.contains j.id)) with
  | none => (r.modAssign d (fun a => { a with flip := none })).push (.depart d)
  | some j =>
    let r := r.modAssign d (fun a => { a with flip := some true })
    (Run.askUnload (r.placeOrder .flip (some d) (r.driveAt d).serial none none j.level (.job j.id)) d).2

/-- The order of a pending departure is placed and the unload asked (R77, R111). -/
def Run.placeDeparture (r : Run) (d : Nat) (kind : DepartureKind) : Run :=
  let r := r.modAssign d (fun a => { a with departure := some { kind := kind, placed := true } })
  let v := (r.driveAt d).serial
  match kind with
  | .labelUnmount => (Run.askUnload (r.placeOrder .unmount (some d) v none none 3 .nobody) d).2
  | .exportOut j => (Run.askUnload (r.placeOrder .exportOut (some d) v none none 3 (.job j)) d).2

/-- A pending departure may be placed beside what a burn job has of the drive: a label check's UNMOUNT waits for a claim
too (R111), and neither leaves while the drive is held (log entry 41). -/
def Assign.mayDepart (a : Assign) : DepartureKind → Bool
  | .labelUnmount => a.claim.isNone && a.holder.isNone
  | .exportOut _ => a.holder.isNone

/-- A pending FLIP or departure of a drive is placed once the drive's lists allow it, with no exchange coming in and no
label check waiting for its LOAD report; a departure of another kind waits for the FLIP (R105, R109, R111). -/
def Run.depart (r : Run) (d : Nat) : Run :=
  let a := r.assignAt d
  if a.tasks.isEmpty ∧ !r.placedOn d ∧ a.incoming.isNone ∧ a.label.isNone then
    match a.flip, a.departure with
    | some placed, _ => if placed then r else r.placeFlip d
    | none, none => r
    | none, some x => if x.placed ∨ !a.flips.isEmpty ∨ !a.mayDepart x.kind then r else r.placeDeparture d x.kind
  else r

/-- A LOAD report is taken for the label check that waits for it (R67, R68, R90): the role is set, the job
asks for the unmount and ends.  The exchange that brought the volume stands until the drive is READY, for nobody by then,
with the groups attached to it (R105, R108). -/
def Run.loadReport (r : Run) (d : Nat) : Run :=
  let v := r.driveAt d
  let r := r.push .pump
  match (r.assignAt d).label, v.loadReport with
  | some id, some rep =>
    match (r.jobAt id).map (fun (j : Job) => j.kind) with
    | some (.labelCheck serial) =>
      let here := v.serial == some serial && v.side == .a && rep.serial == serial && rep.side == .a &&
        v.state != .empty && v.state != .fault
      if here then
        let r := if ((r.volume serial).map (fun x => x.role)) = some .unverified then r.settleLabel serial rep.label else r
        let r := r.modAssign d (fun a =>
          { a with label := none, incoming := a.incoming.map (fun i => if i.job = id then { i with job := 0 } else i) })
        let r := r.jobEnd id
        (r.modAssign d (fun a =>
          { a with departure := some (a.departure.getD { kind := .labelUnmount, placed := false }) })).push (.depart d)
      else r
    | _ => r
  | _, _ => r

/-! ### Volumes gone (R64, R112, R154) -/

/-- The exchanges of a volume recorded MISSING before its MOUNT is granted end with VOLUME_MISSING (R108); the UNMOUNT that
makes room for it runs on (log entry 66). -/
def Run.exchangesLose (r : Run) (serial : Nat) : Run :=
  let carried := match r.picker.inProgress with
    | some o => o.kind == .mount && o.volume == some serial
    | none => false
  if r.locOf serial = some .missing ∧ !carried then
    [0, 1, 2, 3].foldl (fun r d =>
      match (r.assignAt d).incoming with
      | some i => if i.serial = serial then r.exchangeFails d .volumeMissing else r
      | none => r) r
  else r

/-- A job's pair need is unplaced and names a volume (R106). -/
def Job.lacksPairVolume (j : Job) (serial : Nat) : Bool :=
  match j.pair with
  | some n => !n.placed && (n.primary == serial || n.safety == serial)
  | none => false

/-- The unplaced pair needs that name a volume end, and the Filing Unit is told (R112). -/
def Run.pairNeedsLose (r : Run) (serial : Nat) : Run :=
  r.sched.jobs.foldl (fun r j => if j.lacksPairVolume serial then r.burnFails j.id .volumeMissing else r) r

/-- The blocks told of a volume MISSING or removed fail their waiting work on it. -/
def Run.volumeGone (r : Run) (serial : Nat) : Run :=
  let r := ((r.pairLosesVolume serial).pairNeedsLose serial).exchangesLose serial
  let r := r.waitLosesVolume serial
  let r := r.sched.jobs.foldl (fun r j =>
    (j.needs.filter (fun n => n.serial == serial && n.place == .unplaced)).foldl (fun r n => r.failNeed j n .volumeMissing) r) r
  let r := r.sched.jobs.foldl (fun r j =>
    match j.kind with
    | .labelCheck n =>
      if n = serial ∧ (j.state = .queued ∨ j.state = .waitingMedia) then r.jobEnd j.id else r
    | .exportOut n => if n = serial ∧ j.state = .running ∧ !r.exportPlaced j.id then r.exportAct j.id else r
    | .fetch => r
    | .file => r
    | .importIn _ => r
    | .relocation _ => r) r
  r.wantPass

/-! ### RESTORE DRIVE (R98) -/

/-- A waiting RESTORE DRIVE may begin: it is the first for its drive, and no RESTORE that a system reset discarded is still
in progress there (R53, R98, R100). -/
def Run.mayRestore (r : Run) (x : RestoreOp) : Bool :=
  x.phase == .waiting &&
    (match r.restores.find? (fun y => y.drive == x.drive) with
     | some y => y.slot == x.slot
     | none => false) &&
    ((r.driveAt x.drive).state != .fault || (r.driveAt x.drive).command.isNone)

/-- The RESTORE DRIVE operations that may begin do so, the first for each drive, once step 5 of power-up has
ended (R53, R98, R192). -/
def Run.restoreStep (r : Run) : Run :=
  if r.startup.stage = .audit ∨ r.startup.stage = .done then
    match r.restores.find? r.mayRestore with
    | none => r
    | some x =>
      if (r.driveAt x.drive).state = .fault then
        let r := r.issue x.drive .restore 0 0 0 0
        Run.push { r with restores := r.restores.map (fun y => if y.slot = x.slot then { y with phase := .restoring } else y) } .restores
      else r.restoreEnds x.slot none
  else r

/-- The RESTORE DRIVE operation in hand on a drive, in a phase. -/
def Run.restoreOn (r : Run) (d : Nat) (p : RestorePhase) : Option RestoreOp :=
  r.restores.find? (fun x => x.drive == d && x.phase == p)

/-! ### The start-up sequence (R192, R193) -/

/-- STARTED is taken at position 0 and dispatch passes begin (R61, R192, R193). -/
def Run.takeStarted (r : Run) : Run :=
  let u := r.startup
  let r : Run := { r with startup := { u with started := true } }
  let work := r.slot.work ++ [.notice 0 (.started u.cause u.batteryGood u.settingsGood)]
  let r : Run := { r with slot := { r.slot with work := work } }
  let r := if u.cause = .systemReset ∧ r.picker.audit.isNone then r.createLabelChecks else r
  r.wantPass

/-- The start-up sequence goes on: step 5 ends when all four drives have reported, step 6 with its audit,
and step 7 takes STARTED. -/
def Run.startupStep (r : Run) : Run :=
  match r.startup.stage with
  | .off => r
  | .checking => r
  | .failed => r
  | .drives =>
    if r.startup.loadsIssued ∧ r.startup.driveReported.all id then
      let r : Run := { r with startup := { r.startup with stage := .audit } }
      let r := if !r.startup.auditDone ∧ r.picker.audit = none ∧ r.picker.hatch ≠ .opened then r.beginAudit else r
      (r.push .restores).push .startup
    else r
  | .audit =>
    if r.startup.auditDone then
      (Run.push { r with startup := { r.startup with stage := .done } } .startup).push .arm
    else r
  | .done =>
    if r.startup.initNext = none ∧ !r.startup.started ∧ (r.startup.cause = .powerUp ∨ r.startup.settleReported) then
      r.takeStarted
    else r

end Sys2Proof.Machine
end

