-- ==== Sys2Proof/Machine/Settle.lean ====
section
/-! DEFINITION. Settle.lean: the consequences of a command are taken one after another until none is left,
and then a dispatch pass runs if one is wanted (log entries 8 and 9). -/

namespace Sys2Proof.Machine

open Sys2Proof.Config

/-- One consequence is taken. -/
def Run.consequence (r : Run) : Todo → Run
  | .service => r.service
  | .arm => r.armStep
  | .orderEnded o code serial cell => r.orderEnded o code serial cell
  | .drive d => r.driveStep d
  | .driveReady d => r.driveReady d
  | .driveFault d timeout => r.driveFault d timeout
  | .volumeGone serial => r.volumeGone serial
  | .fillFail frame code => r.fillFails frame code
  | .fetchEnd job => r.fetchEnds job
  | .safePoint job => r.safePoint job
  | .pump => r.pump
  | .placeTasks d => r.placeTasks d
  | .depart d => r.depart d
  | .loadReport d => r.loadReport d
  | .burnFails job code => r.burnFails job code
  | .hatch => r.hatchStep
  | .audit => r.auditStep
  | .startup => r.startupStep
  | .restores => r.restoreStep
  | .closes => r.closeStep
  | .exportAct job =>
    if (r.jobAt job).isSome ∧ !r.exportPlaced job then (r.exportAct job).enqueueByAge job |>.wantPass else r
  | .present => r.presentNext

/-- The consequences listed are taken, first in first out; when none is left, a dispatch pass runs if one is
wanted. -/
def Run.settle : Nat → Run → Run
  | 0, r => r
  | n + 1, r =>
    match r.todo with
    | t :: ts => Run.settle n (Run.consequence { r with todo := ts } t)
    | [] => if r.pass then Run.settle n (Run.dispatch { r with pass := false }) else r

/-- A command's effect on the blocks: its own change, then everything that follows from it. -/
def State.act (s : State) (f : Run → Run) : State := s.withRun (Run.settle fuel (f (Run.of s)))

end Sys2Proof.Machine
end

