-- ==== Sys2Proof/Machine/Accept.lean ====
section
/-! DEFINITION. Accept.lean: the acceptance of a request (R50 to R53) and the validation of each of the
eighteen kinds, with the immediate kinds carried out. -/

namespace Sys2Proof.Machine

open Sys2Proof.Config

/-! ### The three outcomes of a validation -/

/-- A queued request passes: its slot is ACCEPTED with its job (R52). -/
def Run.accepted (r : Run) (slot job : Nat) : Run :=
  r.modSlot slot (fun x => { x with state := .accepted, jobRef := some (.job job) })

/-- An immediate request passes: its slot is ACTIVE (R53). -/
def Run.begun (r : Run) (slot : Nat) : Run :=
  r.modSlot slot (fun x => { x with state := .active, jobRef := some .operation })

/-- A request fails its validation (R51). -/
def Run.rejected (r : Run) (slot : Nat) (code : Code) : Run := r.endFailed slot code 0

/-! ### Queued kinds -/

/-- The checks of R118, in one: every one of them fails with BAD_REQUEST. -/
def fetchGood (q : List Byte) : Bool :=
  decide (1 ≤ byteAt q 21) && decide (byteAt q 21 ≤ 16) && (sideOf (byteAt q 20)).isSome &&
  (fetchSectors q).all (fun s => decide (1 ≤ s) && decide (s ≤ 524286)) && noRepeats (fetchSectors q) &&
  word q 16 != 0 && decide (byteAt q 22 ≤ 2) && (fetchSpecs q).isSome &&
  ((fetchSpecs q).getD []).all (fun s => s.kind != .statutory || reqLevel q == 0)

/-- A new page entry (R120). -/
def PageEntry.fresh (l : Location) : PageEntry :=
  { requested := l, candidates := [], way := none, chosen := none, share := none, frame := none,
    refused := false, code := none }

/-- FETCH (R118 to R120). -/
def Run.acceptFetch (r : Run) (slot age : Nat) (q : List Byte) : Run :=
  if !fetchGood q then r.rejected slot .badRequest
  else
    let serial := word q 16
    let side := (sideOf (byteAt q 20)).getD .a
    let specs := (fetchSpecs q).getD []
    match r.locOf serial with
    | none => r.rejected slot .volumeUnknown
    | some .missing => r.rejected slot .volumeMissing
    | some _ =>
      match r.setAside slot (byteAt q 21) specs with
      | none => r.rejected slot .grantsFull
      | some r =>
        if specs.all (fun s => (r.account s.account).isOpen) then
          let (id, r) := r.createJob .fetch (reqLevel q) age (some slot)
          let f : FetchJob :=
            { job := id, slot := slot, serial := serial, side := side, specs := specs, resolved := false,
              pages := (fetchSectors q).map (fun s => PageEntry.fresh { serial := serial, side := side, sector := s }) }
          Run.accepted { r with retr := { r.retr with fetches := r.retr.fetches ++ [f] } } slot id
        else (r.giveBack (fun g => g.slot == slot)).rejected slot .accountClosed

/-- The checks of FILE that fail with BAD_REQUEST (R141). -/
def Run.fileGood (r : Run) (q : List Byte) : Bool :=
  decide (1 ≤ byteAt q 17) && decide (byteAt q 17 ≤ 16) && decide (byteAt q 16 ≤ 15) &&
  (filePages q).all (fun p => r.isImageFrame p.1) && noRepeats ((filePages q).map (fun p => p.1)) &&
  (filePages q).all (fun p => decide (1 ≤ p.2) && decide (p.2 ≤ 131072))

/-- A frame becomes FILING at the acceptance of its FILE (R17). -/
def Run.toFiling (r : Run) (slot deedClass deedSeq index frame imageLen : Nat) : Run :=
  match r.frameAt frame with
  | .scan owner =>
    r.setFrame frame (.filing none
      { deedClass := deedClass, deedSeq := deedSeq, pageIndex := index, imageLen := imageLen } owner [.slot slot])
  | _ => r

/-- FILE (R141, R142). -/
def Run.acceptFile (r : Run) (slot age : Nat) (q : List Byte) : Run :=
  let pages := filePages q
  if !r.fileGood q then r.rejected slot .badRequest
  else if !(pages.all (fun p => (r.frameAt p.1).isScan)) then r.rejected slot .badFrame
  else if r.store.deedSeq = 0 then r.rejected slot .sequenceUnset
  else
    let seq := r.store.deedSeq
    let r : Run := { r with store := { r.store with deedSeq := (seq + 1) % 4294967296 } }
    let r := (List.range pages.length).foldl (fun r i =>
      match pages[i]? with
      | some p => r.toFiling slot (byteAt q 16) seq i p.1 p.2
      | none => r) r
    let (id, r) := r.createJob .file (reqLevel q) age (some slot)
    let b : BurnJob :=
      { job := id, slot := some slot, entry := none, deedClass := byteAt q 16, deedSeq := seq, pageIndex := 0,
        stamp := (q.drop 24).take 8, origin := none,
        pages := pages.map (fun p => { frame := p.1, imageLen := p.2, attempts := 0, placed := none }),
        waiting := (List.range pages.length).map Item.page, failing := none }
    Run.accepted { r with filing := { r.filing with burns := r.filing.burns ++ [b] } } slot id

/-- IMPORT (R76). -/
def Run.acceptImport (r : Run) (slot age : Nat) (q : List Byte) : Run :=
  let c := byteAt q 16
  if 1 < c ∨ !r.cellOccupied (88 + c) then r.rejected slot .badRequest
  else
    let x := r.createJob (.importIn c) 3 age (some slot)
    x.2.accepted slot x.1

/-- EXPORT (R77). -/
def Run.acceptExport (r : Run) (slot age : Nat) (q : List Byte) : Run :=
  let serial := word q 16
  if serial = 0 then r.rejected slot .badRequest
  else
    match r.locOf serial with
    | none => r.rejected slot .volumeUnknown
    | some .missing => r.rejected slot .volumeMissing
    | some _ =>
      if r.store.pair.claims serial then r.rejected slot .roleActive
      else
        let x := r.createJob (.exportOut serial) 3 age (some slot)
        x.2.accepted slot x.1

/-! ### Immediate kinds -/

/-- The master may own a scan frame: its class is SCANNER or PROCESSOR (R138). -/
def Settings.mayScan (c : Settings) (master : Nat) : Bool :=
  decide (master ≤ 15) && ((c.agent master).cls == .scanner || (c.agent master).cls == .processor)

/-- OPEN SCAN (R138, R16). -/
def Run.openScan (r : Run) (slot : Nat) (q : List Byte) : Run :=
  let owner := byteAt q 16
  let n := byteAt q 17
  if !r.settings.mayScan owner ∨ n < 1 ∨ 16 < n then r.rejected slot .badRequest
  else if !r.frame.waitQueue.isEmpty then r.rejected slot .noFrames
  else
    match r.allocate n with
    | none => r.rejected slot .noFrames
    | some (frames, r) =>
      let r := frames.foldl (fun r f => r.setFrame f (.scan owner)) r
      (r.begun slot).endDone slot n [(256, padTo 32 (frames.flatMap (leBytes 2)))]

/-- DISCARD SCAN (R139, R16). -/
def Run.discardScan (r : Run) (slot : Nat) (q : List Byte) : Run :=
  let n := byteAt q 16
  let frames := discardFrames q
  if n < 1 ∨ 16 < n ∨ !(frames.all r.isImageFrame) ∨ !noRepeats frames then r.rejected slot .badRequest
  else if !(frames.all (fun f => (r.frameAt f).isScan)) then r.rejected slot .badFrame
  else ((frames.foldl Run.emptyFrame r).begun slot).endDone slot n []

/-- OPEN ACCOUNT (R185). -/
def Run.openAccount (r : Run) (slot : Nat) (q : List Byte) : Run :=
  let n := byteAt q 16
  if 127 < n then r.rejected slot .badRequest
  else if (r.account n).isOpen then r.rejected slot .alreadyOpen
  else ((r.modAccount n (fun _ => { Account.closed with isOpen := true })).begun slot).endDone slot 1 []

/-- CLOSE ACCOUNT (R186). -/
def Run.closeAccount (r : Run) (slot : Nat) (q : List Byte) : Run :=
  let n := byteAt q 16
  if 127 < n then r.rejected slot .badRequest
  else if !(r.account n).isOpen then r.rejected slot .accountClosed
  else if r.fee.accountCount n ≠ 0 then r.rejected slot .accountBusy
  else if (r.account n).total ≠ 0 then r.rejected slot .unsettled
  else ((r.modAccount n (fun a => { a with isOpen := false })).begun slot).endDone slot 1 []

/-- SET FEES (R172). -/
def Run.setFees (r : Run) (slot : Nat) (q : List Byte) : Run :=
  (Run.begun { r with fee := { r.fee with fees := feesAt q 16 } } slot).endDone slot 1 []

/-- The checks of a request that names a SCAN frame (R69, R169, R187, R195): `none` when it passes. -/
def Run.scanTarget (r : Run) (q : List Byte) : Option Code :=
  if !r.isImageFrame (half q 16) then some .badRequest
  else if !(r.frameAt (half q 16)).isScan then some .badFrame
  else none

/-- A new statement operation. -/
def Statement.fresh (slot : Nat) (q : List Byte) (clear : Bool) : Statement :=
  { slot := slot, frame := half q 16, clear := clear, next := 0, piece := 0, taken := [] }

/-- ACCOUNT STATEMENT (R187). -/
def Run.accountStatement (r : Run) (slot : Nat) (q : List Byte) : Run :=
  match r.scanTarget q with
  | some c => r.rejected slot c
  | none =>
    Run.begun { r with stmts := { r.stmts with account := r.stmts.account ++ [Statement.fresh slot q (reqClear q)] } } slot

/-- LOG STATEMENT (R169). -/
def Run.logStatement (r : Run) (slot : Nat) (q : List Byte) : Run :=
  match r.scanTarget q with
  | some c => r.rejected slot c
  | none => Run.begun { r with stmts := { r.stmts with log := r.stmts.log ++ [Statement.fresh slot q false] } } slot

/-- INVENTORY STATEMENT (R69). -/
def Run.inventoryStatement (r : Run) (slot : Nat) (q : List Byte) : Run :=
  match r.scanTarget q with
  | some c => r.rejected slot c
  | none => Run.begun { r with stmts := { r.stmts with inventory := r.stmts.inventory ++ [Statement.fresh slot q false] } } slot

/-- ACKNOWLEDGE RELOCATION (R164). -/
def Run.ackRelocation (r : Run) (slot : Nat) (q : List Byte) : Run :=
  let l := locationAt q 16
  if l.serial = 0 ∨ l.sector < 1 ∨ 524286 < l.sector then r.rejected slot .badRequest
  else
    let found := (List.range r.store.relocs.length).find? (fun i =>
      match r.store.relocs.getD i .free with
      | .awaitingAck o _ => o == l
      | .free => false
      | .reserved _ => false)
    match found, r.store.redirect l with
    | some i, some n => ((r.setReloc i .free).begun slot).endDone slot 1 [(256, locBytes n)]
    | _, _ => r.rejected slot .badRequest

/-- RESTORE DRIVE (R98). -/
def Run.restoreDrive (r : Run) (slot : Nat) (q : List Byte) : Run :=
  if 3 < byteAt q 16 then r.rejected slot .badRequest
  else
    let x : RestoreOp := { slot := slot, drive := byteAt q 16, phase := .waiting }
    (Run.begun { r with restores := r.restores ++ [x] } slot).push .restores

/-- CLOSE FILING PAIR (R150). -/
def Run.closeFilingPair (r : Run) (slot : Nat) : Run :=
  (Run.begun { r with filing := { r.filing with closeOps := r.filing.closeOps ++ [slot] } } slot).push .closes

/-- SET DEED SEQUENCE (R140). -/
def Run.setDeedSequence (r : Run) (slot : Nat) (q : List Byte) : Run :=
  if word q 16 = 0 ∨ r.sched.jobs.any (fun j => j.kind == .file) then r.rejected slot .badRequest
  else
    (Run.begun { r with store := { r.store with deedSeq := word q 16 } } slot).endDone slot 1
      [(256, leBytes 4 r.store.deedSeq)]

/-- WRITE SETTINGS (R195). -/
def Run.writeSettings (r : Run) (slot : Nat) (q : List Byte) : Run :=
  match r.scanTarget q with
  | some c => r.rejected slot c
  | none =>
    let x : SettingsOp := { slot := slot, frame := half q 16, got := [], writing := false }
    Run.begun { r with startup := { r.startup with settingsOps := r.startup.settingsOps ++ [x] } } slot

/-! ### Validation (R51) -/

/-- The level of a queued kind lies outside the levels it takes (R51). -/
def badLevel (k : Kind) (level : Nat) : Bool :=
  match k with
  | .fetch => decide (3 < level)
  | .file => decide (level < 1) || decide (3 < level)
  | .importVol => decide (level ≠ 3)
  | .exportVol => decide (level ≠ 3)
  | _ => false

/-- A request that passed the common checks goes to the block that carries it out (R51). -/
def Run.carryOut (r : Run) (k : Kind) (slot age : Nat) (q : List Byte) : Run :=
  match k with
  | .fetch => r.acceptFetch slot age q
  | .file => r.acceptFile slot age q
  | .importVol => r.acceptImport slot age q
  | .exportVol => r.acceptExport slot age q
  | .openScan => r.openScan slot q
  | .discardScan => r.discardScan slot q
  | .openHatch => (r.begun slot).openHatch slot
  | .openAccount => r.openAccount slot q
  | .closeAccount => r.closeAccount slot q
  | .accountStatement => r.accountStatement slot q
  | .setFees => r.setFees slot q
  | .logStatement => r.logStatement slot q
  | .inventoryStatement => r.inventoryStatement slot q
  | .ackRelocation => r.ackRelocation slot q
  | .restoreDrive => r.restoreDrive slot q
  | .closePair => r.closeFilingPair slot
  | .setDeedSequence => r.setDeedSequence slot q
  | .writeSettings => r.writeSettings slot q

/-- A POSTED request read without fault takes the next acceptance number and is validated (R50, R51). -/
def Run.validate (r : Run) (slot : Nat) (q : List Byte) : Run :=
  let age := r.takeAge.1
  let r := r.takeAge.2
  let r := r.modSlot slot (fun x => { x with kind := reqKind q, notify := some (reqNotify q), age := some age })
  match reqKind q with
  | none => r.rejected slot .badRequest
  | some k => if badLevel k (reqLevel q) then r.rejected slot .badRequest else r.carryOut k slot age q

/-- The acceptance read of a slot has completed (R50): a parity fault on any of its sixteen reads fails the
request, otherwise it is validated. -/
def Run.acceptSlot (r : Run) (slot : Nat) (q : List Byte) (faulted kindFault : Bool) : Run :=
  if faulted then
    let r := r.modSlot slot (fun x =>
      { x with kind := if kindFault then none else reqKind q,
               notify := if kindFault then none else some (reqNotify q) })
    r.rejected slot .memoryParity
  else r.validate slot q

end Sys2Proof.Machine
end

