-- ==== Sys2Proof/Machine/Bus.lean ====
section
/-! DEFINITION. Bus.lean: system-side transfers (R21 to R35): the regions of frame 0 and the treatment of
each word, the slot protocol (R43 to R48), the consumer index (R59), the judgement of a transfer to an image
frame (R29 to R32), and what the arrival of a transfer does. -/

namespace Sys2Proof

/-! ### The words of a transfer (R24) -/

/-- The addresses of a transfer's words, ascending. -/
def Transfer.words (t : Transfer) : List Nat := (List.range (t.len / 4)).map (fun i => t.addr + 4 * i)

/-- The bytes that a write carries for one of its words. -/
def Transfer.wordBytes (t : Transfer) (a : Nat) : List Byte := (t.data.drop (a - t.addr)).take 4

/-- The value that a write carries for one of its words. -/
def Transfer.wordValue (t : Transfer) (a : Nat) : Nat := Machine.fromLe (t.wordBytes a)

/-- The frame of a transfer. -/
def Transfer.frame (t : Transfer) : Nat := t.addr / Config.frameBytes

/-- The offset of a transfer within its frame. -/
def Transfer.offset (t : Transfer) : Nat := t.addr % Config.frameBytes

end Sys2Proof

namespace Sys2Proof.Machine

open Sys2Proof.Config

/-! ### Regions of frame 0 (R24) -/

/-- What a word of frame 0 is.  The start-up record, the notice ring and the unassigned ranges are treated
alike (R26) and are one region here. -/
inductive Region
  | plain
  | producerWord
  | consumerWord
  | lostWord
  | fourthWord
  | stateWord (slot : Nat)
  | claimWord (slot : Nat)
  | slotField (slot : Nat)
  | scratch
deriving DecidableEq, Repr

/-- The region of a word of frame 0, by its address (R24). -/
def regionOf (a : Nat) : Region :=
  if a = 256 then .producerWord
  else if a = 260 then .consumerWord
  else if a = 264 then .lostWord
  else if a = 268 then .fourthWord
  else if a < 4096 then .plain
  else if a < 36864 then
    let s := (a - 4096) / 512
    if (a - 4096) % 512 = 0 then .stateWord s
    else if (a - 4096) % 512 = 4 then .claimWord s
    else .slotField s
  else .scratch

/-! ### The slot protocol (R43 to R48) -/

/-- A claim read of a slot's claim word by a PROCESSOR (R43): 0 granted, 1 refused. -/
def Run.claimSlot (r : Run) (master slot : Nat) : Nat × Run :=
  if (r.slotAt slot).state = .free then
    (0, r.modSlot slot (fun x => { x with state := .claimed, claimer := some master }))
  else (1, r)

/-- A post is taken (R44): the slot is POSTED and its acceptance joins the work list. -/
def Run.postSlot (r : Run) (slot : Nat) : Run :=
  let r := r.modSlot slot (fun x => { x with state := .posted })
  { r with slot := { r.slot with work := r.slot.work ++ [.acceptance slot] } }

/-- A claim is released (R45). -/
def Run.releaseClaimed (r : Run) (slot : Nat) : Run := r.modSlot slot (fun _ => SlotRec.blank)

/-- An ended request's slot is released (R46): in one claim its holds are dropped, the frame-wait queue is served and the
slot becomes FREE; after the claim the grants it still owns are withdrawn. -/
def Run.releaseEnded (r : Run) (slot : Nat) : Run :=
  ((r.releaseHolds slot).modSlot slot (fun _ => SlotRec.blank)).withdraw (fun g => g.slot == slot)

/-- A cancel is taken (R47): the slot is CANCELLING, and the job that carries the request out, if any is still
named, is told.  An operation of an immediate request is not stopped (R55). -/
def Run.cancelSlot (r : Run) (slot : Nat) : Run :=
  let who := (r.slotAt slot).jobRef
  let r := r.modSlot slot (fun x => { x with state := .cancelling })
  match who with
  | some (.job id) => r.cancelJob id
  | some .operation => r
  | none => r

/-- How the Slot Unit finds the write of a word handed to it. -/
inductive Verdict
  | taken | refused | late
deriving DecidableEq, Repr

/-- The Slot Unit judges and takes a PROCESSOR's write of a state word, by the table of R48. -/
def Run.writeState (r : Run) (master slot value : Nat) : Verdict × Run :=
  let x := r.slotAt slot
  let running : Verdict × Run := if value = cancelValue then (.taken, r.cancelSlot slot) else (.refused, r)
  let ended : Verdict × Run :=
    if value = freeValue then (.taken, r.releaseEnded slot)
    else if value = cancelValue then (.late, r)
    else (.refused, r)
  match x.state with
  | .free => (.refused, r)
  | .claimed =>
    if x.claimer = some master then
      if value = postedValue then (.taken, r.postSlot slot)
      else if value = freeValue then (.taken, r.releaseClaimed slot)
      else (.refused, r)
    else (.refused, r)
  | .posted => (.refused, r)
  | .accepted => running
  | .active => running
  | .cancelling => (.refused, r)
  | .done => ended
  | .failed => ended

/-- A consumer index value that does not pass the producer index (R59). -/
def SlotUnit.consumerFits (u : SlotUnit) (value : Nat) : Bool :=
  decide (value ≤ 63) && decide ((value + 64 - u.consumer) % 64 ≤ u.unread)

/-- The Slot Unit judges and takes a PROCESSOR's write of the consumer index word (R59, R60). -/
def Run.writeConsumer (r : Run) (value : Nat) : Verdict × Run :=
  if r.slot.consumerFits value then
    (.taken, { r with slot := ({ r.slot with consumer := value } : SlotUnit).lineFollows })
  else (.refused, r)

/-! ### Words of a transfer to frame 0 (R26, R27) -/

/-- The treatment of a word that is read: passed to memory, answered with a value, or answered by a claim. -/
inductive ReadWord
  | pass
  | value (n : Nat)
  | claim (slot : Nat)
deriving DecidableEq, Repr

/-- The treatment of a word that is written: passed, withheld, or handed to the Slot Unit. -/
inductive WriteWord
  | pass
  | withhold (reason : Reason)
  | state (slot : Nat)
  | consumer
deriving DecidableEq, Repr

/-- A word read from frame 0 by a PROCESSOR (R26) or a SCANNER (R27). -/
def Run.readWord (r : Run) (processor : Bool) (a : Nat) : ReadWord :=
  match regionOf a with
  | .plain => .pass
  | .producerWord => .value r.slot.producer
  | .consumerWord => .value r.slot.consumer
  | .lostWord => .value r.slot.lost
  | .fourthWord => .value 0
  | .stateWord s => .value (r.slotAt s).state.value
  | .claimWord s => if processor then .claim s else .value 1
  | .slotField _ => .pass
  | .scratch => .pass

/-- A word written to frame 0 by a PROCESSOR (R26) or a SCANNER (R27). -/
def Run.writeWord (r : Run) (processor : Bool) (master a : Nat) : WriteWord :=
  match regionOf a with
  | .plain => .withhold .classRegion
  | .producerWord => .withhold .classRegion
  | .consumerWord => if processor then .consumer else .withhold .classRegion
  | .lostWord => .withhold .classRegion
  | .fourthWord => .withhold .classRegion
  | .stateWord s => if processor then .state s else .withhold .classRegion
  | .claimWord _ => .withhold .slotProtocol
  | .slotField s =>
    if processor then
      (if (r.slotAt s).state = .claimed ∧ (r.slotAt s).claimer = some master then .pass else .withhold .slotProtocol)
    else .withhold .classRegion
  | .scratch => .pass

/-- The master acts as a PROCESSOR in frame 0. -/
def Run.isProcessor (r : Run) (master : Nat) : Bool := (r.settings.agent master).cls == .processor

/-- The words of a transfer to frame 0 that pass to memory. -/
def Run.passedWords (r : Run) (t : Transfer) : List Nat :=
  let p := r.isProcessor t.master
  t.words.filter (fun a =>
    if t.write then r.writeWord p t.master a == .pass else r.readWord p a == .pass)

/-- The answer of one word of a read that memory has not faulted, where the claim in the read was answered with
`claim` (R28). -/
def Run.wordAnswer (r : Run) (processor : Bool) (mem : Memory) (claim : Nat) (a : Nat) : List Byte :=
  match r.readWord processor a with
  | .pass => mem.readBytes a 4
  | .value n => leBytes 4 n
  | .claim _ => leBytes 4 claim

/-- The claim in a read is made, if it covers a claim word (R28): its answer, and the Slot Unit after it. -/
def Run.makeClaim (r : Run) (t : Transfer) : Nat × Run :=
  match t.words.findSome? (fun a =>
    match r.readWord (r.isProcessor t.master) a with
    | .pass => none
    | .value _ => none
    | .claim s => some s) with
  | some s => r.claimSlot t.master s
  | none => (1, r)

/-- Give an answer on the bus. -/
def Run.answer (r : Run) (master : Nat) (x : BusAnswer) : Run :=
  { r with path := { r.path with answer := some (master, x) } }

/-- A read of frame 0 is answered word by word, after the claim in it is made (R28, log entry 44). -/
def Run.composeRead (r : Run) (t : Transfer) (mem : Memory) : Run :=
  let p := r.isProcessor t.master
  let x := r.makeClaim t
  x.2.answer t.master (.data (t.words.flatMap (fun a => x.2.wordAnswer p mem x.1 a)))

/-- What one word of a write does in the Slot Unit, and the violation it makes, if any.  Its treatment was
judged before the write. -/
def Run.takeWord (r : Run) (master a value : Nat) (w : WriteWord) : Option (Nat × Reason) × Run :=
  match w with
  | .pass => (none, r)
  | .withhold x => (some (a, x), r)
  | .state s =>
    let v := r.writeState master s value
    (if v.1 = .refused then some (a, .slotProtocol) else none, v.2)
  | .consumer =>
    let v := r.writeConsumer value
    (if v.1 = .refused then some (a, .ringIndex) else none, v.2)

/-- A write of frame 0, its passed words being in memory: the Slot Unit takes its word, one violation is
counted for the lowest word withheld or refused, and the write is answered (R28, R34).  A cancel that came too late is no
such word, and one that is counts beside it (log entry 99). -/
def Run.composeWrite (r : Run) (t : Transfer) : Run :=
  let p := r.isProcessor t.master
  let judged := t.words.map (fun a => (a, r.writeWord p t.master a))
  let x := judged.foldl (fun (x : Option (Nat × Reason) × Run) aw =>
    let y := x.2.takeWord t.master aw.1 (t.wordValue aw.1) aw.2
    (x.1.orElse (fun _ => y.1), y.2)) (none, r)
  let r := match x.1 with
    | some (a, why) => x.2.violation t.master a why
    | none => x.2
  r.answer t.master .written

/-! ### Image frames (R29 to R32) -/

/-- The judgement of a transfer to an image frame. -/
inductive Judgement
  | pass
  | retry
  | voided
  | withheld (reason : Reason)
deriving DecidableEq, Repr

/-- A PROCESSOR or SCANNER transfer to an image frame (R30, R31). -/
def judgeSystem (processor : Bool) (t : Transfer) : Frame → Judgement
  | .empty => if !t.write || processor then .pass else .withheld .frameState
  | .scan owner => if !t.write || processor || owner == t.master then .pass else .withheld .scanOwner
  | .filling _ _ _ mark _ _ _ =>
    if t.write then .withheld .frameState else if t.offset + t.len ≤ mark then .pass else .retry
  | .sealed _ _ _ _ _ => if t.write then .withheld .frameState else .pass
  | .filing _ _ _ _ => if t.write then .withheld .frameState else .pass

/-- A read reaches the fill mark of a FILLING frame (R32). -/
def Frame.beyondMark (f : Frame) (t : Transfer) : Bool :=
  match f with
  | .empty => false
  | .filling _ _ _ mark _ _ _ => decide (mark < t.offset + t.len)
  | .sealed _ _ _ _ _ => false
  | .scan _ => false
  | .filing _ _ _ _ => false

/-- A COPIER transfer to an image frame: writes are withheld, and reads are decided with the Fee Meter, which
moves the port's sweep cursor in the same step (R30, R31, R32). -/
def Run.judgeCopier (r : Run) (port : Nat) (t : Transfer) : Judgement × Run :=
  if t.write then (.withheld .classRegion, r)
  else if (r.frameAt t.frame).beyondMark t then
    if r.fee.holds port t.frame then (.retry, r)
    else (.voided, (r.offer port t.frame t.offset t.len).2)
  else
    let x := r.offer port t.frame t.offset t.len
    (if x.1 then .pass else .voided, x.2)

/-- The judgement of a transfer to an image frame at its grant (R29), by the class of its master. -/
def Run.judgeFrame (r : Run) (t : Transfer) : Judgement × Run :=
  match r.settings.agent t.master with
  | .processor => (judgeSystem true t (r.frameAt t.frame), r)
  | .scanner _ => (judgeSystem false t (r.frameAt t.frame), r)
  | .copier p => r.judgeCopier p t
  | .unlisted => (if t.write then .withheld .classRegion else .voided, r)

/-- A transfer is answered without any memory access. -/
def Run.answerJudged (r : Run) (t : Transfer) (j : Judgement) : Run :=
  match j with
  | .pass => r
  | .retry => r.answer t.master .retry
  | .voided => r.answer t.master (.data (List.replicate t.len r.settings.voidByte))
  | .withheld why => (r.violation t.master t.addr why).answer t.master .written

/-! ### The arrival of a transfer (R22 to R29) -/

/-- The system bus carries no transfer: none waits, and none holds the port with an answer owed (R37). -/
def PathUnit.busFree (p : PathUnit) : Bool :=
  p.waiting.isNone &&
    (match p.port with
     | .free => true
     | .system _ answered => !answered
     | .mover _ _ => true)

/-- A transfer waits for the memory-side port. -/
def Run.wait (r : Run) (t : Transfer) : Run := { r with path := { r.path with waiting := some t } }

/-- Document memory's configured size (R24). -/
def Settings.memBytes (c : Settings) : Nat := if c.mem64 then 67108864 else 33554432

/-- A transfer to frame 0 in service: COPIER and UNLISTED by class alone (R25), PROCESSOR and SCANNER word by
word, waiting for the port when some word passes to memory (R26 to R28). -/
def Run.arriveControl (r : Run) (t : Transfer) : Run :=
  let words := if (r.passedWords t).isEmpty then (if t.write then r.composeWrite t else r.composeRead t Memory.blank)
    else r.wait t
  match r.settings.agent t.master with
  | .processor => words
  | .scanner _ => words
  | .copier _ => r.answerJudged t (if t.write then .withheld .classRegion else .voided)
  | .unlisted => r.answerJudged t (if t.write then .withheld .classRegion else .voided)

/-- A transfer to an image frame or beyond the configured size (R24, R25, R29). -/
def Run.arriveImage (r : Run) (t : Transfer) : Run :=
  if r.settings.memBytes ≤ t.addr then r.answerJudged t (if t.write then .withheld .addressRange else .voided)
  else
    match r.settings.agent t.master with
    | .processor => r.wait t
    | .scanner _ => r.wait t
    | .copier _ => r.wait t
    | .unlisted => r.answerJudged t (if t.write then .withheld .classRegion else .voided)

/-- A transfer arrives on a free system bus: it is retried out of service (R23), waits to pass unchanged in
the failed-check mode, and is otherwise judged by its region. -/
def Run.arrive (r : Run) (t : Transfer) : Run :=
  if r.startup.stage = .failed then r.wait t
  else if t.addr < frameBytes then
    if r.startup.inService then r.arriveControl t else r.answer t.master .retry
  else if r.startup.framesOpen then r.arriveImage t
  else r.answer t.master .retry

/-- A transfer on the system bus is an event of the part: main power is on and the bus is free.  Otherwise it is
no event, and nothing changes (log entries 2 and 16). -/
def State.busTransfer (s : State) (t : Transfer) : State :=
  if s.startup.stage ≠ .off ∧ s.path.busFree then s.act (fun r => r.arrive t) else s

/-- The 4-byte read of a word of frame 0. -/
def readOf (master addr : Nat) : Transfer := { master := master, write := false, addr := addr, len := 4, data := [] }

/-- The 4-byte write of a word of frame 0. -/
def writeOf (master addr value : Nat) : Transfer :=
  { master := master, write := true, addr := addr, len := 4, data := leBytes 4 value }

end Sys2Proof.Machine
end

