-- ==== Sys2Proof/Machine/Port.lean ====
section
/-! DEFINITION. Port.lean: the memory-side port (R36 to R40): what each internal mover presents, the grant of
the arbiter, and the completion of every kind of access: system transfers (R28, R33), streams (R12, R88), the
Slot Unit's work (R49 to R57), the statements (R69, R169, R187), the start-up writes (R192) and WRITE SETTINGS
(R195). -/

namespace Sys2Proof.Machine

open Sys2Proof.Config

/-! ### What the movers present (R39) -/

/-- A WRITE SETTINGS operation reads its record (R195): the first in hand, while no write is being made. -/
def Run.readsSettings (r : Run) : Bool :=
  match r.startup.settingsOps with
  | [] => false
  | x :: _ => !x.writing && r.startup.configWriting.isNone

/-- The summary of the INVENTORY STATEMENT in hand is being written: its inquiry has been answered, and writes of it are
still to come (R69). -/
def Run.summaryOpen (r : Run) : Bool :=
  match r.stmts.inventory with
  | [] => false
  | x :: _ => x.piece != 0

/-- The Slot Unit's next transfer is the last read of an acceptance, whose completion takes the request (R50). -/
def SlotUnit.acceptsNext (u : SlotUnit) : Bool :=
  match u.work with
  | .acceptance _ :: _ => decide (16 ≤ u.workDone + 1)
  | _ => false

/-- The Slot Unit presents its work, but not the read that would take a request while the inventory summary is open: a claim
on the frame is taken before its inquiry or after its writes (R29, R69, log entry 64). -/
def Run.presentsSlotWork (r : Run) : Bool :=
  !r.slot.work.isEmpty && !(r.slot.acceptsNext && r.summaryOpen)

/-- The transfer that a mover presents to the arbiter, if any. -/
def Run.presents (r : Run) (m : Mover) : Option Purpose :=
  match m with
  | .frameMover => r.mover.presented.map Purpose.stream
  | .slotUnit => if r.presentsSlotWork then some .slotWork else none
  | .feeMeter => if r.stmts.account.isEmpty then none else some .accountRecord
  | .mediaCheck => if r.stmts.log.isEmpty then none else some .logRecord
  | .inventory => if r.stmts.inventory.isEmpty then none else some .inventoryRecord
  | .startUp => if r.startup.initNext.isSome then some .startWrite else if r.readsSettings then some .settingsRead else none

/-- The mover after one in the cycle (R39). -/
def Mover.after : Mover → Mover
  | .frameMover => .slotUnit
  | .slotUnit => .feeMeter
  | .feeMeter => .mediaCheck
  | .mediaCheck => .inventory
  | .inventory => .startUp
  | .startUp => .frameMover

/-- The cycle beginning at the turn pointer. -/
def Mover.cycle (m : Mover) : List Mover :=
  [m, m.after, m.after.after, m.after.after.after, m.after.after.after.after, m.after.after.after.after.after]

/-- The internal transfer that the arbiter would grant (R39). -/
def Run.internal (r : Run) : Option (Mover × Purpose) :=
  (r.path.turn.cycle.filterMap (fun m => (r.presents m).map (fun p => (m, p)))).head?

/-! ### The grant (R37 to R39) -/

/-- An internal transfer is granted: the turn pointer passes on and the fairness count is 0; one of the Frame Mover is
no longer presented, and it presents the next when this one has completed (R39, R88). -/
def Run.grantInternal (r : Run) (m : Mover) (p : Purpose) : Run :=
  let r : Run := { r with path := { r.path with port := .mover m p, turn := m.after, fairness := 0 } }
  match p with
  | .stream _ => { r with mover := { r.mover with presented := none } }
  | .slotWork => r
  | .accountRecord => r
  | .logRecord => r
  | .inventoryRecord => r
  | .startWrite => r
  | .settingsRead => r
  | .orphan _ => r

/-- The waiting system transfer uses the port; `waits` says whether an internal transfer waited at the grant (R38). -/
def Run.useSystem (r : Run) (t : Transfer) (waits : Bool) : Run :=
  { r with path := { r.path with port := .system t true, waiting := none,
                                 fairness := if waits then r.path.fairness + 1 else 0 } }

/-- The waiting system transfer is granted: one to an image frame is judged now, and returns the grant unused
when it does not pass (R29). -/
def Run.grantSystem (r : Run) (t : Transfer) : Run :=
  let waits := r.internal.isSome
  if r.startup.stage = .failed ∨ t.addr < frameBytes then r.useSystem t waits
  else
    let x := r.judgeFrame t
    if x.1 = .pass then x.2.useSystem t waits
    else Run.answerJudged { x.2 with path := { x.2.path with waiting := none } } t x.1

/-- The arbiter's decision on a free port with at least one transfer waiting (R37, R38). -/
def Run.grantPort (r : Run) : Run :=
  match r.path.waiting, r.internal with
  | none, none => r
  | some t, none => r.grantSystem t
  | none, some (m, p) => r.grantInternal m p
  | some t, some (m, p) => if r.path.fairness < 8 then r.grantSystem t else r.grantInternal m p

/-! ### Memory under an access -/

/-- The port becomes free (R37). -/
def State.freePort (s : State) : State := { s with path := { s.path with port := .free } }

/-- An internal write reaches memory. -/
def State.writeMem (s : State) (w : MemWrite) : State := { s with mem := s.mem.write w.addr w.bytes }

/-- Memory reports faults on a range that is read (R33). -/
def State.learn (s : State) (a n : Nat) (bad : List Nat) : State := { s with mem := s.mem.learnFaults a n bad }

/-! ### System transfers completing (R28, R33) -/

/-- The passed words of a write reach memory, each whole. -/
def writeWords (t : Transfer) (m : Memory) (words : List Nat) : Memory :=
  words.foldl (fun m a => m.write a (t.wordBytes a)) m

/-- A COPIER read that memory faulted is reported to the Fee Meter (R183). -/
def Run.reportCopier (r : Run) (t : Transfer) : Run :=
  match r.settings.agent t.master with
  | .copier p => r.copierFault p t.frame t.offset t.len
  | .processor => r
  | .scanner _ => r
  | .unlisted => r

/-- A transfer that passed whole completes: an image frame's, or any in the failed-check mode. -/
def State.completeWhole (s : State) (t : Transfer) (answered : Bool) (bad : List Nat) : State :=
  if t.write then
    let s : State := { s with mem := s.mem.write t.addr t.data }
    s.act (fun r => if answered then r.answer t.master .written else r)
  else
    let s := s.learn t.addr t.len bad
    if s.mem.faults t.addr t.len then
      s.act (fun r =>
        let r := if s.startup.stage = .failed then r else r.reportCopier t
        if answered then r.answer t.master .dataFault else r)
    else
      let d := s.mem.readBytes t.addr t.len
      s.act (fun r => if answered then r.answer t.master (.data d) else r)

/-- A write whose answer a bus reset has taken away: it counts its one violation when some word of it is withheld, and
the Slot Unit, which the reset has cleared, takes none of its words (R23, R34, log entry 63). -/
def Run.composeUnanswered (r : Run) (t : Transfer) : Run :=
  let withheld := t.words.findSome? (fun a =>
    match r.writeWord (r.isProcessor t.master) t.master a with
    | .withhold why => some (a, why)
    | .pass => none
    | .state _ => none
    | .consumer => none)
  match withheld with
  | some (a, why) => r.violation t.master a why
  | none => r

/-- A transfer to frame 0 with words that pass completes and is composed (R28). -/
def State.completeControl (s : State) (t : Transfer) (answered : Bool) (bad : List Nat) : State :=
  let words := (Run.of s).passedWords t
  if t.write then
    let s : State := { s with mem := writeWords t s.mem words }
    s.act (fun r => if answered then r.composeWrite t else r.composeUnanswered t)
  else
    let s : State := words.foldl (fun s a => s.learn a 4 bad) s
    if words.any (fun a => s.mem.faults a 4) then s.act (fun r => if answered then r.answer t.master .dataFault else r)
    else s.act (fun r => if answered then r.composeRead t s.mem else r)

/-! ### Streams completing (R12, R88) -/

/-- The stream of a buffer has made one more transfer. -/
def Run.streamMoved (r : Run) (s : Stream) (bytes : List Byte) : Run :=
  let acc := s.acc ++ bytes
  (r.modStream s.idx (fun s => { s with done := s.done + 1, acc := acc, pos := 1 + acc.length / sectorBytes })).modBuf
    (s.idx / 2) (s.idx % 2) (fun b => { b with moved := acc.length / sectorBytes })

/-- A copy of an item in flight is loaded (R145). -/
def Run.copyLoaded (r : Run) (d item : Nat) : Run := r.copyResult d item .loaded

/-- The item that a buffer serves. -/
def Buffer.item (b : Buffer) : Option Nat :=
  match b.serves with
  | some (.item i) => some i
  | some (.task _) => none
  | none => none

/-- A loading stream has filled its last position: the buffer holds the page record, zero-filled beyond the image
end, and the Filing Unit is told (R88). -/
def Run.streamLoaded (r : Run) (s : Stream) : Run :=
  let d := s.idx / 2
  let b := s.idx % 2
  let len := (r.frameAt s.frame).imageLen
  let n := if s.frame = 0 then 0 else ceilDiv len sectorBytes
  let sectors := (List.range n).map (fun i =>
    ({ report := .clean, data := zeroBeyond len (sectorBytes * i) (s.acc.drop (sectorBytes * i)) } : SectorRead))
  let item := ((r.driveAt d).buf b).item
  let r := r.endStream s.idx
  let r := r.modBuf d b (fun x => { x with positions := x.positions.take 1 ++ sectors, moved := n })
  match item with
  | some i => r.copyLoaded d i
  | none => r

/-- A loading stream met a parity fault: it ends, its buffer becomes FREE, and the burn job fails with
MEMORY_PARITY (R88, R152). -/
def Run.streamFaulted (r : Run) (s : Stream) : Run :=
  let d := s.idx / 2
  let b := s.idx % 2
  let job := ((r.driveAt d).buf b).item.bind (fun i =>
    (r.filing.flight.find? (fun f => f.id == i)).bind (fun f => f.job))
  let r := r.freeBuffer d b
  match job with
  | some j => (r.burnFails j .memoryParity).push (.drive d)
  | none => r.push (.drive d)

/-- A transfer of a stream completes. -/
def State.completeStream (s : State) (idx : Nat) (bad : List Nat) : State :=
  match (Run.of s).streamAt idx with
  | none => s
  | some st =>
    if st.loading then
      let range := (Run.of s).streamRead st
      let s := s.learn range.1 range.2 bad
      if s.mem.faults range.1 range.2 then s.act (fun r => (r.streamFaulted st).push .present)
      else
        let bytes := s.mem.readBytes range.1 range.2
        s.act (fun r =>
          let r := (r.streamMoved st bytes).push .present
          if st.total ≤ st.done + 1 then
            (match r.streamAt idx with
             | some st => r.streamLoaded st
             | none => r)
          else r)
    else
      let s := s.writeMem ((Run.of s).streamWrite st)
      s.act (fun r =>
        let r := r.push .present
        if 32 ≤ st.done + 1 then r.placeSector st
        else r.modStream idx (fun x => { x with done := x.done + 1 }))

/-! ### The Slot Unit's work completing (R49 to R57) -/

/-- The head job of the work list is over. -/
def Run.workOver (r : Run) : Run :=
  { r with slot := { r.slot with work := r.slot.work.drop 1, workDone := 0, acceptData := [],
                                 acceptFault := false, acceptKindFault := false } }

/-- One more transfer of the head job has completed. -/
def Run.workGoesOn (r : Run) : Run := { r with slot := { r.slot with workDone := r.slot.workDone + 1 } }

/-- The last write of a result write-back has completed (R54): the slot is DONE or FAILED, and a SLOT_DONE notice
is taken if the notify flag is set. -/
def Run.writeBackOver (r : Run) (slot : Nat) : Run :=
  let r := r.workOver
  let x := r.slotAt slot
  match x.outcome with
  | none => r
  | some e =>
    let r := r.modSlot slot (fun x => { x with state := if e.done then .done else .failed })
    if x.notify = some true then r.notice (.slotDone slot x.kind e.done e.code e.count) else r

/-- The producer index passes the marked positions (R57). -/
def passMarked : List Bool → Nat → List Bool × Nat
  | [], p => ([], p)
  | false :: rest, p => (false :: rest, p)
  | true :: rest, p => passMarked rest ((p + 1) % 64)

/-- The record of a ring position is in memory: its mark is set, the producer index advances over marked
positions, and the notice line follows (R57, R60). -/
def SlotUnit.recordWritten (u : SlotUnit) (pos : Nat) : SlotUnit :=
  let x := passMarked (u.reserved.set ((pos + 64 - u.producer) % 64) true) u.producer
  SlotUnit.lineFollows { u with reserved := x.1, producer := x.2 }

/-- The notice record's write has completed. -/
def Run.noticeOver (r : Run) (pos : Nat) : Run :=
  let r := r.workOver
  { r with slot := r.slot.recordWritten pos }

/-- One acceptance read has completed with its bytes: the sixteenth ends the acceptance read (R50). -/
def Run.acceptRead (r : Run) (slot : Nat) (bytes : List Byte) (faulted kindFault : Bool) : Run :=
  let data := r.slot.acceptData ++ bytes
  let f := r.slot.acceptFault || faulted
  let k := r.slot.acceptKindFault || kindFault
  if 16 ≤ r.slot.workDone + 1 then r.workOver.acceptSlot slot data f k
  else Run.workGoesOn { r with slot := { r.slot with acceptData := data, acceptFault := f, acceptKindFault := k } }

/-- A transfer of the work list's head job completes. -/
def State.completeWork (s : State) (bad : List Nat) : State :=
  match s.slot.work with
  | [] => s
  | .acceptance slot :: _ =>
    let a := slotBase slot + 32 * s.slot.workDone
    let s := s.learn a 32 bad
    let bytes := s.mem.readBytes a 32
    s.act (fun r => r.acceptRead slot bytes (s.mem.faults a 32)
      (decide (s.slot.workDone = 0) && s.mem.faults (slotBase slot + 8) 4))
  | .writeBack slot writes :: _ =>
    let s := match writes[s.slot.workDone]? with
      | some w => s.writeMem w
      | none => s
    s.act (fun r => if writes.length ≤ r.slot.workDone + 1 then r.writeBackOver slot else r.workGoesOn)
  | .notice pos n :: _ =>
    (s.writeMem { addr := noticeAddr pos, bytes := n.bytes }).act (fun r => r.noticeOver pos)

/-! ### Statements (R69, R169, R187) -/

/-- Where a statement's next record goes (R196). -/
def Statement.addr (x : Statement) : Nat := frameBytes * x.frame + 32 * x.next

/-- The account's step (R187): with the clear flag set its total and saturation loss become 0. -/
def Run.takeAccount (r : Run) (x : Statement) : Run :=
  if x.clear then r.modAccount x.next (fun a => { a with total := 0, loss := 0 }) else r

/-- A statement goes on to its next record, or ends DONE after its last. -/
def Statement.step (x : Statement) (last : Nat) (rest : List Statement) (r : Run) (put : List Statement → Run → Run) :
    Run :=
  if last ≤ x.next + 1 then (put rest r).endDone x.slot last []
  else put ({ x with next := x.next + 1 } :: rest) r

/-- Replace the account statements in hand. -/
def Run.putAccount (xs : List Statement) (r : Run) : Run := { r with stmts := { r.stmts with account := xs } }

/-- Replace the log statements in hand. -/
def Run.putLog (xs : List Statement) (r : Run) : Run := { r with stmts := { r.stmts with log := xs } }

/-- Replace the inventory statements in hand. -/
def Run.putInventory (xs : List Statement) (r : Run) : Run := { r with stmts := { r.stmts with inventory := xs } }

/-- The next record of the ACCOUNT STATEMENT in hand: inquiry, account's step and write in one claim. -/
def State.accountStep (s : State) : State :=
  match s.stmts.account with
  | [] => s
  | x :: rest =>
    if ((Run.of s).frameAt x.frame).isScan then
      let bytes := accountRecord x.next ((Run.of s).account x.next) (s.fee.accountCount x.next)
      (s.writeMem { addr := x.addr, bytes := bytes }).act (fun r =>
        x.step 128 rest (r.takeAccount x) Run.putAccount)
    else s.act (fun r => (Run.putAccount rest r).endFailed x.slot .badFrame x.next)

/-- The summary and the 32 log records, taken in one step (R169). -/
def logTaken (m : MediaCheck) (p : PathUnit) : List (List Byte) :=
  logSummary m p :: (m.log.map logRecord ++ List.replicate (32 - m.log.length) (layout 32 []))

/-- The next record of the LOG STATEMENT in hand. -/
def State.logStep (s : State) : State :=
  match s.stmts.log with
  | [] => s
  | x :: rest =>
    if ((Run.of s).frameAt x.frame).isScan then
      let taken := if x.next = 0 then logTaken s.media s.path else x.taken
      let bytes := if x.next < 33 then taken.getD x.next []
        else relocRecord (x.next - 33) (s.store.relocs.getD (x.next - 33) .free)
      (s.writeMem { addr := x.addr, bytes := bytes }).act (fun r =>
        Statement.step { x with taken := taken } 97 rest r Run.putLog)
    else s.act (fun r => (Run.putLog rest r).endFailed x.slot .badFrame x.next)

/-- The three transfers that write the 96 bytes of the inventory summary (R36). -/
def summaryPieces : Nat := 3

/-- The INVENTORY STATEMENT in hand asks whether its target frame is still SCAN, before the first transfer of a record
(R69, log entry 64). -/
def Statement.asks (x : Statement) : Bool := x.piece == 0

/-- The next transfer of the INVENTORY STATEMENT in hand: a position's record, or the next part of the summary, which is
taken in one step. -/
def State.inventoryStep (s : State) : State :=
  match s.stmts.inventory with
  | [] => s
  | x :: rest =>
    if x.asks ∧ !((Run.of s).frameAt x.frame).isScan then
      s.act (fun r => (Run.putInventory rest r).endFailed x.slot .badFrame x.next)
    else if x.next < 128 then
      (s.writeMem { addr := x.addr, bytes := volumeRecord x.next (s.store.volumes.getD x.next none) }).act (fun r =>
        x.step 129 rest r Run.putInventory)
    else
      let summary := if x.piece = 0 then inventorySummary s.picker s.store else x.taken.headD []
      let w : MemWrite := { addr := x.addr + 32 * x.piece, bytes := (summary.drop (32 * x.piece)).take 32 }
      (s.writeMem w).act (fun r =>
        if summaryPieces ≤ x.piece + 1 then x.step 129 rest r Run.putInventory
        else Run.putInventory ({ x with piece := x.piece + 1, taken := [summary] } :: rest) r)

/-! ### The Start-Up Unit (R190, R192, R195) -/

/-- The power-up LOADs of step 5 are issued once (R99). -/
def Run.issueLoads (r : Run) : Run :=
  if r.startup.loadsIssued then r
  else
    let r : Run := { r with startup := { r.startup with loadsIssued := true } }
    [0, 1, 2, 3].foldl (fun r d => r.beginLoad d .powerUp) r

/-- The last start-up write has completed (R61, R192, R193): the Slot Unit takes its reset values, with position
0 reserved for STARTED and the notices kept until now behind it, and the sequence goes on. -/
def Run.initialized (r : Run) : Run :=
  let held := r.slot.held
  let u : SlotUnit := { SlotUnit.start with reserved := [false] }
  let r : Run := { r with slot := held.foldl SlotUnit.takeNotice u, startup := { r.startup with initNext := none } }
  (r.issueLoads).push .startup

/-- A start-up write completes.  The failed check's record is the last write of its sequence (R190). -/
def State.completeStart (s : State) : State :=
  match s.startup.initNext with
  | none => s
  | some k =>
    (s.writeMem (startWrite s.startup k)).act (fun r =>
      if k + 1 < startWrites r.startup then { r with startup := { r.startup with initNext := some (k + 1) } }
      else if r.startup.stage = .failed then { r with startup := { r.startup with initNext := none } }
      else r.initialized)

/-- The WRITE SETTINGS operation in hand ends (R195). -/
def Run.settingsOver (r : Run) (slot : Nat) (code : Option Code) : Run :=
  let r : Run := { r with startup := { r.startup with settingsOps := r.startup.settingsOps.drop 1 } }
  match code with
  | none => r.endDone slot 1 []
  | some c => r.endFailed slot c 0

/-- A read of the settings record brings its bytes; the last one lets the record be judged and its write begin
(R195). -/
def Run.settingsRead (r : Run) (x : SettingsOp) (bytes : List Byte) : Run :=
  let got := x.got ++ bytes
  let put := fun (y : SettingsOp) (u : StartUp) => { u with settingsOps := y :: u.settingsOps.drop 1 }
  if got.length < 140 then { r with startup := put { x with got := got } r.startup }
  else if settingsGood got then
    { r with startup := { put { x with got := got, writing := true } r.startup with configWriting := some got } }
  else r.settingsOver x.slot (some .badRequest)

/-- A read for WRITE SETTINGS completes: inquiry and read as one (R195). -/
def State.completeSettings (s : State) (bad : List Nat) : State :=
  match s.startup.settingsOps with
  | [] => s
  | x :: _ =>
    if ((Run.of s).frameAt x.frame).isScan then
      let a := frameBytes * x.frame + x.got.length
      let n := min 32 (140 - x.got.length)
      let s := s.learn a n bad
      let bytes := s.mem.readBytes a n
      if s.mem.faults a n then s.act (fun r => r.settingsOver x.slot (some .memoryParity))
      else s.act (fun r => r.settingsRead x bytes)
    else s.act (fun r => r.settingsOver x.slot (some .badFrame))

/-- The configuration memory write completes: it holds the whole new record, and the request, if it is still in
hand, ends DONE (R195). -/
def State.settingsWritten (s : State) (bytes : List Byte) : State :=
  let s : State := { s with config := { bytes := bytes, whole := true } }
  s.act (fun r =>
    let r : Run := { r with startup := { r.startup with configWriting := none } }
    match r.startup.settingsOps with
    | [] => r
    | x :: _ => if x.writing then r.settingsOver x.slot none else r)

/-! ### Every completion (R37, R39) -/

/-- The access that holds the port completes: the port becomes free, memory is read or written, and the master or
the mover takes the outcome. -/
def State.completeAccess (s : State) (bad : List Nat) : State :=
  match s.path.port with
  | .free => s
  | .system t answered =>
    if s.startup.stage = .failed ∨ frameBytes ≤ t.addr then s.freePort.completeWhole t answered bad
    else s.freePort.completeControl t answered bad
  | .mover _ p =>
    let s := s.freePort
    match p with
    | .stream i => s.completeStream i bad
    | .slotWork => s.completeWork bad
    | .accountRecord => s.accountStep
    | .logRecord => s.logStep
    | .inventoryRecord => s.inventoryStep
    | .startWrite => s.completeStart
    | .settingsRead => s.completeSettings bad
    | .orphan w => (match w with
      | some w => s.writeMem w
      | none => s).act (fun r => r.push .present)

/-! ### Which completion the access in the port is -/

/-- The mover's transfer that holds the port. -/
def State.moving (s : State) : Option Purpose :=
  match s.path.port with
  | .free => none
  | .system _ _ => none
  | .mover _ p => some p

/-- The access in the port is the last of an acceptance read (R50). -/
def State.lastAcceptance (s : State) : Bool :=
  s.moving == some .slotWork && s.slot.acceptsNext

/-- The access in the port is the last of a write-back (R54). -/
def State.lastWriteBack (s : State) : Bool :=
  s.moving == some .slotWork &&
    (match s.slot.work with
     | .writeBack _ ws :: _ => decide (ws.length ≤ s.slot.workDone + 1)
     | _ => false)

/-- The access in the port is the last of a record of the INVENTORY STATEMENT, or finds that the statement stops (R69). -/
def State.lastInventory (s : State) : Bool :=
  s.moving == some .inventoryRecord &&
    (match s.stmts.inventory with
     | [] => true
     | x :: _ => decide (x.next < 128) || decide (summaryPieces ≤ x.piece + 1) ||
         (x.asks && !((Run.of s).frameAt x.frame).isScan))

/-- The access in the port is a notice write (R57). -/
def State.noticeInPort (s : State) : Bool :=
  s.moving == some .slotWork &&
    (match s.slot.work with
     | .notice _ _ :: _ => true
     | _ => false)

/-- The stream whose transfer holds the port. -/
def State.streamInPort (s : State) : Option Stream :=
  match s.moving with
  | some (.stream i) => (Run.of s).streamAt i
  | _ => none

/-- The access in the port is the thirty-second write of a sector (R12). -/
def State.lastOfSector (s : State) : Bool :=
  match s.streamInPort with
  | some st => !st.loading && decide (32 ≤ st.done + 1)
  | none => false

/-- The access in the port is the last read of a loading stream of a drive (R88). -/
def State.lastOfLoad (s : State) (d : Nat) : Bool :=
  match s.streamInPort with
  | some st => st.loading && decide (st.total ≤ st.done + 1) && decide (st.idx / 2 = d)
  | none => false

/-- The access in the port is the last start-up write of an initialization (R192). -/
def State.lastStartWrite (s : State) : Bool :=
  s.moving == some .startWrite && s.startup.stage != .failed &&
    (match s.startup.initNext with
     | some k => decide (startWrites s.startup ≤ k + 1)
     | none => false)

/-- A stream of a drive that loads a side label, which needs no read of memory (R88, R145). -/
def Run.labelStream (r : Run) (d : Nat) : Option Stream :=
  r.mover.streams.find? (fun s => s.loading && decide (s.idx / 2 = d) && decide (s.total = 0))

end Sys2Proof.Machine
end

