-- ==== Sys2Proof/Machine/BusCmds.lean ====
section
/-! DEFINITION. BusCmds.lean: the meanings of the commands that a bus master sends: SYSTEM_TRANSFER, and the
single-word rows, each of which is the transfer of that one word (log entry 2). -/

namespace Sys2Proof.Machine

/-- A command's outcome: the state it leaves, or a fault when its operands name what does not exist. -/
def outcome (c : Instr) (s : State) : Host.Outcome State Fault Refusal :=
  if c.wf then .next s else .fault .noSuchCommand

/-- SYSTEM_TRANSFER (R22 to R29). -/
def execSystemTransfer (t : Transfer) (s : State) : Host.Outcome State Fault Refusal :=
  outcome (.systemTransfer t) (s.busTransfer t)

/-- CLAIM_READ (R26, R43): a 4-byte read of the slot's claim word. -/
def execClaimRead (master slot : Nat) (s : State) : Host.Outcome State Fault Refusal :=
  outcome (.claimRead master slot) (s.busTransfer (readOf master (slotBase slot + 4)))

/-- POST (R44): a 4-byte write of POSTED to the slot's state word. -/
def execPost (master slot : Nat) (s : State) : Host.Outcome State Fault Refusal :=
  outcome (.post master slot) (s.busTransfer (writeOf master (slotBase slot) postedValue))

/-- RELEASE_CLAIM (R45): a 4-byte write of FREE to the slot's state word. -/
def execReleaseClaim (master slot : Nat) (s : State) : Host.Outcome State Fault Refusal :=
  outcome (.releaseClaim master slot) (s.busTransfer (writeOf master (slotBase slot) freeValue))

/-- RELEASE_SLOT (R46): a 4-byte write of FREE to the slot's state word. -/
def execReleaseSlot (master slot : Nat) (s : State) : Host.Outcome State Fault Refusal :=
  outcome (.releaseSlot master slot) (s.busTransfer (writeOf master (slotBase slot) freeValue))

/-- CANCEL (R47): a 4-byte write of CANCEL to the slot's state word. -/
def execCancel (master slot : Nat) (s : State) : Host.Outcome State Fault Refusal :=
  outcome (.cancel master slot) (s.busTransfer (writeOf master (slotBase slot) cancelValue))

/-- STATE_WORD_REFUSED (R48): a 4-byte write of a value to the slot's state word, judged by the table of R48. -/
def execStateWordRefused (master slot value : Nat) (s : State) : Host.Outcome State Fault Refusal :=
  outcome (.stateWordRefused master slot value) (s.busTransfer (writeOf master (slotBase slot) value))

/-- CONSUMER_INDEX_WRITE (R59): a 4-byte write of the consumer index word. -/
def execConsumerIndexWrite (master value : Nat) (s : State) : Host.Outcome State Fault Refusal :=
  outcome (.consumerIndexWrite master value) (s.busTransfer (writeOf master 260 value))

end Sys2Proof.Machine
end

