-- ==== Sys2Proof/Machine/PortCmds.lean ====
section
/-! DEFINITION. PortCmds.lean: the meanings of PORT_GRANT and of the completions of memory accesses.
MEMORY_ACCESS_COMPLETE completes whatever access holds the port; each of the other rows completes the access
that is its own end of a run, and is no event when the port holds another (log entry 10). -/

namespace Sys2Proof.Machine

/-- PORT_GRANT (R37): the free port is granted. -/
def execPortGrant (s : State) : Host.Outcome State Fault Refusal :=
  outcome .portGrant (if s.startup.stage ≠ .off ∧ s.path.port = .free then s.act Run.grantPort else s)

/-- MEMORY_ACCESS_COMPLETE (R39). -/
def execMemoryAccessComplete (bad : List Nat) (s : State) : Host.Outcome State Fault Refusal :=
  outcome (.memoryAccessComplete bad) (s.completeAccess bad)

/-- ACCEPTANCE_READ_DONE (R50 to R53). -/
def execAcceptanceReadDone (bad : List Nat) (s : State) : Host.Outcome State Fault Refusal :=
  outcome (.acceptanceReadDone bad) (if s.lastAcceptance then s.completeAccess bad else s)

/-- ACCOUNT_STATEMENT_RECORD (R187). -/
def execAccountStatementRecord (s : State) : Host.Outcome State Fault Refusal :=
  outcome .accountStatementRecord (if s.moving = some .accountRecord then s.completeAccess [] else s)

/-- LOG_STATEMENT_RECORD (R169). -/
def execLogStatementRecord (s : State) : Host.Outcome State Fault Refusal :=
  outcome .logStatementRecord (if s.moving = some .logRecord then s.completeAccess [] else s)

/-- INVENTORY_STATEMENT_RECORD (R69): the last transfer of a record. -/
def execInventoryStatementRecord (s : State) : Host.Outcome State Fault Refusal :=
  outcome .inventoryStatementRecord (if s.lastInventory then s.completeAccess [] else s)

/-- WRITE_BACK_DONE (R54). -/
def execWriteBackDone (s : State) : Host.Outcome State Fault Refusal :=
  outcome .writeBackDone (if s.lastWriteBack then s.completeAccess [] else s)

/-- NOTICE_WRITE_DONE (R57, R60). -/
def execNoticeWriteDone (s : State) : Host.Outcome State Fault Refusal :=
  outcome .noticeWriteDone (if s.noticeInPort then s.completeAccess [] else s)

/-- SECTOR_PLACED (R12, R13). -/
def execSectorPlaced (s : State) : Host.Outcome State Fault Refusal :=
  outcome .sectorPlaced (if s.lastOfSector then s.completeAccess [] else s)

/-- BUFFER_LOADED (R88): the last read of a drive's loading stream, or the buffer of a side label, which reads
nothing from memory (log entry 10). -/
def execBufferLoaded (drive : Nat) (bad : List Nat) (s : State) : Host.Outcome State Fault Refusal :=
  outcome (.bufferLoaded drive bad)
    (if s.lastOfLoad drive then s.completeAccess bad
     else match (Run.of s).labelStream drive with
       | some st => s.act (fun r => r.streamLoaded st)
       | none => s)

end Sys2Proof.Machine
end

