-- ==== Sys2Proof/Machine/PickerCmds.lean ====
section
/-! DEFINITION. PickerCmds.lean: the meanings of the events of the picker arm, of the hand-off cells and of the
hatch (R72 to R82).  A report for which no move waits is no event (log entry 2). -/

namespace Sys2Proof.Machine

open Sys2Proof.Config

/-- The mechanism's own events are taken: main power is on and the control-area check has not failed (log entry
32). -/
def State.acting (s : State) : Bool := s.startup.acting

/-- The move whose report or timer is an event: none while the mechanism's events are not taken (R190). -/
def State.moveInProgress (s : State) : Option Move := if s.acting then s.picker.move else none

/-- MOVE_END (R72): the arm reports the move ended. -/
def execMoveEnd (s : State) : Host.Outcome State Fault Refusal :=
  outcome .moveEnd
    (match s.moveInProgress with
     | none => s
     | some m => if m.endsByReport then s.act (fun r => r.moveEnds m) else s)

/-- IMPORT_PROBE_RESULT (R73): the probe that begins an IMPORT move reports. -/
def execImportProbeResult (probe : Probe) (s : State) : Host.Outcome State Fault Refusal :=
  outcome (.importProbeResult probe)
    (match s.moveInProgress with
     | none => s
     | some m =>
       match m.what with
       | .order o => if o.kind = .importIn ∧ !m.probed then s.act (fun r => r.importProbed m o probe) else s
       | .reHome => s
       | .putAway => s
       | .probe _ => s)

/-- The clock stands at a deadline or beyond it (log entry 6). -/
def State.reach (s : State) (t : Nat) : State := { s with now := max s.now t }

/-- MOVE_TIMEOUT (R74): the 40 s move timer expires. -/
def execMoveTimeout (s : State) : Host.Outcome State Fault Refusal :=
  outcome .moveTimeout
    (match s.moveInProgress with
     | none => s
     | some m => (s.reach (m.startedAt + moveLimit)).act (fun r => r.pickerFault m))

/-- HANDOFF_PLACED (R75): in a cell that is not occupied, with its gate open, the mark becomes UNRECORDED. -/
def execHandoffPlaced (cell : Nat) (s : State) : Host.Outcome State Fault Refusal :=
  outcome (.handoffPlaced cell)
    (if s.acting ∧ s.picker.gateOpen (88 + cell) ∧ !(Run.of s).cellOccupied (88 + cell) then
       s.act (fun r => r.setMark (88 + cell) true)
     else s)

/-- HANDOFF_TAKEN (R75): with the cell's gate open, the mark becomes CLEAR and a volume recorded there is
removed, or MISSING if the filing pair needs it. -/
def execHandoffTaken (cell : Nat) (s : State) : Host.Outcome State Fault Refusal :=
  outcome (.handoffTaken cell)
    (if s.acting ∧ s.picker.gateOpen (88 + cell) then s.act (fun r => r.handTaken (88 + cell)) else s)

/-- HATCH_BUTTON (R78). -/
def execHatchButton (s : State) : Host.Outcome State Fault Refusal :=
  outcome .hatchButton (if s.acting then s.act (fun r => r.askRelease .button) else s)

/-- The release window has expired (R79): the hatch is LOCKED and the arm is granted again. -/
def Run.windowOver (r : Run) : Run :=
  Run.push { r with picker := { r.picker with hatch := .locked, windowStart := none } } .arm

/-- RELEASE_WINDOW_EXPIRY (R79).  It is taken in the failed-check mode too, where a hatch that was released before the check
failed is locked by it (R190, log entry 100). -/
def execReleaseWindowExpiry (s : State) : Host.Outcome State Fault Refusal :=
  outcome .releaseWindowExpiry
    (match s.picker.windowStart with
     | none => s
     | some t =>
       if s.picker.hatch = .released then (s.reach (t + windowLimit)).act Run.windowOver else s)

/-- The hatch is OPEN (R79): the window timer stops, the pending-release flag clears, the OPEN HATCH requests
waiting end DONE, and a running audit stops at the end of its move. -/
def Run.hatchOpen (r : Run) : Run :=
  let audit := match r.picker.audit with
    | none => none
    | some a =>
      match a.phase with
      | .waiting => none
      | .running => some { a with phase := .stopping }
      | .stopping => some a
  let p : Picker :=
    { r.picker with hatch := .opened, windowStart := none, pendingRelease := none, audit := audit }
  Run.endHatchOps { r with picker := p }

/-- HATCH_OPENED (R79): an opened report in OPEN is not taken. -/
def execHatchOpened (s : State) : Host.Outcome State Fault Refusal :=
  outcome .hatchOpened (if s.acting ∧ s.picker.hatch ≠ .opened then s.act Run.hatchOpen else s)

/-- The hatch is AUDITING and its audit begins (R79, R80). -/
def Run.hatchClose (r : Run) : Run :=
  Run.beginAudit { r with picker := { r.picker with hatch := .auditing } }

/-- HATCH_CLOSED (R79): a closed report in any state but OPEN is not taken. -/
def execHatchClosed (s : State) : Host.Outcome State Fault Refusal :=
  outcome .hatchClosed (if s.acting ∧ s.picker.hatch = .opened then s.act Run.hatchClose else s)

/-- RE_HOME_END (R80): the re-homing ends and reports whether the hand holds a platter. -/
def execReHomeEnd (holds : Bool) (s : State) : Host.Outcome State Fault Refusal :=
  outcome (.reHomeEnd holds)
    (match s.moveInProgress with
     | none => s
     | some m => if m.what = .reHome then s.act (fun r => r.afterReHome m holds) else s)

/-- PROBE_RESULT (R81): an audit probe reports, and the audit goes to the next cell or ends (R82). -/
def execProbeResult (probe : Probe) (s : State) : Host.Outcome State Fault Refusal :=
  outcome (.probeResult probe)
    (match s.moveInProgress with
     | none => s
     | some m =>
       match m.what with
       | .probe c => s.act (fun r => (r.probed c probe).auditNext (Run.auditProbe (c + 1)))
       | .order _ => s
       | .reHome => s
       | .putAway => s)

end Sys2Proof.Machine
end

