-- ==== Sys2Proof/Machine/DriveCmds.lean ====
section
/-! DEFINITION. DriveCmds.lean: the meanings of the drive completions (R90 to R94, R98, R99), of a drive's timer
(R95), of a relocation job's hit (R166) and of a sweep's idle timer (R182).  A completion of a command that the
drive has not in progress is no event (R95, log entry 2). -/

namespace Sys2Proof.Machine

open Sys2Proof.Config

/-! ### Shared -/

/-- The command in progress on a drive, if it is of a kind. -/
def State.issued (s : State) (d : Nat) (c : Command) : Option Issued :=
  ((Run.of s).driveAt d).command.bind (fun i => if i.command = c then some i else none)

/-- The drive's command ends and its channel is free. -/
def Run.commandOver (r : Run) (d : Nat) : Run := r.modDrive d (fun v => { v with command := none })

/-- A drive fails (R96); a RESTORE DRIVE whose UNLOAD this was ends with DRIVE_FAULT (R98). -/
def Run.driveFails (r : Run) (d : Nat) (timeout : Bool) (c : Command) : Run :=
  let op := r.restoreOn d .unloading
  let r := r.enterFault d timeout (some c)
  match op with
  | some x => r.restoreEnds x.slot (some .driveFault)
  | none => r

/-- A LOAD's report is recorded and handed on, and the drive becomes READY or searches its write point (R90). -/
def Run.loadMatched (r : Run) (d serial : Nat) (blank : Bool) (side : Side) (label : LabelSector) : Run :=
  let rep : LoadReport := { serial := serial, blank := blank, side := side, label := labelReport side label }
  let r := r.modDrive d (fun v => { v with loadReport := some rep, lastSector := none, command := none })
  let r := r.push (.loadReport d)
  if r.confirmed serial side then r.becomeReady d else r.issue d .findWritePoint 0 0 0 0

/-! ### Loading (R90, R91, R99) -/

/-- A LOAD after a mount, a flip or a reload completes (R90). -/
def Run.loadEnds (r : Run) (d : Nat) : Option LoadResult → Run
  | none => r.driveFails d false .load
  | some .noPlatter => r.driveFails d false .load
  | some (.platter n blank side label) =>
    if (r.driveAt d).serial = some n ∧ (r.driveAt d).side = side then r.loadMatched d n blank side label
    else r.driveFails d false .load

/-- LOAD_COMPLETE (R90). -/
def execLoadComplete (drive : Nat) (result : Option LoadResult) (s : State) : Host.Outcome State Fault Refusal :=
  outcome (.loadComplete drive result)
    (if (s.issued drive .load).isSome ∧ ((Run.of s).driveAt drive).loadFor = .mount then
       s.act (fun r => r.loadEnds drive result)
     else s)

/-- The drive's volume is the one the Inventory records in it, or UNIDENTIFIED (R99); no side was reported, so the side
field keeps side A (log entry 59). -/
def Run.volumeByRecord (r : Run) (d : Nat) : Run :=
  let v : DriveVolume := match r.volumeIn (.drive d) with
    | some v => .serial v.serial
    | none => .unidentified
  r.modDrive d (fun x => { x with volume := some v })

/-- A volume other than `keep` that the Inventory records in a drive is recorded MISSING (R99). -/
def Run.loseOther (r : Run) (d : Nat) (keep : Option Nat) : Run :=
  match r.volumeIn (.drive d) with
  | some v => if keep = some v.serial then r else r.loseVolume v.serial
  | none => r

/-- A drive is found EMPTY (R98, R99). -/
def Run.driveEmptied (r : Run) (d : Nat) : Run :=
  let r := r.modDrive d (fun v =>
    { v with state := .empty, volume := none, side := .a, loadReport := none, command := none, unloadAsked := false,
             reloadNext := false, faultTimeout := false, faultCommand := none })
  ((r.loseOther d none).push .arm).wantPass

/-- Another drive is recorded as holding a serial (R99). -/
def Run.heldElsewhere (r : Run) (d serial : Nat) : Bool :=
  [0, 1, 2, 3].any (fun e => e != d && (r.driveAt e).serial == some serial)

/-- The LOAD of a power-up, or of an UNIDENTIFIED platter's reload, completes (R94, R99).  A serial that another drive holds
already puts this one in FAULT, and leaves the volume that the Inventory records in it there (log entry 93). -/
def Run.powerLoadEnds (r : Run) (d : Nat) : Option LoadResult → Run
  | none => (r.volumeByRecord d).driveFails d false .load
  | some .noPlatter => (r.driveEmptied d).driveReports d
  | some (.platter n blank side label) =>
    if r.heldElsewhere d n then
      (r.modDrive d (fun v => { v with volume := some .unidentified })).driveFails d false .load
    else
      let r := r.loseOther d (some n)
      let r := match r.volume n with
        | some _ => r.placeVolume n (.drive d)
        | none => r.createVolume n blank (.drive d)
      (r.modDrive d (fun v => { v with volume := some (.serial n), side := side, loadFor := .mount })).loadMatched d n
        blank side label

/-- POWER_UP_LOAD_COMPLETE (R99). -/
def execPowerUpLoadComplete (drive : Nat) (result : Option LoadResult) (s : State) :
    Host.Outcome State Fault Refusal :=
  outcome (.powerUpLoadComplete drive result)
    (if (s.issued drive .load).isSome ∧ ((Run.of s).driveAt drive).loadFor ≠ .mount then
       s.act (fun r => r.powerLoadEnds drive result)
     else s)

/-- FIND WRITE POINT completes (R91): the side is confirmed and the drive is READY. -/
def Run.writePointFound (r : Run) (d : Nat) : Option Nat → Run
  | none => r.driveFails d false .findWritePoint
  | some n =>
    let v := r.driveAt d
    let r := match v.serial with
      | some x => r.confirmSide x v.side n
      | none => r
    ((r.commandOver d).becomeReady d).push .pump

/-- FIND_WRITE_POINT_COMPLETE (R91). -/
def execFindWritePointComplete (drive : Nat) (result : Option Nat) (s : State) : Host.Outcome State Fault Refusal :=
  outcome (.findWritePointComplete drive result)
    (if (s.issued drive .findWritePoint).isSome then s.act (fun r => r.writePointFound drive result) else s)

/-! ### Reading (R92, R160) -/

/-- READ_COMPLETE (R92): the completion reports one sector for each of the READ's count.  One that is discarded is so
whatever it reports, FAULT among it (log entry 86). -/
def execReadComplete (drive : Nat) (result : Option (List SectorRead)) (s : State) :
    Host.Outcome State Fault Refusal :=
  outcome (.readComplete drive result)
    (match s.issued drive .read with
     | none => s
     | some c =>
       if c.discard then s.act (fun r => r.discardRead drive)
       else
         match result with
         | none => s.act (fun r => r.driveFails drive false .read)
         | some ss => if ss.length = c.count then s.act (fun r => r.readOk drive c ss) else s)

/-- REREAD_COMPLETE (R160): a REREAD reports CLEAN or SYNDROME (R92).  One that is discarded is so whatever it reports,
FAULT among it (log entry 86). -/
def execRereadComplete (drive : Nat) (result : Option SectorRead) (s : State) : Host.Outcome State Fault Refusal :=
  outcome (.rereadComplete drive result)
    (match s.issued drive .reread with
     | none => s
     | some c =>
       if c.discard then s.act (fun r => r.discardRead drive)
       else
         match result with
         | none => s.act (fun r => r.driveFails drive false .reread)
         | some x => if x.report = .unwritten then s else s.act (fun r => r.rereadOk drive c x))

/-! ### Burning (R93) -/

/-- A BURN has completed OK: the last sector is the end of its range, and its VERIFY is the next command. -/
def Run.burnEnds (r : Run) (d : Nat) (c : Issued) : Run :=
  let r := r.modDrive d (fun v => { v with command := none, lastSector := some (c.start + c.count - 1) })
  (r.modBuf d c.buf (fun b => { b with burned := true })).push (.drive d)

/-- BURN_COMPLETE (R93). -/
def execBurnComplete (drive : Nat) (ok : Bool) (s : State) : Host.Outcome State Fault Refusal :=
  outcome (.burnComplete drive ok)
    (match s.issued drive .burn with
     | none => s
     | some c => s.act (fun r => if ok then r.burnEnds drive c else r.driveFails drive false .burn))

/-- A VERIFY has completed: its buffer is FREE and the Filing Unit has the copy's result. -/
def Run.verifyEnds (r : Run) (d : Nat) (c : Issued) (x : CopyState) : Run :=
  let item := ((r.driveAt d).buf c.buf).item
  let r := (r.commandOver d).freeBuffer d c.buf
  let r := match item with
    | some i => r.copyResult d i x
    | none => r
  r.push (.drive d)

/-- VERIFY_COMPLETE (R93). -/
def execVerifyComplete (drive : Nat) (result : VerifyResult) (s : State) : Host.Outcome State Fault Refusal :=
  outcome (.verifyComplete drive result)
    (match s.issued drive .verify with
     | none => s
     | some c => s.act (fun r =>
         match result with
         | .pass => r.verifyEnds drive c .passed
         | .fail => r.verifyEnds drive c .failed
         | .fault => r.driveFails drive false .verify))

/-! ### Unloading and RESTORE DRIVE (R94, R98) -/

/-- An UNLOAD has completed OK (R94): the drive's order is eligible, the drive reloads if its order has ended, and
a RESTORE DRIVE places its UNMOUNT (R98). -/
def Run.unloadEnds (r : Run) (d : Nat) : Run :=
  let r := r.modDrive d (fun v => { v with command := none, unloadAsked := false })
  if (r.driveAt d).reloadNext then r.reload d
  else
    match r.restoreOn d .unloading with
    | none => r.push .arm
    | some x =>
      let r : Run := { r with restores := r.restores.map (fun y => if y.slot = x.slot then { y with phase := .ordered } else y) }
      (r.placeOrder .unmount (some d) (r.driveAt d).serial none none 1 (.restore x.slot)).push .arm

/-- UNLOAD_COMPLETE (R94). -/
def execUnloadComplete (drive : Nat) (ok : Bool) (s : State) : Host.Outcome State Fault Refusal :=
  outcome (.unloadComplete drive ok)
    (match s.issued drive .unload with
     | none => s
     | some _ => s.act (fun r => if ok then r.unloadEnds drive else r.driveFails drive false .unload))

/-- RESTORE has failed (R98): the drive stays in FAULT with the new cause, and the request ends. -/
def Run.restoreFails (r : Run) (d : Nat) (timeout : Bool) : Run :=
  let r := r.modDrive d (fun v =>
    { v with command := none, faultTimeout := timeout, faultCommand := some .restore })
  match r.restoreOn d .restoring with
  | some x => r.restoreEnds x.slot (some .driveFault)
  | none => r

/-- RESTORE completes (R98). -/
def Run.restored (r : Run) (d : Nat) : Option Bool → Run
  | none => r.restoreFails d false
  | some false =>
    let r := r.driveEmptied d
    (match r.restoreOn d .restoring with
     | some x => r.restoreEnds x.slot none
     | none => r)
  | some true =>
    let r := (r.modDrive d (fun v => { v with faultTimeout := false, faultCommand := none })).beginUnload d
    { r with restores := r.restores.map (fun y =>
        if y.drive = d ∧ y.phase = .restoring then { y with phase := .unloading } else y) }

/-- A RESTORE whose operation a system reset has ended: its outcome is discarded (R100). -/
def Run.restoreDiscarded (r : Run) (d : Nat) : Run := (r.commandOver d).push .restores

/-- RESTORE_COMPLETE (R98). -/
def execRestoreComplete (drive : Nat) (present : Option Bool) (s : State) : Host.Outcome State Fault Refusal :=
  outcome (.restoreComplete drive present)
    (match s.issued drive .restore with
     | none => s
     | some c => s.act (fun r => if c.discard then r.restoreDiscarded drive else r.restored drive present))

/-! ### Timers (R95, R182) -/

/-- A drive's command has timed out (R95): the drive enters FAULT, or stays in it after a RESTORE (R98).  The expiry of a
RESTORE that a system reset discarded leaves the fault field as it was (log entry 83). -/
def Run.timedOut (r : Run) (d : Nat) (c : Issued) : Run :=
  match c.command with
  | .restore => if c.discard then r.restoreDiscarded d else r.restoreFails d true
  | .load =>
    let r := if (r.driveAt d).loadFor = .mount then r else r.volumeByRecord d
    r.driveFails d true .load
  | .findWritePoint => r.driveFails d true .findWritePoint
  | .read => r.driveFails d true .read
  | .reread => r.driveFails d true .reread
  | .burn => r.driveFails d true .burn
  | .verify => r.driveFails d true .verify
  | .unload => r.driveFails d true .unload

/-- DRIVE_TIMEOUT (R95). -/
def execDriveTimeout (drive : Nat) (s : State) : Host.Outcome State Fault Refusal :=
  outcome (.driveTimeout drive)
    (match ((Run.of s).driveAt drive).command with
     | none => s
     | some c => (s.reach (c.issuedAt + c.command.limit)).act (fun r => r.timedOut drive c))

/-- A sweep's idle timer has reached its limit (R182). -/
def Run.sweepIdle (r : Run) (port : Nat) (c : Cursor) : Run :=
  (r.setCursor port none).notice (.sweepLost port c.frame true)

/-- SWEEP_IDLE_EXPIRY (R182). -/
def execSweepIdleExpiry (port : Nat) (s : State) : Host.Outcome State Fault Refusal :=
  outcome (.sweepIdleExpiry port)
    (match s.fee.cursor port with
     | none => s
     | some c => (s.reach (c.timerAt + s.settings.idleLimit)).act (fun r => r.sweepIdle port c))

/-! ### Relocation (R166) -/

/-- RELOCATION_JOB_HIT (R166): a relocation job created for the frame takes its hold. -/
def execRelocationJobHit (frame : Nat) (s : State) : Host.Outcome State Fault Refusal :=
  outcome (.relocationJobHit frame)
    (match s.media.relocJobs.find? (fun q => q.frame == frame && q.job.isNone) with
     | none => s
     | some q => s.act (fun r => r.relocationHit q))

end Sys2Proof.Machine
end

