-- ==== Sys2Proof/Machine/StartCmds.lean ====
section
/-! DEFINITION. StartCmds.lean: the meanings of the start-up, reset and power events (R19, R20, R40, R61, R83, R84,
R99, R100, R117, R134, R156, R157, R170, R171, R188 to R195). -/

namespace Sys2Proof.Machine

open Sys2Proof.Config

/-! ### Power-up (R189, R190) -/

/-- The configuration memory delivers a good record (R189, R200). -/
def ConfigMemory.good (c : ConfigMemory) (delivered : Bool) : Bool := delivered && c.whole && settingsGood c.bytes

/-- Step 1 of a power-up: the settings load; the part is at its power-up values and its check is in hand. -/
def State.poweredUp (s : State) (delivered : Bool) : State :=
  let good := s.config.good delivered
  let settings := if good then settingsOf s.config.bytes else defaultSettings
  let fees := if good then feesAt s.config.bytes 40 else zeroFees
  { s with toParts := Parts.start settings.mem64 good fees s.store, settings := settings }

/-- POWER_UP (R189, R190): main power is applied to a part that has none. -/
def execPowerUp (delivered : Bool) (s : State) : Host.Outcome State Fault Refusal :=
  outcome (.powerUp delivered) (if s.startup.stage = .off then s.poweredUp delivered else s)

/-! ### The control-area check and the battery check (R190, R191) -/

/-- Memory after the check: frame 0 holds what the check left, a free value, and the byte that faulted (log entries 5
and 12).  A word that read back wrong holds what is written to it next (log entry 77). -/
def Memory.checked (m : Memory) (result : CheckResult) : Memory :=
  let outside := m.faulted.filter (fun a => frameBytes ≤ a)
  { cells := m.cells.filter (fun c => frameBytes ≤ c.1),
    pattern := some m.checks,
    checks := m.checks + 1,
    faulted := match result with
      | .parity a => insertUp a outside
      | .good => outside
      | .mismatch _ => outside }

/-- The check code (R190). -/
def checkCodeOf : CheckResult → Nat
  | .good => 0
  | .mismatch _ => 1
  | .parity _ => 2

/-- The battery-held store is GOOD (R191). -/
def Store.good (s : Store) : Bool := s.retention && s.checkMatches

/-- Every write point confirmed flag is cleared (R83). -/
def Store.unconfirmed (s : Store) : Store :=
  let clear := fun (x : SideRec) => { x with confirmed := false }
  { s with volumes := s.volumes.map (fun o => o.map (fun (v : Volume) =>
      { v with sideA := clear v.sideA, sideB := clear v.sideB })) }

/-- Every RESERVED relocation entry is released to FREE (R170, R171). -/
def Store.releaseReserved (s : Store) : Store :=
  { s with relocs := s.relocs.map (fun e =>
      match e with
      | .free => .free
      | .reserved _ => .free
      | .awaitingAck o n => .awaitingAck o n) }

/-- A pair that a power-up finds ACTIVE on side B has its side B labels judged before a page is burned (R148, log entry
29). -/
def Run.judgeSideB (r : Run) : Run :=
  match r.store.pair with
  | .active _ _ .b => { r with filing := { r.filing with turned := true } }
  | .active _ _ .a => r
  | .absent => r
  | .establishing _ _ _ _ _ => r
  | .closing _ _ _ _ => r

/-- Step 3 of a power-up that goes on (R191): a LOST store is cleared, a GOOD one takes each block's power-up
changes (R83, R156, R170). -/
def Run.checkStore (r : Run) : Run :=
  if r.store.good then
    Run.judgeSideB (Run.completeClose (Run.abandonPair { r with store := r.store.unconfirmed.releaseReserved }))
  else { r with store := Store.lost }

/-- The check has ended: steps 3 and 4 begin, or the failed-check mode, in which no event of the
mechanism is taken, with the one write of its record (R190). -/
def Run.checkEnds (r : Run) (result : CheckResult) : Run :=
  let stage : Stage := if checkCodeOf result = 0 then .drives else .failed
  let r : Run := { r with startup := { r.startup with
    stage := stage, batteryGood := r.store.good, checkCode := checkCodeOf result, initNext := some 0 } }
  if checkCodeOf result = 0 then r.checkStore else r

/-- CONTROL_AREA_CHECK_DONE (R190, R191). -/
def execControlAreaCheckDone (result : CheckResult) (s : State) : Host.Outcome State Fault Refusal :=
  outcome (.controlAreaCheckDone result)
    (if s.startup.stage = .checking then
       State.act { s with mem := s.mem.checked result } (fun r => r.checkEnds result)
     else s)

/-- INITIALIZATION_DONE (R192): the last start-up write of an initialization completes. -/
def execInitializationDone (s : State) : Host.Outcome State Fault Refusal :=
  outcome .initializationDone (if s.lastStartWrite then s.completeAccess [] else s)

/-- SETTINGS_WRITE_DONE (R195). -/
def execSettingsWriteDone (s : State) : Host.Outcome State Fault Refusal :=
  outcome .settingsWriteDone
    (match s.startup.configWriting with
     | none => s
     | some bytes => s.settingsWritten bytes)

/-! ### System reset (R193) -/

/-- The write that an internal transfer holding the port completes at a system reset (R40). -/
def Run.writeInPort (r : Run) : Purpose → Option MemWrite
  | .stream i => (r.streamAt i).bind (fun st => if st.loading then none else some (r.streamWrite st))
  | .slotWork =>
    match r.slot.work with
    | .writeBack _ ws :: _ => ws[r.slot.workDone]?
    | .notice pos n :: _ => some { addr := noticeAddr pos, bytes := n.bytes }
    | .acceptance _ :: _ => none
    | [] => none
  | .startWrite => r.startup.initNext.map (fun k => startWrite r.startup k)
  | .accountRecord => none
  | .logRecord => none
  | .inventoryRecord => none
  | .settingsRead => none
  | .orphan w => w

/-- The port at a system reset (R23, R40): a system transfer completes without an answer, an internal one completes its
memory access and is told to nobody. -/
def Run.portAtReset (r : Run) : Port :=
  match r.path.port with
  | .free => .free
  | .system t _ => .system t false
  | .mover m p => .mover m (.orphan (r.writeInPort p))

/-- The Path Unit at a system reset (R40); the turn pointer is kept. -/
def Run.resetPath (r : Run) : Run :=
  { r with path := { r.path with port := r.portAtReset, waiting := none, fairness := 0 } }

/-- Numbers of the frames, ascending, whose record satisfies a test. -/
def numbersWhere (p : Frame → Bool) : Nat → List Frame → List Nat
  | _, [] => []
  | n, f :: fs => if p f then n :: numbersWhere p (n + 1) fs else numbersWhere p (n + 1) fs

/-- A frame after a system reset: SEALED without holds, or EMPTY (R20). -/
def Frame.afterReset : Frame → Frame
  | .empty => .empty
  | .filling _ _ _ _ _ _ _ => .empty
  | .sealed t i d c _ => .sealed t i d c []
  | .scan _ => .empty
  | .filing _ _ _ _ => .empty

/-- The Frame Unit at a system reset (R20). -/
def FrameUnit.afterReset (u : FrameUnit) : FrameUnit :=
  let frames := u.frames.map Frame.afterReset
  { frames := frames, emptyList := numbersWhere (fun f => f == .empty) 1 frames,
    reclaim := numbersWhere (fun f => f != .empty) 1 frames, waitQueue := [] }

/-- The Slot Unit from a system reset to its initialization (R61): every request has ended and the work list is
withdrawn.  A slot still CLAIMED stays so until it is initialized, for a write that already holds the port. -/
def SlotUnit.afterReset (u : SlotUnit) : SlotUnit :=
  { SlotUnit.start with
    slots := u.slots.map (fun x => if x.state = .claimed then x else SlotRec.blank), held := u.held }

/-- The Picker Controller at a system reset (R84): the move goes on and tells no requester, the other orders are
removed, the OPEN HATCH requests are gone, and order numbers are counted from 1 again (R70). -/
def Picker.afterReset (p : Picker) : Picker :=
  let what := fun (w : MoveFor) => match w with
    | .order o => MoveFor.order { o with requester := .nobody }
    | .reHome => .reHome
    | .putAway => .putAway
    | .probe c => .probe c
  { p with orders := [], nextOrder := 1, hatchOps := [], move := p.move.map (fun m => { m with what := what m.what }) }

/-- A buffer that a system reset frees: HELD, LOADING, or READING (R100). -/
def BufferState.dropped : BufferState → Bool
  | .free => false
  | .reading => true
  | .held => true
  | .loading => true
  | .burning => false
  | .verifying => false

/-- A Drive Controller at a system reset (R100): reads are discarded and their buffers freed, burns and verifies go
on, a RESTORE is discarded, and an UNLOADING drive whose order is gone reloads (R94), one whose UNLOAD a RESTORE DRIVE
asked for among them (log entry 69). -/
def Run.resetDrive (r : Run) (d : Nat) : Run :=
  let free := fun (r : Run) (b : Nat) => if ((r.driveAt d).buf b).state.dropped then r.freeBuffer d b else r
  let r := free (free r 0) 1
  let r := r.modDrive d (fun v =>
    { v with asks := [], rereads := [], unloadAsked := false,
             command := v.command.map (fun c => if c.command = .restore then { c with discard := true } else c) })
  let r := if (r.driveAt d).state = .unloading then r.reload d else r
  r.push (.drive d)

/-- A copy of an item in flight after a system reset: one whose BURN had been handed and not issued is taken as FAIL
(R157). -/
def Run.copyAtReset (r : Run) (c : Copy) : Copy :=
  if c.state = .handed ∧ ((r.driveAt c.drive).buf c.buf).state = .loading then { c with state := .failed } else c

/-- The Filing Unit at a system reset (R157), judged before the buffers are freed.  Whether side B is still to be judged
is kept (log entry 29). -/
def Run.resetFiling (r : Run) : Run :=
  let flight := (r.filing.flight.filter (fun f => f.handedOver)).map (fun f =>
    { f with job := none, primary := f.primary.map r.copyAtReset, safety := f.safety.map r.copyAtReset })
  { r with filing := { r.filing with burns := [], flight := flight, closeOps := [] } }

/-- The Media Check Unit at a system reset (R171). -/
def Run.resetMedia (r : Run) : Run :=
  let r := r.media.relocJobs.foldl (fun r q => r.markLog q.entries .deferred) r
  { r with media := { r.media with judging := [], relocJobs := [] }, store := r.store.releaseReserved }

/-- The Start-Up Unit begins its reset sequence (R193, R195). -/
def StartUp.afterReset (u : StartUp) : StartUp :=
  { u with initNext := some 0, cause := .systemReset, started := false, settleReported := false, settingsOps := [] }

/-- A system reset past the control-area check, block by block. -/
def Run.systemReset (r : Run) : Run :=
  let r := (r.resetPath.resetFiling).resetMedia
  let r : Run := { r with
    frame := r.frame.afterReset, slot := r.slot.afterReset, picker := r.picker.afterReset, restores := [],
    sched := Scheduler.start, retr := Retrieval.start, stmts := Statements.start,
    fee := FeeMeter.start r.fee.fees, startup := r.startup.afterReset }
  let r := [0, 1, 2, 3].foldl Run.resetDrive r
  if r.filing.flight.isEmpty then r.resetSettled else r.push .pump

/-- The port's transfer is a statement's record, which is one claim with its account or entry (R69, R169, R187). -/
def State.recordInPort (s : State) : Bool :=
  s.moving == some .accountRecord || s.moving == some .logRecord || s.moving == some .inventoryRecord

/-- The failed-check mode at a bus reset: a system transfer that holds the port completes without an answer (R23). -/
def Run.failedReset (r : Run) : Run :=
  let port : Port := match r.path.port with
    | .system t _ => .system t false
    | .free => .free
    | .mover m p => .mover m p
  { r with path := { r.path with port := port, waiting := none, fairness := 0 } }

/-- The blocks at a bus reset, in each stage of the part (R23, R190, R192, R193). -/
def State.blocksReset (s : State) : State :=
  match s.startup.stage with
  | .off => s
  | .checking => s.act (fun r => { r with path := { r.path with waiting := none } })
  | .failed => s.act Run.failedReset
  | .drives => s.act Run.systemReset
  | .audit => s.act Run.systemReset
  | .done => s.act Run.systemReset

/-- The bus reset: a statement's record in the port completes, and then the blocks are reset. -/
def State.busReset (s : State) : State := (if s.recordInPort then s.completeAccess [] else s).blocksReset

/-- SYSTEM_RESET (R193). -/
def execSystemReset (s : State) : Host.Outcome State Fault Refusal := outcome .systemReset s.busReset

/-! ### Loss of main power (R191) -/

/-- The battery-held store while main power is absent (R191). -/
def Store.through (s : Store) : StoreFate → Store
  | .kept => s
  | .supplyFailed => { s with retention := false }
  | .corrupted => { s with checkMatches := false }

/-- Without main power: everything that is not battery-held or in the configuration memory is gone, and a
configuration memory write in progress leaves a record that is not good (R195). -/
def State.powerLost (s : State) (fate : StoreFate) : State :=
  let p := Parts.start false false zeroFees (s.store.through fate)
  let cut := s.startup.configWriting.isSome
  { s with toParts := { p with startup := { p.startup with stage := .off } }, settings := defaultSettings,
           config := { s.config with whole := s.config.whole && !cut } }

/-- MAIN_POWER_LOSS (R191). -/
def execMainPowerLoss (fate : StoreFate) (s : State) : Host.Outcome State Fault Refusal :=
  outcome (.mainPowerLoss fate) (if s.startup.stage = .off then s else s.powerLost fate)

end Sys2Proof.Machine
end

