-- ==== Sys2Proof/Machine/Dispatch.lean ====
section
/-! DEFINITION. Dispatch.lean: one arm per command. -/

namespace Sys2Proof.Machine

def exec (i : Instr) (s : State) : Host.Outcome State Fault Refusal :=
  match i with
  | .powerUp delivered => Sys2Proof.Machine.execPowerUp delivered s
  | .controlAreaCheckDone result => Sys2Proof.Machine.execControlAreaCheckDone result s
  | .initializationDone => Sys2Proof.Machine.execInitializationDone s
  | .systemReset => Sys2Proof.Machine.execSystemReset s
  | .systemTransfer t => Sys2Proof.Machine.execSystemTransfer t s
  | .claimRead master slot => Sys2Proof.Machine.execClaimRead master slot s
  | .post master slot => Sys2Proof.Machine.execPost master slot s
  | .releaseClaim master slot => Sys2Proof.Machine.execReleaseClaim master slot s
  | .releaseSlot master slot => Sys2Proof.Machine.execReleaseSlot master slot s
  | .cancel master slot => Sys2Proof.Machine.execCancel master slot s
  | .stateWordRefused master slot value => Sys2Proof.Machine.execStateWordRefused master slot value s
  | .consumerIndexWrite master value => Sys2Proof.Machine.execConsumerIndexWrite master value s
  | .portGrant => Sys2Proof.Machine.execPortGrant s
  | .memoryAccessComplete bad => Sys2Proof.Machine.execMemoryAccessComplete bad s
  | .acceptanceReadDone bad => Sys2Proof.Machine.execAcceptanceReadDone bad s
  | .settingsWriteDone => Sys2Proof.Machine.execSettingsWriteDone s
  | .accountStatementRecord => Sys2Proof.Machine.execAccountStatementRecord s
  | .logStatementRecord => Sys2Proof.Machine.execLogStatementRecord s
  | .inventoryStatementRecord => Sys2Proof.Machine.execInventoryStatementRecord s
  | .writeBackDone => Sys2Proof.Machine.execWriteBackDone s
  | .noticeWriteDone => Sys2Proof.Machine.execNoticeWriteDone s
  | .moveEnd => Sys2Proof.Machine.execMoveEnd s
  | .importProbeResult probe => Sys2Proof.Machine.execImportProbeResult probe s
  | .moveTimeout => Sys2Proof.Machine.execMoveTimeout s
  | .handoffPlaced cell => Sys2Proof.Machine.execHandoffPlaced cell s
  | .handoffTaken cell => Sys2Proof.Machine.execHandoffTaken cell s
  | .hatchButton => Sys2Proof.Machine.execHatchButton s
  | .releaseWindowExpiry => Sys2Proof.Machine.execReleaseWindowExpiry s
  | .hatchOpened => Sys2Proof.Machine.execHatchOpened s
  | .hatchClosed => Sys2Proof.Machine.execHatchClosed s
  | .reHomeEnd holdsPlatter => Sys2Proof.Machine.execReHomeEnd holdsPlatter s
  | .probeResult probe => Sys2Proof.Machine.execProbeResult probe s
  | .loadComplete drive result => Sys2Proof.Machine.execLoadComplete drive result s
  | .powerUpLoadComplete drive result => Sys2Proof.Machine.execPowerUpLoadComplete drive result s
  | .findWritePointComplete drive result => Sys2Proof.Machine.execFindWritePointComplete drive result s
  | .readComplete drive result => Sys2Proof.Machine.execReadComplete drive result s
  | .rereadComplete drive result => Sys2Proof.Machine.execRereadComplete drive result s
  | .sectorPlaced => Sys2Proof.Machine.execSectorPlaced s
  | .relocationJobHit frame => Sys2Proof.Machine.execRelocationJobHit frame s
  | .bufferLoaded drive bad => Sys2Proof.Machine.execBufferLoaded drive bad s
  | .burnComplete drive ok => Sys2Proof.Machine.execBurnComplete drive ok s
  | .verifyComplete drive result => Sys2Proof.Machine.execVerifyComplete drive result s
  | .unloadComplete drive ok => Sys2Proof.Machine.execUnloadComplete drive ok s
  | .restoreComplete drive present => Sys2Proof.Machine.execRestoreComplete drive present s
  | .driveTimeout drive => Sys2Proof.Machine.execDriveTimeout drive s
  | .sweepIdleExpiry port => Sys2Proof.Machine.execSweepIdleExpiry port s
  | .mainPowerLoss fate => Sys2Proof.Machine.execMainPowerLoss fate s

end Sys2Proof.Machine
end

