-- ==== Sys2Proof/Machine/Step.lean ====
section
/-! DEFINITION. Step.lean: one step of the part: the command at the front of the queue, or a tenth of a second
in which nothing arrives. -/

namespace Sys2Proof.Machine

/-- One step: the command at the front of the queue is carried out on the state with the queue's rest; with an
empty queue 0.1 s passes (00_scope.md 5.3, log entries 1 and 6). -/
def step (s : State) : Host.Outcome State Fault Refusal :=
  match s.pending with
  | [] => .next { s with now := s.now + 1 }
  | c :: rest => exec c { s with pending := rest }

/-- The state with the command that a table word spells at the front of its queue: no row of the table gives
bits, so no word spells one. -/
def State.withFetchWord (s : State) (nbits w : Nat) : State :=
  match decodeTableWord nbits w with
  | some c => { s with pending := c :: s.pending }
  | none => s

end Sys2Proof.Machine
end

