-- ==== Sys2Proof/Safety.lean ====
section
/-! DEFINITION. Safety.lean: the words in which claims about the LR-490 are stated: what a well-formed state is, what
the blocks' records always satisfy, when the part is in service, states in which no work waits, and states that differ
in one record. -/

namespace Sys2Proof.Machine

/-- The invariant every step keeps: document memory is in its canonical form. -/
def State.Canonical (s : State) : Prop := s.mem.wf = true

/-- The serial numbers that volume records hold (R65). -/
def serialsOf (vs : List (Option Volume)) : List Nat := vs.filterMap (fun o => o.map (fun v => v.serial))

/-- The old location that a relocation table entry in use records (R163). -/
def RelocEntry.oldLocation : RelocEntry → Option Location
  | .free => none
  | .reserved old => some old
  | .awaitingAck old _ => some old

/-- The old locations that entries of the relocation table record (R163). -/
def oldLocationsOf (es : List RelocEntry) : List Location := es.filterMap RelocEntry.oldLocation

/-- A SEALED frame with no hold (R3, R6). -/
def Frame.SealedUnheld (f : Frame) : Prop := ∃ tag info damaged corrected, f = .sealed tag info damaged corrected []

/-- The empty list holds the numbers of the EMPTY frames and no other, ascending, and the reclaim list holds SEALED
frames without holds, none of them twice (R3, R5, R6). -/
def FrameUnit.ListsSound (u : FrameUnit) : Prop :=
  u.emptyList.Pairwise (· < ·) ∧ (∀ n, n ∈ u.emptyList ↔ 0 < n ∧ u.frames[n - 1]? = some .empty) ∧
    u.reclaim.Nodup ∧ ∀ n ∈ u.reclaim, 0 < n ∧ ∃ f, u.frames[n - 1]? = some f ∧ f.SealedUnheld

/-- What the blocks' records always satisfy: the fairness count is at most 8 (R38); the ring's indices are below 64, and
its unread records and the room kept for notices not yet written are together at most 63 (R57); at most 6 jobs are
suspended (R115); no serial has two volume records (R65); no two relocation entries record one old location (R163); and
the frame lists are sound. -/
def Parts.RecordsSound (p : Parts) : Prop :=
  p.path.fairness ≤ 8 ∧ p.slot.producer < 64 ∧ p.slot.consumer < 64 ∧
    p.slot.unread + p.slot.reserved.length ≤ 63 ∧ p.sched.suspended.length ≤ 6 ∧
    (serialsOf p.store.volumes).Nodup ∧ (oldLocationsOf p.store.relocs).Nodup ∧ p.frame.ListsSound

/-- The part has no main power: every block is as the loss of power left it, and only the battery-held store lives
(R191). -/
def State.Unpowered (s : State) : Prop :=
  s.toParts = { Parts.start false false zeroFees s.store with
    startup := { StartUp.start false with stage := .off } }

/-- The control area is in service and the system bus is free, so that a transfer is judged as it arrives (R23, R37). -/
def State.Ready (s : State) : Prop := s.startup.inService = true ∧ s.path.busFree = true

/-- The slot record of a slot (R41). -/
def State.slotRec (s : State) (n : Nat) : SlotRec := s.slot.slots.getD n SlotRec.blank

/-- An image frame's record (R1). -/
def State.frameAt (s : State) (n : Nat) : Frame := (Run.of s).frameAt n

/-- The state with an answer given on the bus. -/
def State.answering (s : State) (master : Nat) (x : BusAnswer) : State :=
  { s with path := { s.path with answer := some (master, x) } }

/-- The state with the record of a slot changed. -/
def State.withSlot (s : State) (n : Nat) (f : SlotRec → SlotRec) : State :=
  { s with slot := { s.slot with slots := s.slot.slots.modify n f } }

/-- The state after a violation of a class has been counted and its notice taken (R34, R35, R57). -/
def State.withViolation (s : State) (master addr : Nat) (reason : Reason) : State :=
  { s with path := s.path.countViolation (s.settings.agent master).cls,
           slot := s.slot.takeNotice (.violation master (s.settings.agent master) addr reason) }

/-- The record of a drive (R85). -/
def State.driveRec (s : State) (d : Nat) : Drive := s.drives.getD d Drive.start

/-- The state with the record of a drive changed. -/
def State.withDrive (s : State) (d : Nat) (f : Drive → Drive) : State := { s with drives := s.drives.modify d f }

/-- The state with the record of a volume changed. -/
def State.withVolume (s : State) (n : Nat) (f : Volume → Volume) : State :=
  { s with store := ((Run.of s).modVolume n f).store }

/-- The volume recorded in a place, if any (R65). -/
def State.volumeIn (s : State) (l : Loc) : Option Volume := (Run.of s).volumeIn l

/-- The state with a notice taken while the control area is in service (R57). -/
def State.noticing (s : State) (n : Notice) : State := { s with slot := s.slot.takeNotice n }

/-- The state once the Frame Mover has presented its next transfer, where it may present one (R39, R88). -/
def State.presenting (s : State) : State := { s with mover := (Run.of s).presentNext.mover }

/-- The state after the blocks have taken a list of consequences, first in first out, and then a dispatch pass if one is
wanted: what the first effect of a command is followed by, inside the command (log entries 8 and 9). -/
def State.following (s : State) (told : List Todo) (pass : Bool) : State :=
  s.act (fun r => { r with todo := told, pass := pass })

/-- The sixteenth read of the acceptance of slot `n`, whose record is `x`, holds the port, and no read of it meets a
parity fault (R50). -/
def State.Accepts (s : State) (n : Nat) (x : SlotRec) (rest : List WorkJob) : Prop :=
  s.path.port = .mover .slotUnit .slotWork ∧ s.slot.work = .acceptance n :: rest ∧ s.slot.workDone = 15 ∧
    s.slot.slots[n]? = some x ∧ x.state = .posted ∧ x.outcome = none ∧ s.slot.acceptFault = false ∧
    s.mem.faults (slotBase n + 480) 32 = false

/-- The 512 bytes of slot `n`, as its acceptance reads give them (R50). -/
def State.request (s : State) (n : Nat) : List Byte := s.slot.acceptData ++ s.mem.readBytes (slotBase n + 480) 32

/-- The state after the acceptance of slot `n`, whose kind is `k`: the slot has its kind, its notify flag and the next
acceptance number and is changed by `f`, and `more` joins the work list (R50). -/
def State.acceptedAs (s : State) (n : Nat) (x : SlotRec) (rest : List WorkJob) (k : Kind) (f : SlotRec → SlotRec)
    (more : List WorkJob) : State :=
  { s.freePort with slot := { s.slot with
      workDone := 0, acceptData := [], acceptFault := false, acceptKindFault := false,
      nextAge := satInc 4294967295 s.slot.nextAge,
      slots := s.slot.slots.set n
        (f { x with kind := some k, notify := some (reqNotify (s.request n)), age := some s.slot.nextAge }),
      work := rest ++ more } }

/-- A request that fails its validation with a code (R51, R54). -/
def State.acceptFails (s : State) (n : Nat) (x : SlotRec) (rest : List WorkJob) (k : Kind) (c : Code) : State :=
  s.acceptedAs n x rest k (fun y => { y with jobRef := none, outcome := some { done := false, code := c, count := 0 } })
    [.writeBack n [{ addr := slotBase n + 12, bytes := leBytes 2 c.value ++ leBytes 2 0 }]]

/-- An immediate request that ends DONE at its acceptance (R53, R54). -/
def State.acceptEnds (s : State) (n : Nat) (x : SlotRec) (rest : List WorkJob) (k : Kind) (count : Nat)
    (results : List (Nat × List Byte)) : State :=
  let e : Ended := { done := true, code := .ok, count := count }
  s.acceptedAs n x rest k (fun y => { y with state := .active, jobRef := none, outcome := some e })
    [.writeBack n (writeBackWrites n e results)]

/-- An immediate request whose operation begins at its acceptance and takes time (R53). -/
def State.acceptBegins (s : State) (n : Nat) (x : SlotRec) (rest : List WorkJob) (k : Kind) : State :=
  s.acceptedAs n x rest k (fun y => { y with state := .active, jobRef := some .operation }) []

/-- A queued request whose job is created at its acceptance: the newest of its level, with the request's acceptance
number as its age (R52, R101, R103). -/
def State.acceptQueued (s : State) (n : Nat) (x : SlotRec) (rest : List WorkJob) (k : Kind) (kind : JobKind)
    (level : Nat) : State :=
  let id := s.sched.nextJob
  { s.acceptedAs n x rest k (fun y => { y with state := .accepted, jobRef := some (.job id) }) [] with
    sched := { s.sched with
      jobs := s.sched.jobs ++ [{ id := id, kind := kind, level := level, age := s.slot.nextAge, slot := some n,
                                 state := .queued, started := false, needs := [], pair := none,
                                 pendingPreempt := false, awaited := [], cancelTaken := false }],
      queues := s.sched.queues.modify level (fun q => q ++ [id]),
      nextJob := id + 1 } }

/-- No work waits in the blocks: no job and no assignment of a drive, no page task, no picker order, no item in flight
whose copies all have their results, no CLOSE FILING PAIR and no RESTORE DRIVE. -/
def Parts.Calm (p : Parts) : Prop :=
  p.sched.jobs = [] ∧ p.sched.queues = [[], [], [], []] ∧ p.sched.suspended = [] ∧
    p.sched.assigns = List.replicate 4 Assign.clear ∧ p.frame.waitQueue = [] ∧ p.retr.fetches = [] ∧
    p.retr.tasks = [] ∧ p.picker.orders = [] ∧ (∀ f ∈ p.filing.flight, f.settled = false) ∧
    p.filing.closeOps = [] ∧ p.restores = []

/-- The part is past its start-up sequence, no work waits in its blocks, no audit runs and no release of the hatch is
pending. -/
def State.Quiet (s : State) : Prop :=
  s.toParts.Calm ∧ s.startup.stage = .done ∧ s.startup.started = true ∧ s.startup.initNext = none ∧
    s.picker.audit = none ∧ s.picker.hatch ≠ .releasePending

end Sys2Proof.Machine
end

