-- ==== Sys2Proof/Certificates/Slice0/Obligations.lean ====
section
/-! DEFINITION. Obligations.lean: what is claimed of the LR-490, for the provers.  A clause that rests on a choice of
the model and not on a rule of the spec names the log entry it rests on. -/

open Sys2Proof Sys2Proof.Machine Sys2Proof.Config

/-! ### The queue, the clock, and what any command may change -/

/-- A step takes the command at the front of the queue and carries it out on the state with the queue's rest. -/
def Obligations.StepRunsTheCommandInFront : Prop :=
  ∀ (s : State) (c : Instr) (rest : List Instr), s.pending = c :: rest → step s = exec c { s with pending := rest }

/-- With nothing commanded a step lets a tenth of a second pass and changes nothing else (log entry 1). -/
def Obligations.EmptyQueueLetsATenthOfASecondPass : Prop :=
  ∀ s : State, s.pending = [] → step s = .next { s with now := s.now + 1 }

/-- Every command whose operands exist on the hardware completes, and any other stops with the one fault (log entry
3). -/
def Obligations.CommandsCompleteExactlyWhenWellFormed : Prop :=
  ∀ (c : Instr) (s : State),
    (c.wf = true → ∃ t, exec c s = .next t ∧ t.pending = s.pending) ∧
    (c.wf = false → exec c s = .fault .noSuchCommand)

/-- Every step keeps document memory in its canonical form. -/
def Obligations.EveryStepKeepsMemoryCanonical : Prop :=
  ∀ s t : State, s.Canonical → step s = .next t → t.Canonical

/-- Every step keeps the blocks' records sound: the fairness count at most 8 (R38), the ring's unread records and the
room kept for notices together at most 63 (R57), at most 6 jobs suspended (R115), no serial with two volume records
(R65), no two relocation entries with one old location (R163), the empty list the EMPTY frames in ascending order and the
reclaim list SEALED frames without holds (R3, R5, R6). -/
def Obligations.EveryStepKeepsTheRecordsSound : Prop :=
  ∀ s t : State, s.toParts.RecordsSound → step s = .next t → t.toParts.RecordsSound

/-- At reset document memory is in its canonical form and the blocks' records are sound, which every step then keeps. -/
def Obligations.ResetMemoryIsCanonical : Prop := State.reset.Canonical ∧ State.reset.toParts.RecordsSound

/-- The clock never runs back. -/
def Obligations.ClockNeverRunsBack : Prop := ∀ s t : State, step s = .next t → s.now ≤ t.now

/-- The working settings change only when main power comes or goes (R189: each block loads its settings at
power-up and keeps them until the next). -/
def Obligations.SettingsChangeOnlyWithMainPower : Prop :=
  ∀ (c : Instr) (s t : State), exec c s = .next t → (∀ d, c ≠ .powerUp d) → (∀ f, c ≠ .mainPowerLoss f) →
    t.settings = s.settings

/-- The configuration memory changes only when a write of it ends or is cut short by the loss of main power (R195),
and the loss of power changes none of its bytes. -/
def Obligations.ConfigurationMemoryChangesOnlyByItsWrite : Prop :=
  ∀ (c : Instr) (s t : State), exec c s = .next t → c ≠ .settingsWriteDone →
    t.config.bytes = s.config.bytes ∧ ((∀ f, c ≠ .mainPowerLoss f) → t.config = s.config)

/-- Document memory changes only where an access to it completes or the control-area check runs (R36, R37): every other
command leaves every byte of it.  That a power-up and a loss of power leave it is log entry 34; that a statement record
in the port completes at a system reset is log entry 24. -/
def Obligations.MemoryChangesOnlyAtAnAccess : Prop :=
  ∀ (c : Instr) (s t : State), exec c s = .next t →
    (match c with
     | .controlAreaCheckDone _ | .initializationDone | .memoryAccessComplete _ | .acceptanceReadDone _
     | .accountStatementRecord | .logStatementRecord | .inventoryStatementRecord | .writeBackDone | .noticeWriteDone
     | .sectorPlaced | .bufferLoaded _ _ => False
     | .systemReset => s.recordInPort = false
     | _ => True) →
    t.mem = s.mem

/-! ### Power-up, the control-area check, initialization, reset, loss of power -/

/-- Without main power every command but POWER_UP changes nothing (log entry 2). -/
def Obligations.WithoutMainPowerOnlyPowerUpActs : Prop :=
  ∀ (c : Instr) (s : State), s.Unpowered → c.wf = true → (∀ d, c ≠ .powerUp d) → exec c s = .next s

/-- R40, R61, R83, R99, R117, R134, R156, R170, R172, R188, R189, R190: a power-up loads the settings of a record that is
delivered, whole and good, and the defaults otherwise; every block takes its power-up values, no stream, no RESTORE DRIVE
operation and no statement is in hand, the battery-held store stands, and the control-area check is in hand.
That document memory is not changed is log entry 34, and the start values of the model's own fields, the Fee Meter's
`nextOrder` among them, are log entry 35. -/
def Obligations.PowerUpLoadsTheSettings : Prop :=
  ∀ (s : State) (delivered : Bool), s.startup.stage = .off →
    let good := delivered && s.config.whole && settingsGood s.config.bytes
    ∃ t, exec (.powerUp delivered) s = .next t ∧
      t.settings = (if good then settingsOf s.config.bytes else defaultSettings) ∧
      t.fee.fees = (if good then feesAt s.config.bytes 40 else zeroFees) ∧
      t.startup.stage = .checking ∧ t.startup.settingsGood = good ∧ t.startup.started = false ∧
      t.path = PathUnit.start ∧ t.slot = SlotUnit.start ∧ t.picker = Picker.start ∧
      t.drives = List.replicate 4 Drive.start ∧ t.sched = Scheduler.start ∧ t.retr = Retrieval.start ∧
      t.filing = Filing.start ∧ t.media = MediaCheck.start ∧ t.fee.grants = List.replicate 512 none ∧
      t.fee.cursors = List.replicate 8 none ∧ t.fee.nextGrant = 1 ∧ t.fee.nextOrder = 1 ∧
      t.mover = FrameMover.start ∧ t.restores = [] ∧ t.stmts = Statements.start ∧
      t.store = s.store ∧ t.mem = s.mem ∧ t.config = s.config ∧ t.now = s.now

/-- R19: the frames a power-up sets up: one record per image frame of the configured memory, every one EMPTY and in
the empty list in ascending order, the reclaim list, the frame-wait queue and the grant table empty; and the
control-area check writes only frame 0.  That the power-up leaves document memory is log entry 34. -/
def Obligations.PowerUpMakesEveryFrameEmpty : Prop :=
  (∀ (s : State) (delivered : Bool), s.startup.stage = .off →
    ∃ t, exec (.powerUp delivered) s = .next t ∧
      t.frame.frames = List.replicate (if t.settings.mem64 then 511 else 255) Frame.empty ∧
      t.frame.emptyList = (List.range (if t.settings.mem64 then 511 else 255)).map (· + 1) ∧
      t.frame.reclaim = [] ∧ t.frame.waitQueue = [] ∧ (∀ n, t.fee.grantCount n = 0) ∧ t.mem = s.mem) ∧
  (∀ (s : State) (result : CheckResult), (Instr.controlAreaCheckDone result).wf = true → s.startup.stage = .checking →
    ∃ t, exec (.controlAreaCheckDone result) s = .next t ∧
      ∀ a, 131072 ≤ a → t.mem.read a = s.mem.read a)

/-- R190: a failed control-area check holds the part: the check code says whether a word differed or memory reported
a parity fault, the start-up record is the next write, and no block but the Start-Up Unit changes.  The first clause is the
model's choice, log entry 32: in that mode no event of the mechanism is taken, so no report of the arm, of a sensor, of the
hatch or of its button changes anything.  (The expiry of a release window is not among the commands named: log entry 100.) -/
def Obligations.FailedCheckHoldsThePart : Prop :=
  (∀ (s : State) (c : Instr), s.startup.stage = .failed → c.wf = true →
    (match c with
     | .moveEnd | .importProbeResult _ | .moveTimeout | .handoffPlaced _ | .handoffTaken _ | .hatchButton | .hatchOpened
     | .hatchClosed | .reHomeEnd _ | .probeResult _ => True
     | _ => False) →
    exec c s = .next s) ∧
  ∀ (s : State) (a : Nat), s.startup.stage = .checking → a < 131072 →
    exec (.controlAreaCheckDone (.mismatch a)) s =
      .next { s with mem := s.mem.checked (.mismatch a),
                     startup := { s.startup with stage := .failed, batteryGood := s.store.good, checkCode := 1,
                                                 initNext := some 0 } } ∧
    exec (.controlAreaCheckDone (.parity a)) s =
      .next { s with mem := s.mem.checked (.parity a),
                     startup := { s.startup with stage := .failed, batteryGood := s.store.good, checkCode := 2,
                                                 initNext := some 0 } }

/-- R83, R137, R144, R149, R156, R170, R190, R191: after a good check steps 3 and 4 begin.  A LOST store is cleared.  A GOOD one keeps
its records with every confirmed flag clear and every RESERVED relocation entry FREE; an ESTABLISHING filing pair record
is abandoned, its volumes whose labels were attempted RETIRED, the primary before the safety (the model's order: log entry
89), with a BLANKS_LOW notice for each of the two whose change lets the BLANK count fall to a value below 4, kept behind the
notices that wait for STARTED; a CLOSING one completes its close, with a PAIR_CLOSED notice; and an ACTIVE one is kept, its
side B labels still to be judged where side B is current (log entry 29).  Nothing else changes. -/
def Obligations.GoodCheckTakesTheStore : Prop :=
  ∀ s : State, s.startup.stage = .checking →
    let kept := s.store.unconfirmed.releaseReserved
    let begun : State :=
      { s with mem := s.mem.checked .good,
               startup := { s.startup with stage := .drives, batteryGood := s.store.good, checkCode := 0,
                                           initNext := some 0 } }
    let changed (f : Volume → Volume) (test : Volume → Bool) : Store :=
      { kept with pair := .absent,
                  volumes := kept.volumes.map (fun o => o.map (fun v => if test v then f v else v)) }
    (kept.accounts = s.store.accounts ∧ kept.deedSeq = s.store.deedSeq ∧
      kept.missingCounter = s.store.missingCounter ∧ kept.pair = s.store.pair ∧
      kept.volumes = s.store.volumes.map (fun o => o.map (fun v =>
        { v with sideA := { v.sideA with confirmed := false }, sideB := { v.sideB with confirmed := false } })) ∧
      kept.relocs = s.store.relocs.map (fun e => match e with
        | .awaitingAck o n => .awaitingAck o n
        | _ => .free)) ∧
    (s.store.good = false → exec (.controlAreaCheckDone .good) s = .next { begun with store := Store.lost }) ∧
    (s.store.good = true →
      (s.store.pair = .absent → exec (.controlAreaCheckDone .good) s = .next { begun with store := kept }) ∧
      (∀ p q side, s.store.pair = .active p q side →
        exec (.controlAreaCheckDone .good) s =
          .next { begun with store := kept,
                             filing := { s.filing with turned := s.filing.turned || side == .b } }) ∧
      (∀ p q side tp tq, s.store.pair = .establishing p q side tp tq →
        let retired (hit : Volume → Bool) : Store :=
          changed (fun v => { v with role := .retired, partner := none, pairClosed := none }) hit
        let first := retired (fun v => tp && v.serial == p)
        let both := retired (fun v => (tp && v.serial == p) || (tq && v.serial == q))
        let blanks (x : Store) : Nat :=
          (x.volumes.filter (fun o => o.any (fun v => v.role == .blank && v.loc != .missing))).length
        let low (x y : Store) : List Notice :=
          if blanks y < blanks x ∧ blanks y < 4 then [.blanksLow (blanks y)] else []
        exec (.controlAreaCheckDone .good) s =
          .next { begun with
            store := both, slot := { s.slot with held := s.slot.held ++ low kept first ++ low first both } }) ∧
      (∀ p q side cause, s.store.pair = .closing p q side cause →
        exec (.controlAreaCheckDone .good) s =
          .next { begun with
            store := changed (fun v => { v with pairClosed := some true })
              (fun v => v.serial == p || v.serial == q),
            slot := { s.slot with held := s.slot.held ++ [.pairClosed p q cause] } }))

/-- R61, R99, R192, R193: the last start-up write puts the control area in service, with position 0 of the ring reserved
for STARTED.  After a power-up it issues the power-up LOAD of every drive.  After a system reset past the start-up
sequence, with nothing more to wait for, STARTED is taken at once (here with no volume UNVERIFIED, so that no label check
is made). -/
def Obligations.InitializationPutsTheSlotUnitInService : Prop :=
  ∀ s : State, s.startup.initNext = some 72 → s.path.port = .mover .startUp .startWrite → s.slot.held = [] →
    let wrote : State := { s with mem := s.mem.write (slotBase 63) (leBytes 4 0), path := { s.path with port := .free },
                                  slot := { SlotUnit.start with reserved := [false] },
                                  startup := { s.startup with initNext := none } }
    (s.startup.stage = .drives → s.startup.loadsIssued = false →
      s.startup.driveReported = [false, false, false, false] →
      ∃ t, exec .initializationDone s = .next t ∧
        t = { wrote with drives := t.drives, startup := { s.startup with initNext := none, loadsIssued := true } } ∧
        t.startup.inService = true ∧
        ∀ d v, d < 4 → s.drives[d]? = some v →
          t.drives[d]? = some { v with
            state := .loading, loadFor := .powerUp, reloadNext := false, lastSector := none,
            command := some { command := .load, buf := 0, start := 0, count := 0, pos := 0, issuedAt := s.now,
                              discard := false } }) ∧
    (s.startup.stage = .done → s.startup.loadsIssued = true → s.startup.started = false →
      s.startup.cause = .systemReset → s.startup.settleReported = true → s.toParts.Calm →
      (∀ v, some v ∈ s.store.volumes → v.role ≠ .unverified) →
      exec .initializationDone s =
        .next { wrote with
          startup := { s.startup with initNext := none, started := true },
          slot := { SlotUnit.start with
            reserved := [false],
            work := [.notice 0 (.started .systemReset s.startup.batteryGood s.startup.settingsGood)] } })

/-- R20, R61, R84, R100, R117, R134, R157, R171, R188, R193: what a system reset past the control-area check leaves,
whatever the drives were doing: SEALED frames without holds and every other frame EMPTY, with both lists rebuilt in
ascending order; the ring and the slots as they are before initialization; no job, no request, no grant, no sweep and no
picker order; the move in progress, without a requester to tell, and the hatch; the correction log with the entries of
the relocation jobs DEFERRED, and no RESERVED relocation entry; every drive with its volume, side and load report,
nothing asked of it, and no buffer in use but for a burn.  Three points are the model's choices: that a CLAIMED slot stays
so until the initialization is log entry 43; that no statement record holds the port is the case that log entry 24 leaves
to the record; and that no drive has an unload asked, one whose UNLOAD is in progress among them, is log entry 62, by
which the ask is over when UNLOAD is issued. -/
def Obligations.SystemResetClearsTheVolatileRecords : Prop :=
  ∀ s : State, (s.startup.stage = .drives ∨ s.startup.stage = .audit ∨ s.startup.stage = .done) →
    s.recordInPort = false →
    ∃ t, exec .systemReset s = .next t ∧
      t.frame.frames = s.frame.frames.map (fun f => match f with
        | .sealed tag info damaged corrected _ => .sealed tag info damaged corrected []
        | _ => .empty) ∧
      (let numbers := (List.range s.frame.frames.length).map (· + 1)
       t.frame.emptyList = numbers.filter (fun n => t.frameAt n = .empty) ∧
         t.frame.reclaim = numbers.filter (fun n => t.frameAt n ≠ .empty)) ∧
      t.frame.waitQueue = [] ∧
      t.slot.producer = 0 ∧ t.slot.consumer = 0 ∧ t.slot.lost = 0 ∧ t.slot.reserved = [] ∧ t.slot.line = false ∧
      t.slot.work = [] ∧ t.slot.nextAge = 1 ∧ (∀ x ∈ t.slot.slots, x = SlotRec.blank ∨ x.state = .claimed) ∧
      t.sched = Scheduler.start ∧ t.retr = Retrieval.start ∧ t.stmts = Statements.start ∧ t.restores = [] ∧
      t.filing.burns = [] ∧ t.filing.closeOps = [] ∧ t.media.judging = [] ∧ t.media.relocJobs = [] ∧
      t.media.log = s.media.log.map (fun e =>
        if s.media.relocJobs.any (fun q => q.entries.contains e.seq) then { e with mark := .deferred } else e) ∧
      t.media.lost = s.media.lost ∧ t.media.counter = s.media.counter ∧
      t.store.relocs = s.store.releaseReserved.relocs ∧
      t.fee = { fees := s.fee.fees, grants := List.replicate 512 none, nextGrant := 1,
                cursors := List.replicate 8 none, nextOrder := 1 } ∧
      t.picker.orders = [] ∧ t.picker.hatchOps = [] ∧ t.picker.marks = s.picker.marks ∧
      t.picker.hatch = s.picker.hatch ∧ t.picker.windowStart = s.picker.windowStart ∧
      t.picker.pendingRelease = s.picker.pendingRelease ∧
      (∀ m, s.picker.move = some m → t.picker.state = s.picker.state ∧
        t.picker.move = some (match m.what with
          | .order o => { m with what := .order { o with requester := .nobody } }
          | _ => m)) ∧
      (∀ d, d < 4 →
        (t.driveRec d).volume = (s.driveRec d).volume ∧ (t.driveRec d).side = (s.driveRec d).side ∧
        (t.driveRec d).loadReport = (s.driveRec d).loadReport ∧ (t.driveRec d).asks = [] ∧
        (t.driveRec d).rereads = [] ∧ (t.driveRec d).unloadAsked = false ∧
        (∀ b ∈ [(t.driveRec d).bufA, (t.driveRec d).bufB],
          b.state = .free ∨ b.state = .burning ∨ b.state = .verifying)) ∧
      t.startup.started = false ∧ t.startup.initNext = some 0 ∧ t.startup.cause = .systemReset ∧
      t.mem = s.mem ∧ t.settings = s.settings ∧ t.config = s.config

/-- R191, R195: the loss of main power leaves the battery-held store as its fate says, the bytes of the configuration
memory and document memory (log entry 34), and a configuration memory write in progress leaves no whole record. -/
def Obligations.PowerLossKeepsTheBatteryHeldStore : Prop :=
  ∀ (s : State) (fate : StoreFate), s.startup.stage ≠ .off →
    ∃ t, exec (.mainPowerLoss fate) s = .next t ∧ t.Unpowered ∧ t.startup.stage = .off ∧
      t.store = (match fate with
        | .kept => s.store
        | .supplyFailed => { s.store with retention := false }
        | .corrupted => { s.store with checkMatches := false }) ∧
      t.config.bytes = s.config.bytes ∧
      t.config.whole = (s.config.whole && s.startup.configWriting.isNone) ∧
      t.mem = s.mem ∧ t.now = s.now

/-! ### Commands of a bus master -/

/-- R43: a PROCESSOR's read of the claim word of a FREE slot claims the slot and is answered 0; of any other slot it is
answered 1 and changes no slot; a SCANNER is always answered 1 (R27). -/
def Obligations.ClaimReadGrantsAFreeSlot : Prop :=
  ∀ (s : State) (m n : Nat), m < 16 → n < 64 → s.Ready →
    (s.settings.agent m = .processor →
      ((s.slotRec n).state = .free →
        exec (.claimRead m n) s =
          .next ((s.withSlot n (fun x => { x with state := .claimed, claimer := some m })).answering m
            (.data (leBytes 4 0)))) ∧
      ((s.slotRec n).state ≠ .free → exec (.claimRead m n) s = .next (s.answering m (.data (leBytes 4 1))))) ∧
    (∀ p, s.settings.agent m = .scanner p →
      exec (.claimRead m n) s = .next (s.answering m (.data (leBytes 4 1))))

/-- R44: a write of POSTED by the claimer of a CLAIMED slot makes it POSTED and puts its acceptance at the tail of the
memory work list; nothing else changes but the answer. -/
def Obligations.PostPutsTheAcceptanceOnTheWorkList : Prop :=
  ∀ (s : State) (m n : Nat), m < 16 → n < 64 → s.Ready → s.settings.agent m = .processor →
    (s.slotRec n).state = .claimed → (s.slotRec n).claimer = some m →
    exec (.post m n) s =
      .next { s with
        slot := { s.slot with slots := s.slot.slots.modify n (fun x => { x with state := .posted }),
                              work := s.slot.work ++ [.acceptance n] },
        path := { s.path with answer := some (m, .written) } }

/-- R45: a write of FREE by the claimer of a CLAIMED slot makes the slot FREE with its claimer and every other field
absent; memory and all else stay, so that the slot fields keep what the claimer wrote, and a slot that held no frame and
owned no grant while it was CLAIMED holds and owns none. -/
def Obligations.ReleaseClaimFreesTheSlot : Prop :=
  ∀ (s : State) (m n : Nat), m < 16 → n < 64 → s.Ready → s.settings.agent m = .processor →
    (s.slotRec n).state = .claimed → (s.slotRec n).claimer = some m →
    let t := (s.withSlot n (fun _ => SlotRec.blank)).answering m .written
    exec (.releaseClaim m n) s = .next t ∧ t.slotRec n = SlotRec.blank ∧ t.mem = s.mem ∧
      ((∀ f ∈ s.frame.frames, Holder.slot n ∉ f.holders) → ∀ f ∈ t.frame.frames, Holder.slot n ∉ f.holders) ∧
      ((∀ g, some g ∈ s.fee.grants → g.slot ≠ n) → ∀ g, some g ∈ t.fee.grants → g.slot ≠ n)

/-- R2, R6, R15, R46: a write of FREE to the state word of an ended request's slot frees the slot and drops its holds;
a SEALED frame left without holds and without grants joins the reclaim list.  Stated for a slot that holds SEALED
frames only and owns no RESERVED or OPEN grant, while no job waits for frames. -/
def Obligations.ReleaseSlotDropsItsHolds : Prop :=
  ∀ (s : State) (m n : Nat), m < 16 → n < 64 → s.Ready → s.settings.agent m = .processor →
    ((s.slotRec n).state = .done ∨ (s.slotRec n).state = .failed) → s.frame.waitQueue = [] →
    (∀ f ∈ s.frame.frames, Holder.slot n ∈ f.holders → ∃ tag info d c hs, f = .sealed tag info d c hs) →
    (∀ g, some g ∈ s.fee.grants → g.frame.isSome = true → g.slot ≠ n) →
    ∃ t, exec (.releaseSlot m n) s = .next t ∧
      t = { (s.withSlot n (fun _ => SlotRec.blank)).answering m .written with frame := t.frame } ∧
      t.frame.frames = s.frame.frames.map (fun f => f.withHolders (f.holders.filter (fun h => h != .slot n))) ∧
      t.frame.emptyList = s.frame.emptyList ∧ t.frame.waitQueue = [] ∧
      ∀ k, k ∈ t.frame.reclaim ↔ k ∈ s.frame.reclaim ∨
        (0 < k ∧ k ≤ s.frame.frames.length ∧ Holder.slot n ∈ (s.frameAt k).holders ∧
          (∀ h ∈ (s.frameAt k).holders, h = .slot n) ∧ s.fee.grantCount k = 0)

/-- R47, R55, R76, R77, R116, R132, R153: a cancel of an ACCEPTED or ACTIVE request makes its slot CANCELLING.  A
request carried out by an operation, or one whose job is no longer named, goes on; one that a job carries out has its
cancel handed to that job, whatever the job's state.  An IMPORT or an EXPORT whose order is
in progress lets its move end; a FETCH whose task is placed becomes STOPPING with its needs unplaced.  A FETCH, FILE,
IMPORT or EXPORT whose job waits ends at once FAILED with ABORTED: its job is gone, the grants it had set aside are given
back, and the frames of a FILE are SCAN again (stated where no other work is in hand).  What the write-back of these ends
holds is the model's choice: a FETCH and a FILE write their whole entry area, zeros in the entries not used, log entry 23,
and an IMPORT and an EXPORT their code and count alone, log entry 56. -/
def Obligations.CancelMakesTheSlotCancelling : Prop :=
  ∀ (s : State) (m n : Nat), m < 16 → n < 64 → s.Ready → s.settings.agent m = .processor →
    ((s.slotRec n).state = .accepted ∨ (s.slotRec n).state = .active) →
    let told : State := (s.withSlot n (fun x => { x with state := .cancelling })).answering m .written
    let aborted (results : List (Nat × List Byte)) : State :=
      let e : Ended := { done := false, code := .aborted, count := 0 }
      { s with
        path := { s.path with answer := some (m, .written) },
        slot := { s.slot with
          slots := s.slot.slots.modify n (fun x => { x with state := .cancelling, outcome := some e, jobRef := none }),
          work := s.slot.work ++ [.writeBack n (writeBackWrites n e results)] },
        sched := { s.sched with jobs := [], queues := [[], [], [], []] } }
    ((s.slotRec n).jobRef = some .operation ∨ (s.slotRec n).jobRef = none → exec (.cancel m n) s = .next told) ∧
    (∀ id, (s.slotRec n).jobRef = some (.job id) →
      exec (.cancel m n) s =
        .next ((s.withSlot n (fun x => { x with state := .cancelling })).act (fun r =>
          (r.cancelJob id).answer m .written))) ∧
    (∀ id j, (s.slotRec n).jobRef = some (.job id) → s.sched.jobs.find? (fun j => j.id == id) = some j →
      ((∃ cell, j.kind = .importIn cell) ∨ ∃ serial, j.kind = .exportOut serial) → s.picker.jobMoving id = true →
      exec (.cancel m n) s =
        .next { told with
          sched := { s.sched with
            jobs := s.sched.jobs.map (fun j => if j.id = id then { j with cancelTaken := true } else j) } }) ∧
    (∀ j, (s.slotRec n).jobRef = some (.job j.id) → (s.slotRec n).outcome = none → n < s.slot.slots.length →
      s.sched.jobs = [j] → s.sched.suspended = [] → s.sched.assigns = List.replicate 4 Assign.clear →
      s.frame.waitQueue = [] → s.picker.orders = [] → s.picker.jobMoving j.id = false → s.filing.flight = [] →
      s.filing.closeOps = [] → s.mover.streams = [] → (∀ g, some g ∈ s.fee.grants → g.frame ≠ none → g.slot ≠ n) →
      ((j.state = .queued ∨ j.state = .waitingMedia) → s.sched.queues.map (List.filter (· ≠ j.id)) = [[], [], [], []] →
        s.retr.tasks = [] →
        ((∃ cell, j.kind = .importIn cell) ∨ (∃ serial, j.kind = .exportOut serial) → j.slot = some n →
          exec (.cancel m n) s = .next (aborted [])) ∧
        (∀ b, j.kind = .file → s.filing.burns = [b] → b.job = j.id → b.slot = some n →
          (∀ p ∈ b.pages, p.placed = none ∧ ∃ tag info owner hs, s.frameAt p.frame = .filing tag info owner hs) →
          ∃ t, exec (.cancel m n) s = .next t ∧
            t = { aborted (fileResults b) with
              filing := { s.filing with burns := [] }, frame := { s.frame with frames := t.frame.frames } } ∧
            (∀ p ∈ b.pages, ∀ tag info owner hs, s.frameAt p.frame = .filing tag info owner hs →
              t.frameAt p.frame = .scan owner) ∧
            (∀ k, (∀ p ∈ b.pages, p.frame ≠ k) → t.frameAt k = s.frameAt k)) ∧
        (∀ f, j.kind = .fetch → s.retr.fetches = [f] → f.job = j.id → f.slot = n →
          (∀ p ∈ f.pages, p.code = none) → (∀ x ∈ s.frame.frames, Holder.slot n ∉ x.holders) →
          exec (.cancel m n) s =
            .next { aborted [(256, padTo 256 (f.pages.flatMap (fun _ => fetchEntry 0 .aborted none)))] with
              retr := { s.retr with fetches := [] },
              fee := { s.fee with grants := s.fee.grants.map (fun o => o.bind (fun g =>
                if g.state = .setAside ∧ g.slot = n then none else some g)) } })) ∧
      (∀ t f, j.kind = .fetch → j.state = .running → s.sched.queues = [[], [], [], []] → s.retr.tasks = [t] →
        s.retr.fetches = [f] → t.carrier = some j.id → t.phase ≠ .unplaced →
        exec (.cancel m n) s =
          .next { told with
            sched := { s.sched with
              jobs := [{ j with cancelTaken := true, state := .stopping,
                                needs := j.needs.map (fun x => { x with place := .unplaced }) }] } }))

/-- R26, R27, R48: the writes of a state word that are refused: any value while the slot is FREE, POSTED or CANCELLING,
or CLAIMED by another master; and any value but those that R44 to R47 take in the other states.  A refused write counts
one violation of reason SLOT_PROTOCOL and changes no slot; CANCEL of an ended request is taken without effect.  A
SCANNER's write of a state word is withheld with reason CLASS_REGION, and a claim word is written by nobody: reason
SLOT_PROTOCOL. -/
def Obligations.RefusedStateWordWritesCountAViolation : Prop :=
  (∀ (s : State) (m n v : Nat), m < 16 → n < 64 → v < 4294967296 → s.Ready → s.settings.agent m = .processor →
    ((match (s.slotRec n).state with
      | .free | .posted | .cancelling => True
      | .claimed => (s.slotRec n).claimer ≠ some m ∨ (v ≠ 2 ∧ v ≠ 0)
      | .accepted | .active => v ≠ 12
      | .done | .failed => v ≠ 0 ∧ v ≠ 12) →
      exec (.stateWordRefused m n v) s =
        .next ((s.withViolation m (slotBase n) .slotProtocol).answering m .written)) ∧
    (((s.slotRec n).state = .done ∨ (s.slotRec n).state = .failed) → v = 12 →
      exec (.stateWordRefused m n v) s = .next (s.answering m .written))) ∧
  (∀ (s : State) (m n v p : Nat), m < 16 → n < 64 → v < 4294967296 → s.Ready → s.settings.agent m = .scanner p →
    exec (.stateWordRefused m n v) s = .next ((s.withViolation m (slotBase n) .classRegion).answering m .written) ∧
    exec (.post m n) s = .next ((s.withViolation m (slotBase n) .classRegion).answering m .written) ∧
    exec (.releaseClaim m n) s = .next ((s.withViolation m (slotBase n) .classRegion).answering m .written) ∧
    exec (.releaseSlot m n) s = .next ((s.withViolation m (slotBase n) .classRegion).answering m .written) ∧
    exec (.cancel m n) s = .next ((s.withViolation m (slotBase n) .classRegion).answering m .written)) ∧
  (∀ (s : State) (m n v : Nat), m < 16 → n < 64 → v < 4294967296 → s.Ready →
    (s.settings.agent m = .processor ∨ ∃ p, s.settings.agent m = .scanner p) →
    exec (.systemTransfer { master := m, write := true, addr := slotBase n + 4, len := 4, data := leBytes 4 v }) s =
      .next ((s.withViolation m (slotBase n + 4) .slotProtocol).answering m .written))

/-- R59, R60: a PROCESSOR's write of the consumer index is taken when the value lies in 0 to 63 and does not pass the
producer index, and the notice line follows; any other value is a violation of reason RING_INDEX.  A SCANNER's write is
a violation of reason CLASS_REGION (R27). -/
def Obligations.ConsumerIndexMayNotPassTheProducer : Prop :=
  ∀ (s : State) (m v : Nat), m < 16 → v < 4294967296 → s.Ready →
    (s.settings.agent m = .processor →
      (v ≤ 63 ∧ (v + 64 - s.slot.consumer) % 64 ≤ (s.slot.producer + 64 - s.slot.consumer) % 64 →
        exec (.consumerIndexWrite m v) s =
          .next { s with slot := { s.slot with consumer := v, line := s.slot.producer != v },
                         path := { s.path with answer := some (m, .written) } }) ∧
      (¬ (v ≤ 63 ∧ (v + 64 - s.slot.consumer) % 64 ≤ (s.slot.producer + 64 - s.slot.consumer) % 64) →
        exec (.consumerIndexWrite m v) s = .next ((s.withViolation m 260 .ringIndex).answering m .written))) ∧
    (∀ p, s.settings.agent m = .scanner p →
      exec (.consumerIndexWrite m v) s = .next ((s.withViolation m 260 .classRegion).answering m .written))

/-- R25: COPIER and UNLISTED transfers to frame 0, and UNLISTED transfers to an image frame, are judged by class alone:
a read is voided, a write is withheld and counted with reason CLASS_REGION, and none of them uses the memory-side port. -/
def Obligations.CopierAndUnlistedAreJudgedByClassAlone : Prop :=
  ∀ (s : State) (t : Transfer), t.wf = true → s.Ready →
    ((t.addr < 131072 ∧ ((∃ p, s.settings.agent t.master = .copier p) ∨ s.settings.agent t.master = .unlisted)) ∨
      (131072 ≤ t.addr ∧ t.addr < s.settings.memBytes ∧ s.settings.agent t.master = .unlisted)) →
    (t.write = false →
      exec (.systemTransfer t) s =
        .next (s.answering t.master (.data (List.replicate t.len s.settings.voidByte)))) ∧
    (t.write = true →
      exec (.systemTransfer t) s =
        .next ((s.withViolation t.master t.addr .classRegion).answering t.master .written))

/-- R24, R29, R37: a transfer to an image frame by a PROCESSOR, a SCANNER or a COPIER waits for the memory-side port;
one beyond the configured memory is voided or withheld with reason ADDRESS_RANGE, whatever its class. -/
def Obligations.ImageFrameTransfersWaitForThePort : Prop :=
  ∀ (s : State) (t : Transfer), t.wf = true → s.Ready → 131072 ≤ t.addr →
    (t.addr < s.settings.memBytes → s.settings.agent t.master ≠ .unlisted →
      exec (.systemTransfer t) s = .next { s with path := { s.path with waiting := some t } }) ∧
    (s.settings.memBytes ≤ t.addr → t.write = false →
      exec (.systemTransfer t) s =
        .next (s.answering t.master (.data (List.replicate t.len s.settings.voidByte)))) ∧
    (s.settings.memBytes ≤ t.addr → t.write = true →
      exec (.systemTransfer t) s =
        .next ((s.withViolation t.master t.addr .addressRange).answering t.master .written))

/-- R23: while the control area is not in service and the check has not failed, a transfer to frame 0 is retried, and so is
every other transfer while the check is in hand and from a system reset on.  After a power-up's check has passed, transfers
to image frames and beyond the configured memory are judged before that: they wait for the port, or are judged by address
and class, a violation's notice being kept to follow STARTED.  In the failed-check mode every transfer, whatever its master
and its address, waits to pass unchanged (its grant is a clause of O29, its completion one of O32 and O33). -/
def Obligations.TransfersAreRetriedUntilService : Prop :=
  ∀ (s : State) (t : Transfer), t.wf = true → s.path.busFree = true → s.startup.stage ≠ .off →
    (s.startup.inService = false → s.startup.stage ≠ .failed →
      (t.addr < 131072 ∨ s.startup.stage = .checking ∨ s.startup.cause = .systemReset) →
      exec (.systemTransfer t) s = .next (s.answering t.master .retry)) ∧
    (s.startup.inService = false → s.startup.stage ≠ .failed → s.startup.stage ≠ .checking →
      s.startup.cause = .powerUp → 131072 ≤ t.addr →
      let agent := s.settings.agent t.master
      (t.addr < s.settings.memBytes → agent ≠ .unlisted →
        exec (.systemTransfer t) s = .next { s with path := { s.path with waiting := some t } }) ∧
      (s.settings.memBytes ≤ t.addr ∨ agent = .unlisted → t.write = false →
        exec (.systemTransfer t) s =
          .next (s.answering t.master (.data (List.replicate t.len s.settings.voidByte)))) ∧
      (s.settings.memBytes ≤ t.addr ∨ agent = .unlisted → t.write = true →
        let why : Reason := if s.settings.memBytes ≤ t.addr then .addressRange else .classRegion
        exec (.systemTransfer t) s =
          .next (({ s with path := s.path.countViolation agent.cls,
                           slot := { s.slot with held := s.slot.held ++ [.violation t.master agent t.addr why] }
                  } : State).answering t.master .written))) ∧
    (s.startup.stage = .failed →
      exec (.systemTransfer t) s = .next { s with path := { s.path with waiting := some t } })

/-- R26, R28: a PROCESSOR's or a SCANNER's read of the ring header is answered from the Slot Unit's records, without
memory: producer index, consumer index, lost count, and 0. -/
def Obligations.RingHeaderIsReadFromTheSlotUnit : Prop :=
  ∀ (s : State) (m : Nat), m < 16 → s.Ready →
    (s.settings.agent m = .processor ∨ ∃ p, s.settings.agent m = .scanner p) →
    exec (.systemTransfer { master := m, write := false, addr := 256, len := 16, data := [] }) s =
      .next (s.answering m (.data (leBytes 4 s.slot.producer ++ leBytes 4 s.slot.consumer ++
        leBytes 4 s.slot.lost ++ leBytes 4 0)))

/-! ### The memory-side port -/

/-- R23, R29, R37, R38, R39, R69, R88: which transfer the arbiter grants, and the fairness count.  A system transfer to
frame 0, or any in the failed-check mode, whatever its master and its frame, uses the port: it raises the count by one while
an internal transfer waits and sets it to 0 while none does.  An internal transfer is granted when no system transfer waits
or the count has reached 8: that of the first mover in cycle order, beginning at the turn pointer, that presents one; the
count becomes 0 and the turn passes to the mover after it.  A stream's transfer is the one the Frame Mover has presented,
which is the first ready at or after its pointer when it may present one (log entry 25).  The Slot Unit does not present the
last read of an acceptance between the writes of an inventory summary, so that a claim on the statement's frame comes before
the inquiry or after the writes (R29, R69, log entry 64). -/
def Obligations.GrantsKeepTheFairnessCount : Prop :=
  let order : List Mover := [.frameMover, .slotUnit, .feeMeter, .mediaCheck, .inventory, .startUp]
  (∀ s : State, s.startup.stage ≠ .off → s.path.port = .free →
    let presented : Mover → Option Purpose
      | .frameMover => s.mover.presented.map Purpose.stream
      | .slotUnit =>
        match s.slot.work, s.stmts.inventory with
        | [], _ => none
        | .acceptance _ :: _, x :: _ => if 15 ≤ s.slot.workDone ∧ x.piece ≠ 0 then none else some .slotWork
        | _, _ => some .slotWork
      | .feeMeter => if s.stmts.account = [] then none else some .accountRecord
      | .mediaCheck => if s.stmts.log = [] then none else some .logRecord
      | .inventory => if s.stmts.inventory = [] then none else some .inventoryRecord
      | .startUp =>
        if s.startup.initNext ≠ none then some .startWrite
        else match s.startup.settingsOps with
          | [] => none
          | x :: _ => if x.writing = false ∧ s.startup.configWriting = none then some .settingsRead else none
    ∀ k < 6, order[k]? = some s.path.turn →
    let first : Option (Mover × Purpose) := (order.rotate k).findSome? (fun m => (presented m).map (fun p => (m, p)))
    (∀ x, s.path.waiting = some x → (s.startup.stage = .failed ∨ x.addr < 131072) →
      (s.path.fairness < 8 ∨ first = none) →
      exec .portGrant s =
        .next { s with path := { s.path with
          port := .system x true, waiting := none,
          fairness := if first.isSome then s.path.fairness + 1 else 0 } }) ∧
    (∀ m p i, first = some (m, p) → order[i]? = some m → (s.path.waiting = none ∨ 8 ≤ s.path.fairness) →
      exec .portGrant s =
        .next { s with
          path := { s.path with port := .mover m p, turn := order.getD ((i + 1) % 6) .frameMover, fairness := 0 },
          mover := if m = .frameMover then { s.mover with presented := none } else s.mover }) ∧
    (s.path.waiting = none → first = none → exec .portGrant s = .next s)) ∧
  (∀ s : State, s.mover.presented = none → s.path.port = .free →
    let ready (i : Nat) : Bool := ((Run.of s).streamAt (i % 8)).any (fun st => (Run.of s).streamReady st)
    (∀ k < 8, ready (s.mover.pointer + k) = true → (∀ j < k, ready (s.mover.pointer + j) = false) →
      s.presenting = { s with mover := { s.mover with
        presented := some ((s.mover.pointer + k) % 8), pointer := ((s.mover.pointer + k) % 8 + 1) % 8 } }) ∧
    ((∀ k < 8, ready (s.mover.pointer + k) = false) → s.presenting = s))

/-- R30, R31, R32, R178, R179: the judgement of a transfer to an image frame when it is granted, the control area being in
service.  Reads of a PROCESSOR or a SCANNER pass, but for a read beyond the fill mark of a FILLING frame, which is retried;
a PROCESSOR writes EMPTY and SCAN frames, a SCANNER the SCAN frames it owns; any other write of theirs is withheld with
reason SCAN_OWNER in another's SCAN frame and FRAME_STATE elsewhere.  A COPIER's write is withheld with reason CLASS_REGION.
Its read passes where its port holds a grant on the FILLING or SEALED frame, moving the port's cursor, but is retried beyond
the fill mark; without a grant it is voided, and a cursor on that frame becomes idle.  One read is left to the next
statement: that of a SEALED frame which reaches the image end from offset 0 or from the cursor, and so completes its sweep.
-/
def Obligations.ImageFrameJudgementAtTheGrant : Prop :=
  ∀ (s : State) (x : Transfer), s.startup.inService = true → s.path.port = .free → s.path.waiting = some x →
    131072 ≤ x.addr → (s.path.fairness < 8 ∨ (Run.of s).internal = none) →
    let n := x.addr / 131072
    let o := x.addr % 131072
    let used : State := { s with path := { s.path with
      port := .system x true, waiting := none,
      fairness := if (Run.of s).internal.isSome then s.path.fairness + 1 else 0 } }
    let unused : State := { s with path := { s.path with waiting := none } }
    (∀ processor : Bool,
      (if processor then s.settings.agent x.master = .processor
        else ∃ p, s.settings.agent x.master = .scanner p) →
      match s.frameAt n, x.write with
      | .filling _ _ _ mark _ _ _, false =>
        (o + x.len ≤ mark → exec .portGrant s = .next used) ∧
        (mark < o + x.len → exec .portGrant s = .next (unused.answering x.master .retry))
      | _, false => exec .portGrant s = .next used
      | .empty, true =>
        exec .portGrant s =
          .next (if processor then used
            else (unused.withViolation x.master x.addr .frameState).answering x.master .written)
      | .scan owner, true =>
        exec .portGrant s =
          .next (if processor ∨ owner = x.master then used
            else (unused.withViolation x.master x.addr .scanOwner).answering x.master .written)
      | _, true =>
        exec .portGrant s = .next ((unused.withViolation x.master x.addr .frameState).answering x.master .written)) ∧
    (∀ p, s.settings.agent x.master = .copier p →
      let held : Prop := ∃ g, some g ∈ s.fee.grants ∧ g.port = p ∧ g.frame = some n
      let at_ (c : Option Cursor) (st : State) : State :=
        { st with fee := { st.fee with cursors := st.fee.cursors.set p c } }
      let voided : State := unused.answering x.master (.data (List.replicate x.len s.settings.voidByte))
      let lost : State := if (s.fee.cursor p).any (fun k => k.frame == n) then at_ none voided else voided
      let moved (imageLen : Nat) : State :=
        if imageLen ≤ o then used
        else if o = 0 then at_ (some { frame := n, next := x.len, timerAt := s.now }) used
        else match s.fee.cursor p with
          | none => used
          | some k =>
            if k.frame = n ∧ k.next = o then at_ (some { frame := n, next := o + x.len, timerAt := s.now }) used
            else at_ none used
      (x.write = true →
        exec .portGrant s = .next ((unused.withViolation x.master x.addr .classRegion).answering x.master .written)) ∧
      (x.write = false →
        match s.frameAt n with
        | .filling _ _ info mark _ _ _ =>
          (held → mark < o + x.len → exec .portGrant s = .next (unused.answering x.master .retry)) ∧
          (held → o + x.len ≤ mark →
            exec .portGrant s = .next (moved ((info.map (fun i => i.imageLen)).getD 131072))) ∧
          (¬ held → exec .portGrant s = .next lost)
        | .sealed _ info _ _ _ =>
          (held → (o + x.len < info.imageLen ∨ info.imageLen ≤ o ∨
              (o ≠ 0 ∧ ∀ k, s.fee.cursor p = some k → ¬ (k.frame = n ∧ k.next = o))) →
            exec .portGrant s = .next (moved info.imageLen)) ∧
          (¬ held → exec .portGrant s = .next lost)
        | _ => exec .portGrant s = .next lost))

/-- R178, R179, R180, R181, R184: the read that ends a sweep.  A COPIER port reads a SEALED frame from offset 0, or from where
its cursor stands on it, up to the image length or beyond; the port's oldest OPEN grant on the frame is charged: its copies
charged rise by one, its account takes the fee per copy, and the certification fee with a CERTIFIED grant's first copy, what
passes the maximum going to the saturation loss, and counts the copy by its kind; the cursor is idle.  A grant that has
all its copies charged leaves the table, with a GRANT_USED notice where its slot's notify flag is set, and its frame joins
the reclaim list when nothing else keeps it. -/
def Obligations.CompletedSweepChargesTheAccount : Prop :=
  ∀ (s : State) (x : Transfer) (p n i : Nat) (tag : Location) (info : PageInfo) (d c : Bool) (hs : List Holder)
      (g : Grant) (fee cert : Nat) (certified : Bool),
    s.startup.inService = true → s.path.port = .free → s.path.waiting = some x →
    (s.path.fairness < 8 ∨ (Run.of s).internal = none) →
    s.settings.agent x.master = .copier p → x.write = false → 131072 ≤ x.addr → x.addr / 131072 = n →
    s.frameAt n = .sealed tag info d c hs →
    (x.addr % 131072 = 0 ∨ ∃ k, s.fee.cursor p = some k ∧ k.frame = n ∧ k.next = x.addr % 131072) →
    x.addr % 131072 < info.imageLen → info.imageLen ≤ x.addr % 131072 + x.len →
    s.fee.grants[i]? = some (some g) → g.port = p → g.state = .opened n fee cert certified →
    (∀ j h, s.fee.grants[j]? = some (some h) → h.port = p → h.frame = some n →
      j = i ∨ g.number < h.number ∨ (g.number = h.number ∧ g.order < h.order)) →
    let due := fee + (if g.kind = .certified ∧ certified = false then cert else 0)
    let charged : State := { s with
      path := { s.path with port := .system x true, waiting := none,
                            fairness := if (Run.of s).internal.isSome then s.path.fairness + 1 else 0 },
      store := { s.store with accounts := s.store.accounts.modify g.account (fun a =>
        { a with total := if a.total + due ≤ 4294967295 then a.total + due else 4294967295,
                 loss := if a.total + due ≤ 4294967295 then a.loss
                   else min 4294967295 (a.loss + (a.total + due - 4294967295)),
                 plain := if g.kind = .plain ∧ a.plain < 65535 then a.plain + 1 else a.plain,
                 certified := if g.kind = .certified ∧ a.certified < 65535 then a.certified + 1 else a.certified,
                 statutory := if g.kind = .statutory ∧ a.statutory < 65535 then a.statutory + 1 else a.statutory }) } }
    let fees (entry : Option Grant) : FeeMeter :=
      { s.fee with grants := s.fee.grants.set i entry, cursors := s.fee.cursors.set p none }
    (g.charged + 1 < g.copies →
      exec .portGrant s = .next { charged with
        fee := fees (some { g with charged := g.charged + 1,
                                   state := .opened n fee cert (certified || g.kind == .certified) }) }) ∧
    (g.copies ≤ g.charged + 1 → s.frame.waitQueue = [] →
      exec .portGrant s = .next { charged with
        fee := fees none,
        slot := if (s.slotRec g.slot).notify = some true then s.slot.takeNotice (.grantUsed g.slot n p g.account)
          else s.slot,
        frame := if hs = [] ∧ (fees none).grantCount n = 0 ∧ n ∉ s.frame.reclaim then
            { s.frame with reclaim := s.frame.reclaim ++ [n] }
          else s.frame })

/-- R23, R26, R27, R28, R33, R39, R183: a read that passed completes.  Of an image frame it is answered with its bytes, or,
where memory reports a parity fault on one of them, with the data-fault response; a COPIER's faulted read breaks the sweep
that stands as it left it.  Of frame 0, a read of the first 32 bytes of a slot claims a FREE slot for a PROCESSOR, and is
answered with the slot's state, the claim's answer and memory's bytes for the fields (the state after the claim, log entry
44); a fault on a field makes no claim; and a read of scratch is answered with its bytes.  In the failed-check mode any
read, of frame 0 too, is answered with memory's bytes or with the data-fault response, and no record but the port changes.
No byte of memory changes. -/
def Obligations.PassedReadsAreAnsweredFromMemory : Prop :=
  (∀ (s : State) (x : Transfer), s.path.port = .system x true → 131072 ≤ x.addr → x.write = false →
    s.startup.stage ≠ .failed →
    (s.mem.faults x.addr x.len = false →
      exec (.memoryAccessComplete []) s =
        .next (s.freePort.answering x.master (.data (s.mem.readBytes x.addr x.len)))) ∧
    (∀ bad, (s.mem.learnFaults x.addr x.len bad).faults x.addr x.len = true →
      ((s.settings.agent x.master = .processor ∨ ∃ p, s.settings.agent x.master = .scanner p) →
        exec (.memoryAccessComplete bad) s =
          .next { s.freePort.answering x.master .dataFault with mem := s.mem.learnFaults x.addr x.len bad }) ∧
      (∀ p, s.settings.agent x.master = .copier p →
        exec (.memoryAccessComplete bad) s =
          .next { s.freePort.answering x.master .dataFault with
            mem := s.mem.learnFaults x.addr x.len bad,
            fee := match s.fee.cursor p with
              | none => s.fee
              | some k =>
                if k.frame = x.addr / 131072 ∧ k.next = x.addr % 131072 + x.len then
                  { s.fee with cursors := s.fee.cursors.set p none }
                else s.fee }))) ∧
  (∀ (s : State) (m n : Nat), n < 64 → n < s.slot.slots.length → s.startup.inService = true →
    s.path.port = .system { master := m, write := false, addr := slotBase n, len := 32, data := [] } true →
    let fields := s.mem.readBytes (slotBase n + 8) 24
    (s.mem.faults (slotBase n + 8) 24 = false →
      (s.settings.agent m = .processor → (s.slotRec n).state = .free →
        exec (.memoryAccessComplete []) s =
          .next ((s.freePort.withSlot n (fun x => { x with state := .claimed, claimer := some m })).answering m
            (.data (leBytes 4 1 ++ leBytes 4 0 ++ fields)))) ∧
      ((s.settings.agent m = .processor ∧ (s.slotRec n).state ≠ .free) ∨ (∃ p, s.settings.agent m = .scanner p) →
        exec (.memoryAccessComplete []) s =
          .next (s.freePort.answering m
            (.data (leBytes 4 (s.slotRec n).state.value ++ leBytes 4 1 ++ fields))))) ∧
    (∀ bad, (s.mem.faults (slotBase n + 8) 24 = true ∨ ∃ b ∈ bad, slotBase n + 8 ≤ b ∧ b < slotBase n + 32) →
      (s.settings.agent m = .processor ∨ ∃ p, s.settings.agent m = .scanner p) →
      ∃ t, exec (.memoryAccessComplete bad) s = .next t ∧
        t = { s.freePort.answering m .dataFault with mem := t.mem } ∧ ∀ a, t.mem.read a = s.mem.read a)) ∧
  (∀ (s : State) (x : Transfer), s.startup.inService = true → s.path.port = .system x true → x.wf = true →
    x.write = false → 36864 ≤ x.addr → x.addr < 131072 →
    (s.settings.agent x.master = .processor ∨ ∃ p, s.settings.agent x.master = .scanner p) →
    s.mem.faults x.addr x.len = false →
    exec (.memoryAccessComplete []) s =
      .next (s.freePort.answering x.master (.data (s.mem.readBytes x.addr x.len)))) ∧
  (∀ (s : State) (x : Transfer) (bad : List Nat), s.startup.stage = .failed → s.path.port = .system x true →
    x.write = false →
    let mem := s.mem.learnFaults x.addr x.len bad
    (mem.faults x.addr x.len = false →
      exec (.memoryAccessComplete bad) s =
        .next { s.freePort.answering x.master (.data (s.mem.readBytes x.addr x.len)) with mem := mem }) ∧
    (mem.faults x.addr x.len = true →
      exec (.memoryAccessComplete bad) s = .next { s.freePort.answering x.master .dataFault with mem := mem }))

/-- R23, R26, R27, R28, R33, R34, R36, R39: a write that passed completes: exactly the bytes of the words that passed are in
memory, with fresh parity, every other byte reads as before, and nothing but the port and the answer changes.  So for an
image frame, for scratch, and for every write in the failed-check mode; and a claimer's write of the first 32 bytes of its
slot, with the state word POSTED, puts the fields into memory, posts the slot, and counts one violation for the claim word.
A write of slot fields by any other master is withheld at its arrival, without the port; one that passes waits for it. -/
def Obligations.PassedWritesReachMemoryWhole : Prop :=
  (∀ (s : State) (x : Transfer) (bad : List Nat), s.Canonical → s.path.port = .system x true →
    x.wf = true → x.write = true →
    (s.startup.stage = .failed ∨ 131072 ≤ x.addr ∨ (36864 ≤ x.addr ∧ (s.settings.agent x.master = .processor ∨
      ∃ p, s.settings.agent x.master = .scanner p))) →
    ∃ t, exec (.memoryAccessComplete bad) s = .next t ∧
      t = { s.freePort.answering x.master .written with mem := t.mem } ∧
      (∀ i, i < x.len → t.mem.read (x.addr + i) = x.data.getD i 0) ∧
      (∀ a, (a < x.addr ∨ x.addr + x.len ≤ a) → t.mem.read a = s.mem.read a) ∧
      t.mem.faults x.addr x.len = false) ∧
  (∀ (s : State) (m n : Nat) (data : List Byte) (bad : List Nat), s.Canonical → n < 64 → s.startup.inService = true →
    s.path.port = .system { master := m, write := true, addr := slotBase n, len := 32, data := data } true →
    data.length = 32 → word data 0 = 2 → s.settings.agent m = .processor →
    (s.slotRec n).state = .claimed → (s.slotRec n).claimer = some m →
    let posted : State := { s.freePort with slot := { s.slot with
      slots := s.slot.slots.modify n (fun x => { x with state := .posted }),
      work := s.slot.work ++ [.acceptance n] } }
    ∃ t, exec (.memoryAccessComplete bad) s = .next t ∧
      t = { (posted.withViolation m (slotBase n + 4) .slotProtocol).answering m .written with mem := t.mem } ∧
      (∀ i, 8 ≤ i → i < 32 → t.mem.read (slotBase n + i) = data.getD i 0) ∧
      (∀ a, (a < slotBase n + 8 ∨ slotBase n + 32 ≤ a) → t.mem.read a = s.mem.read a)) ∧
  (∀ (s : State) (x : Transfer) (n : Nat), s.Ready → x.wf = true → x.write = true → n < 64 → slotBase n + 8 ≤ x.addr →
    x.addr + x.len ≤ slotBase n + 512 →
    (s.settings.agent x.master = .processor →
      ((s.slotRec n).state = .claimed → (s.slotRec n).claimer = some x.master →
        exec (.systemTransfer x) s = .next { s with path := { s.path with waiting := some x } }) ∧
      (¬ ((s.slotRec n).state = .claimed ∧ (s.slotRec n).claimer = some x.master) →
        exec (.systemTransfer x) s =
          .next ((s.withViolation x.master x.addr .slotProtocol).answering x.master .written))) ∧
    (∀ p, s.settings.agent x.master = .scanner p →
      exec (.systemTransfer x) s =
        .next ((s.withViolation x.master x.addr .classRegion).answering x.master .written)))

/-! ### The Slot Unit's memory work -/

/-- R50, R51: the sixteen reads of an acceptance.  Each of the first fifteen adds its bytes to those taken, with any parity
fault it meets.  The sixteenth ends the acceptance: a fault on any of the sixteen fails the request with MEMORY_PARITY, its
kind and its notify flag taken unless the word that holds them faulted (log entry 39); a kind byte that names no kind, and a
level outside those that a queued kind takes, fail it with BAD_REQUEST.  The outcome is recorded, the slot stays POSTED, and
the write-back of the code joins the work list; that it holds the code and the count alone is the model's choice, log entry
56. -/
def Obligations.AcceptanceFailsBadRequests : Prop :=
  ∀ (s : State) (n : Nat) (rest : List WorkJob) (bad : List Nat), s.path.port = .mover .slotUnit .slotWork →
    s.slot.work = .acceptance n :: rest →
    let a := slotBase n + 32 * s.slot.workDone
    let mem := s.mem.learnFaults a 32 bad
    (s.slot.workDone < 15 →
      exec (.memoryAccessComplete bad) s =
        .next { s.freePort with
          mem := mem,
          slot := { s.slot with
            workDone := s.slot.workDone + 1,
            acceptData := s.slot.acceptData ++ s.mem.readBytes a 32,
            acceptFault := s.slot.acceptFault || mem.faults a 32,
            acceptKindFault := s.slot.acceptKindFault ||
              (decide (s.slot.workDone = 0) && mem.faults (slotBase n + 8) 4) } }) ∧
    (∀ x, s.slot.workDone = 15 → s.slot.slots[n]? = some x → x.state = .posted → x.outcome = none →
      let q := s.slot.acceptData ++ s.mem.readBytes (slotBase n + 480) 32
      let faulted := s.slot.acceptFault || mem.faults (slotBase n + 480) 32
      let level := byteAt q 9
      let ended (c : Code) : Ended := { done := false, code := c, count := 0 }
      let cleared : SlotUnit := { s.slot with
        workDone := 0, acceptData := [], acceptFault := false, acceptKindFault := false }
      ∀ kind : Option Kind, (∀ k, kind = some k ↔ k.value = byteAt q 8) →
      (faulted = true →
        exec (.acceptanceReadDone bad) s =
          .next { s.freePort with
            mem := mem,
            slot := { cleared with
              slots := s.slot.slots.set n { x with
                kind := if s.slot.acceptKindFault then none else kind,
                notify := if s.slot.acceptKindFault then none else some (reqNotify q),
                jobRef := none, outcome := some (ended .memoryParity) },
              work := rest ++
                [.writeBack n [{ addr := slotBase n + 12, bytes := leBytes 2 10 ++ leBytes 2 0 }]] } }) ∧
      (faulted = false →
        (kind = none ∨ (kind = some .fetch ∧ 3 < level) ∨ (kind = some .file ∧ (level < 1 ∨ 3 < level)) ∨
          ((kind = some .importVol ∨ kind = some .exportVol) ∧ level ≠ 3)) →
        exec (.acceptanceReadDone bad) s =
          .next { s.freePort with
            mem := mem,
            slot := { cleared with
              slots := s.slot.slots.set n { x with
                kind := kind, notify := some (reqNotify q), age := some s.slot.nextAge, jobRef := none,
                outcome := some (ended .badRequest) },
              nextAge := satInc 4294967295 s.slot.nextAge,
              work := rest ++
                [.writeBack n [{ addr := slotBase n + 12, bytes := leBytes 2 13 ++ leBytes 2 0 }]] } }))

/-- R53, R54, R185, R186: OPEN ACCOUNT and CLOSE ACCOUNT, from the completion of the acceptance read: a number above 127 fails with
BAD_REQUEST.  OPEN ACCOUNT fails on an OPEN account with ALREADY_OPEN, and otherwise opens it with its total, saturation
loss and copies counters 0.  CLOSE ACCOUNT fails on a CLOSED account with ACCOUNT_CLOSED, then with ACCOUNT_BUSY where a
grant names it and with UNSETTLED where its total is not 0, and otherwise closes it.  No other account changes, and a
request that passes ends DONE at once with count 1. -/
def Obligations.OpenAccountOpensAClosedAccount : Prop :=
  ∀ (s : State) (n : Nat) (x : SlotRec) (rest : List WorkJob), s.Accepts n x rest →
    let q := s.request n
    let a := byteAt q 16
    let account := s.store.accounts.getD a Account.closed
    let put (k : Kind) (f : Account → Account) : State := { s.acceptEnds n x rest k 1 [] with
      store := { s.store with accounts := s.store.accounts.modify a f } }
    (byteAt q 8 = 19 →
      exec (.acceptanceReadDone []) s =
        .next (if 127 < a then s.acceptFails n x rest .openAccount .badRequest
          else if account.isOpen then s.acceptFails n x rest .openAccount .alreadyOpen
          else put .openAccount (fun _ =>
            { isOpen := true, total := 0, loss := 0, plain := 0, certified := 0, statutory := 0 }))) ∧
    (byteAt q 8 = 20 →
      exec (.acceptanceReadDone []) s =
        .next (if 127 < a then s.acceptFails n x rest .closeAccount .badRequest
          else if !account.isOpen then s.acceptFails n x rest .closeAccount .accountClosed
          else if s.fee.accountCount a ≠ 0 then s.acceptFails n x rest .closeAccount .accountBusy
          else if account.total ≠ 0 then s.acceptFails n x rest .closeAccount .unsettled
          else put .closeAccount (fun y => { y with isOpen := false })))

/-- R16, R53, R54, R69, R78, R98, R138, R139, R140, R150, R164, R169, R172, R187, R192, R195: the other immediate kinds, from the completion
of the acceptance read.  Each makes its own checks in order, and then takes effect at once and ends DONE, or begins an
operation.  SET FEES takes its sixteen rows; SET DEED SEQUENCE sets the counter and writes back the value it had; OPEN SCAN
makes the first frames of the empty list and then of the reclaim list SCAN, and DISCARD SCAN makes its frames EMPTY;
ACKNOWLEDGE RELOCATION frees the entry and reports its new location; the three statements and WRITE SETTINGS begin on their
SCAN frame; OPEN HATCH ends on a released or open hatch, and otherwise asks for a release; RESTORE DRIVE begins the RESTORE
of a drive in FAULT and ends on one that is not, once the drives' step of the start-up sequence has ended, and waits till
then; CLOSE FILING PAIR closes an ACTIVE pair, and completes the close of a CLOSING one, at once with no burn job in
hand.  Left out: CLOSE FILING PAIR on an ESTABLISHING pair with no burn job in hand, which abandons it, and a
RESTORE DRIVE or CLOSE FILING PAIR behind an earlier one.  What their write-backs hold is the model's choice: the whole entry area of an OPEN SCAN that is DONE, zeros in the
entries not used, log entry 23, and the code and count alone for a request that fails, log entry 56. -/
def Obligations.SetFeesAndSetDeedSequenceTakeEffectAtAcceptance : Prop :=
  ∀ (s : State) (n : Nat) (x : SlotRec) (rest : List WorkJob), s.Accepts n x rest →
    let q := s.request n
    let kind := byteAt q 8
    let done (t : State) : Prop := exec (.acceptanceReadDone []) s = .next t
    let frame := half q 16
    let onScan (k : Kind) (t : State) : Prop :=
      (frame < 1 ∨ s.frame.frames.length < frame → done (s.acceptFails n x rest k .badRequest)) ∧
      (1 ≤ frame → frame ≤ s.frame.frames.length →
        ((∀ owner, s.frameAt frame ≠ .scan owner) → done (s.acceptFails n x rest k .badFrame)) ∧
        (∀ owner, s.frameAt frame = .scan owner → done t))
    let record (clear : Bool) : Statement :=
      { slot := n, frame := frame, clear := clear, next := 0, piece := 0, taken := [] }
    (kind = 22 → done { s.acceptEnds n x rest .setFees 1 [] with fee := { s.fee with fees := feesAt q 16 } }) ∧
    (kind = 28 → let v := word q 16
      done (if v = 0 ∨ (∃ j ∈ s.sched.jobs, j.kind = .file) then s.acceptFails n x rest .setDeedSequence .badRequest
        else { s.acceptEnds n x rest .setDeedSequence 1 [(256, leBytes 4 s.store.deedSeq)] with
          store := { s.store with deedSeq := v } })) ∧
    (kind = 16 → let owner := byteAt q 16
      let count := byteAt q 17
      let wrong := 15 < owner ∨ ((s.settings.agent owner).cls ≠ .scanner ∧ (s.settings.agent owner).cls ≠ .processor) ∨
        count < 1 ∨ 16 < count
      let frames := (s.frame.emptyList ++ s.frame.reclaim).take count
      (wrong → done (s.acceptFails n x rest .openScan .badRequest)) ∧
      (¬ wrong → (s.frame.waitQueue ≠ [] ∨ (s.frame.emptyList ++ s.frame.reclaim).length < count) →
        done (s.acceptFails n x rest .openScan .noFrames)) ∧
      (¬ wrong → s.frame.waitQueue = [] → count ≤ (s.frame.emptyList ++ s.frame.reclaim).length →
        ∃ t, done t ∧
          t = { s.acceptEnds n x rest .openScan count [(256, padTo 32 (frames.flatMap (leBytes 2)))] with
            frame := { s.frame with frames := t.frame.frames, emptyList := s.frame.emptyList.drop count,
                                    reclaim := s.frame.reclaim.drop (count - s.frame.emptyList.length) } } ∧
          (∀ f ∈ frames, 0 < f → f ≤ s.frame.frames.length → t.frameAt f = .scan owner) ∧
          (∀ f, f ∉ frames → t.frameAt f = s.frameAt f))) ∧
    (kind = 17 → let count := byteAt q 16
      let frames := (List.range count).map (fun i => half q (18 + 2 * i))
      let wrong := count < 1 ∨ 16 < count ∨ (∃ f ∈ frames, f < 1 ∨ s.frame.frames.length < f) ∨ ¬ frames.Nodup
      (wrong → done (s.acceptFails n x rest .discardScan .badRequest)) ∧
      (¬ wrong → (∃ f ∈ frames, ∀ owner, s.frameAt f ≠ .scan owner) →
        done (s.acceptFails n x rest .discardScan .badFrame)) ∧
      (¬ wrong → (∀ f ∈ frames, ∃ owner, s.frameAt f = .scan owner) → s.frame.waitQueue = [] →
        ∃ t, done t ∧
          t = { s.acceptEnds n x rest .discardScan count [] with
            frame := { s.frame with
              frames := t.frame.frames,
              emptyList := frames.foldl (fun l f => insertUp f l) s.frame.emptyList } } ∧
          (∀ f, t.frameAt f = if f ∈ frames then .empty else s.frameAt f))) ∧
    (kind = 25 → let old := locationAt q 16
      let wrong := old.serial = 0 ∨ old.sector < 1 ∨ 524286 < old.sector ∨
        ∀ new, RelocEntry.awaitingAck old new ∉ s.store.relocs
      (wrong → done (s.acceptFails n x rest .ackRelocation .badRequest)) ∧
      (¬ wrong → ∀ i new, s.store.relocs[i]? = some (.awaitingAck old new) →
        (∀ j < i, ∀ m, s.store.relocs[j]? ≠ some (.awaitingAck old m)) →
        done { s.acceptEnds n x rest .ackRelocation 1 [(256, locBytes new)] with
          store := { s.store with relocs := s.store.relocs.set i .free } })) ∧
    (kind = 21 → onScan .accountStatement { s.acceptBegins n x rest .accountStatement with
      stmts := { s.stmts with account := s.stmts.account ++ [record (reqClear q)] } }) ∧
    (kind = 23 → onScan .logStatement { s.acceptBegins n x rest .logStatement with
      stmts := { s.stmts with log := s.stmts.log ++ [record false] } }) ∧
    (kind = 24 → onScan .inventoryStatement { s.acceptBegins n x rest .inventoryStatement with
      stmts := { s.stmts with inventory := s.stmts.inventory ++ [record false] } }) ∧
    (kind = 29 → onScan .writeSettings { s.acceptBegins n x rest .writeSettings with
      startup := { s.startup with
        settingsOps := s.startup.settingsOps ++ [{ slot := n, frame := frame, got := [], writing := false }] } }) ∧
    (kind = 18 → let begun := s.acceptBegins n x rest .openHatch
      let waits (p : Picker) : State := { begun with picker := { p with hatchOps := s.picker.hatchOps ++ [n] } }
      (s.picker.hatch = .released ∨ s.picker.hatch = .opened → done (s.acceptEnds n x rest .openHatch 1 [])) ∧
      (s.picker.hatch = .releasePending → done (waits s.picker)) ∧
      (s.picker.hatch = .auditing ∨ (s.picker.hatch = .locked ∧ (s.picker.audit ≠ none ∨ s.startup.stage = .drives ∨
          s.startup.stage = .audit)) →
        done (waits { s.picker with pendingRelease := some (s.picker.pendingRelease.getD .request) })) ∧
      (s.picker.hatch = .locked → s.picker.audit = none → s.startup.stage = .done → s.picker.state = .moving →
        done (waits { s.picker with hatch := .releasePending, releaseCause := .request })) ∧
      (s.picker.hatch = .locked → s.picker.audit = none → s.startup.stage = .done → s.startup.initNext = none →
        s.picker.state ≠ .moving → s.picker.hatchOps = [] →
        done { (s.acceptEnds n x rest .openHatch 1 []).noticing (.hatchReleased .request) with
          picker := { s.picker with hatch := .released, releaseCause := .request, windowStart := some s.now } })) ∧
    (kind = 26 → let d := byteAt q 16
      let op (p : RestorePhase) : RestoreOp := { slot := n, drive := d, phase := p }
      (3 < d → done (s.acceptFails n x rest .restoreDrive .badRequest)) ∧
      (d ≤ 3 → s.startup.stage = .drives → s.restores = [] →
        done { s.acceptBegins n x rest .restoreDrive with restores := [op .waiting] }) ∧
      (d ≤ 3 → (s.startup.stage = .audit ∨ s.startup.stage = .done) → s.restores = [] → d < s.drives.length →
        ((s.driveRec d).state = .fault → (s.driveRec d).command = none →
          done { (s.acceptBegins n x rest .restoreDrive).withDrive d (fun v =>
              { v with command := some { command := .restore, buf := 0, start := 0, count := 0, pos := 0,
                                         issuedAt := s.now, discard := false } }) with
            restores := [op .restoring] }) ∧
        ((s.driveRec d).state = .fault → (s.driveRec d).command ≠ none →
          done { s.acceptBegins n x rest .restoreDrive with restores := [op .waiting] }) ∧
        ((s.driveRec d).state ≠ .fault → done (s.acceptEnds n x rest .restoreDrive 1 [])))) ∧
    (kind = 27 → s.filing.closeOps = [] →
      ((∃ j ∈ s.sched.jobs, j.kind.isBurn = true ∧ (j.state = .running ∨ j.state = .stopping)) ∨ s.filing.flight ≠ [] →
        done { s.acceptBegins n x rest .closePair with filing := { s.filing with closeOps := [n] } }) ∧
      ((∀ j ∈ s.sched.jobs, j.kind.isBurn = false ∨ (j.state ≠ .running ∧ j.state ≠ .stopping)) →
        s.filing.flight = [] →
        (s.store.pair = .absent → done (s.acceptEnds n x rest .closePair 1 [])) ∧
        (∀ p k side cause, (s.store.pair = .active p k side ∧ cause = .request) ∨ s.store.pair = .closing p k side cause →
          s.startup.stage = .done → s.startup.initNext = none →
          let shut (t : State) (v : Nat) : State := t.withVolume v (fun y => { y with pairClosed := some true })
          let ends := s.acceptEnds n x rest .closePair 1 []
          let closed := shut (shut ends p) k
          let told := (s.acceptBegins n x rest .closePair).slot.takeNotice (.pairClosed p k cause)
          done { closed with
            store := { closed.store with pair := .absent },
            slot := { told with
              slots := ends.slot.slots,
              work := told.work ++
                [.writeBack n (writeBackWrites n { done := true, code := .ok, count := 1 } [])] } })))

/-- R17, R76, R77, R101, R103, R104, R118, R119, R120, R141, R142, R174: the queued kinds, from the completion of the
acceptance read.  Each makes its own checks in order; one that passes has its job at the tail of its level's queue, the
job's age being the acceptance number, its slot is ACCEPTED, and a dispatch pass over that state ends the command.  A
FETCH sets its grants aside, and gives them back where an account is CLOSED; a FILE takes the deed sequence, and its
frames become FILING and are held by the slot.  Until STARTED is taken the pass changes nothing.  After it, of any state
(such as the one that the acceptance of an IMPORT leaves to the pass), a pass that finds one IMPORT waiting starts it: the
job is RUNNING and out of its queue, its slot is ACTIVE, and its order is the newest of the picker's list, for which the arm
is then looked at; while the arm is in a move, that is all.  That a request that fails its checks writes back its code
and count alone is the model's choice, log entry 56. -/
def Obligations.QueuedRequestsGetTheirJobs : Prop :=
  (∀ (s : State) (n : Nat) (x : SlotRec) (rest : List WorkJob), s.Accepts n x rest →
    let q := s.request n
    let kind := byteAt q 8
    let level := byteAt q 9
    let done (t : State) : Prop := exec (.acceptanceReadDone []) s = .next t
    let passed (t : State) : Prop := exec (.acceptanceReadDone []) s = .next (t.act Run.wantPass)
    (s.startup.started = false → ∀ t : State, t.startup = s.startup → t.act Run.wantPass = t) ∧
    (kind = 1 → level ≤ 3 →
      let serial := word q 16
      let pages := byteAt q 21
      let sectors := (List.range pages).map (fun i => word q (24 + 4 * i))
      let wrong := pages < 1 ∨ 16 < pages ∨ 1 < byteAt q 20 ∨ (∃ k ∈ sectors, k < 1 ∨ 524286 < k) ∨ ¬ sectors.Nodup ∨
        serial = 0 ∨ 2 < byteAt q 22 ∨ fetchSpecs q = none ∨
        (∃ specs, fetchSpecs q = some specs ∧ ∃ p ∈ specs, p.kind = .statutory ∧ level ≠ 0)
      (wrong → done (s.acceptFails n x rest .fetch .badRequest)) ∧
      (¬ wrong → (Run.of s).locOf serial = none → done (s.acceptFails n x rest .fetch .volumeUnknown)) ∧
      (¬ wrong → (Run.of s).locOf serial = some .missing → done (s.acceptFails n x rest .fetch .volumeMissing)) ∧
      (∀ specs loc, ¬ wrong → fetchSpecs q = some specs → (Run.of s).locOf serial = some loc → loc ≠ .missing →
        let grants := wantedGrants n pages specs
        let setAside : FeeMeter := { s.fee with
          grants := fillEntries s.fee.grants grants s.fee.nextGrant s.fee.nextOrder,
          nextGrant := satAdd 4294967295 s.fee.nextGrant grants.length,
          nextOrder := s.fee.nextOrder + grants.length }
        let opened := ∀ p ∈ specs, (s.store.accounts.getD p.account Account.closed).isOpen = true
        (s.fee.freeEntries < grants.length → done (s.acceptFails n x rest .fetch .grantsFull)) ∧
        (grants.length ≤ s.fee.freeEntries → ¬ opened →
          (∀ g, some g ∈ s.fee.grants → g.state = .setAside → g.slot ≠ n) →
          done { s.acceptFails n x rest .fetch .accountClosed with
            fee := { setAside with grants := s.fee.grants } }) ∧
        (grants.length ≤ s.fee.freeEntries → opened →
          passed { s.acceptQueued n x rest .fetch .fetch level with
            fee := setAside,
            retr := { s.retr with fetches := s.retr.fetches ++
              [{ job := s.sched.nextJob, slot := n, serial := serial, side := if byteAt q 20 = 0 then .a else .b,
                 specs := specs, resolved := false,
                 pages := sectors.map (fun k =>
                   { requested := { serial := serial, side := if byteAt q 20 = 0 then .a else .b, sector := k },
                     candidates := [], way := none, chosen := none, share := none, frame := none, refused := false,
                     code := none }) }] } }))) ∧
    (kind = 2 → 1 ≤ level → level ≤ 3 →
      let count := byteAt q 17
      let deedClass := byteAt q 16
      let pages := (List.range count).map (fun i => (half q (32 + 8 * i), word q (36 + 8 * i)))
      let frames := pages.map Prod.fst
      let seq := s.store.deedSeq
      let wrong := count < 1 ∨ 16 < count ∨ 15 < deedClass ∨ (∃ f ∈ frames, f < 1 ∨ s.frame.frames.length < f) ∨
        ¬ frames.Nodup ∨ (∃ p ∈ pages, p.2 < 1 ∨ 131072 < p.2)
      (wrong → done (s.acceptFails n x rest .file .badRequest)) ∧
      (¬ wrong → (∃ f ∈ frames, ∀ owner, s.frameAt f ≠ .scan owner) → done (s.acceptFails n x rest .file .badFrame)) ∧
      (¬ wrong → (∀ f ∈ frames, ∃ owner, s.frameAt f = .scan owner) → seq = 0 →
        done (s.acceptFails n x rest .file .sequenceUnset)) ∧
      (¬ wrong → (∀ f ∈ frames, ∃ owner, s.frameAt f = .scan owner) → seq ≠ 0 →
        ∃ t, passed t ∧
          t = { s.acceptQueued n x rest .file .file level with
            frame := { s.frame with frames := t.frame.frames },
            store := { s.store with deedSeq := (seq + 1) % 4294967296 },
            filing := { s.filing with burns := s.filing.burns ++
              [{ job := s.sched.nextJob, slot := some n, entry := none, deedClass := deedClass, deedSeq := seq,
                 pageIndex := 0, stamp := (q.drop 24).take 8, origin := none,
                 pages := pages.map (fun p => { frame := p.1, imageLen := p.2, attempts := 0, placed := none }),
                 waiting := (List.range count).map Item.page, failing := none }] } } ∧
          (∀ i p owner, pages[i]? = some p → s.frameAt p.1 = .scan owner →
            t.frameAt p.1 = .filing none
              { deedClass := deedClass, deedSeq := seq, pageIndex := i, imageLen := p.2 } owner [.slot n]) ∧
          (∀ f, f ∉ frames → t.frameAt f = s.frameAt f))) ∧
    (kind = 3 → level = 3 → let c := byteAt q 16
      if 1 < c ∨ (Run.of s).cellOccupied (88 + c) = false then done (s.acceptFails n x rest .importVol .badRequest)
      else passed (s.acceptQueued n x rest .importVol (.importIn c) 3)) ∧
    (kind = 4 → level = 3 → let serial := word q 16
      if serial = 0 then done (s.acceptFails n x rest .exportVol .badRequest)
      else match (Run.of s).locOf serial with
        | none => done (s.acceptFails n x rest .exportVol .volumeUnknown)
        | some .missing => done (s.acceptFails n x rest .exportVol .volumeMissing)
        | some _ =>
          if s.store.pair.claims serial then done (s.acceptFails n x rest .exportVol .roleActive)
          else passed (s.acceptQueued n x rest .exportVol (.exportOut serial) 3))) ∧
  (∀ (t : State) (j : Job) (c m : Nat) (y : SlotRec), t.startup.started = true → t.startup.acting = true →
    t.sched.queues = [[], [], [], [j.id]] → t.sched.jobs.find? (fun k => k.id == j.id) = some j →
    j.kind = .importIn c → j.state = .queued → j.started = false → j.slot = some m →
    t.slot.slots[m]? = some y → y.state = .accepted → t.picker.state ≠ .fault →
    let begun : State := { t with
      sched := { t.sched with
        jobs := t.sched.jobs.map (fun k => if k.id = j.id then { k with state := .running, started := true } else k),
        queues := [[], [], [], []] },
      slot := { t.slot with slots := t.slot.slots.set m { y with state := .active } },
      picker := { t.picker with
        orders := t.picker.orders ++
          [{ kind := .importIn, drive := none, volume := (t.volumeIn (.cell (88 + c))).map (fun v => v.serial),
             side := none, cell := some (88 + c), level := 3, number := t.picker.nextOrder, requester := .job j.id }],
        nextOrder := satInc 4294967295 t.picker.nextOrder } }
    (Run.of t).dispatch = { Run.of begun with todo := [.arm] } ∧
    (t.picker.state = .moving → t.act Run.wantPass = begun))

/-- R54, R57, R58: the last write of a write-back ends the request's slot DONE or FAILED as its outcome says, and takes
a SLOT_DONE notice if the notify flag is set; the slot keeps its outcome until it is released. -/
def Obligations.WriteBackEndsTheSlot : Prop :=
  ∀ (s : State) (n : Nat) (ws : List MemWrite) (w : MemWrite) (rest : List WorkJob) (x : SlotRec) (e : Ended),
    s.startup.inService = true → s.path.port = .mover .slotUnit .slotWork → s.slot.work = .writeBack n ws :: rest →
    ws.length = s.slot.workDone + 1 → ws[s.slot.workDone]? = some w → s.slot.slots[n]? = some x →
    x.outcome = some e →
    let u : SlotUnit := { s.slot with
      slots := s.slot.slots.set n { x with state := if e.done then .done else .failed }, work := rest, workDone := 0,
      acceptData := [], acceptFault := false, acceptKindFault := false }
    exec .writeBackDone s =
      .next { s.freePort with
        mem := s.mem.write w.addr w.bytes,
        slot := if x.notify = some true then u.takeNotice (.slotDone n x.kind e.done e.code e.count) else u }

/-- R57, R60: the write of a notice record completes: its sixteen bytes are in the ring, the producer index advances
over it and over every record already written behind it when it was the next in order, and does not move otherwise;
the notice line follows. -/
def Obligations.NoticeWriteAdvancesTheProducerIndex : Prop :=
  ∀ (s : State) (pos : Nat) (x : Notice) (rest : List WorkJob), s.path.port = .mover .slotUnit .slotWork →
    s.slot.work = .notice pos x :: rest → s.slot.producer < 64 → pos < 64 →
    let cleared : SlotUnit := { s.slot with work := rest, workDone := 0, acceptData := [], acceptFault := false,
                                            acceptKindFault := false }
    let done (u : SlotUnit) : State := { s.freePort with mem := s.mem.write (512 + 16 * pos) x.bytes, slot := u }
    (∀ k more, pos = s.slot.producer → s.slot.reserved = false :: (List.replicate k true ++ more) →
      more.head? ≠ some true →
      exec .noticeWriteDone s =
        .next (done { cleared with reserved := more, producer := (s.slot.producer + 1 + k) % 64,
                                   line := (s.slot.producer + 1 + k) % 64 != s.slot.consumer })) ∧
    (∀ i, i + 1 < s.slot.reserved.length → pos = (s.slot.producer + (i + 1)) % 64 → i + 1 < 64 →
      s.slot.reserved.head? = some false →
      exec .noticeWriteDone s =
        .next (done { cleared with reserved := s.slot.reserved.set (i + 1) true,
                                   line := s.slot.producer != s.slot.consumer }))

/-- R54, R195: the configuration memory write ends: it holds the whole new record, and the WRITE SETTINGS request whose
write it was ends DONE. -/
def Obligations.SettingsWriteEndsTheRequest : Prop :=
  ∀ (s : State) (bytes : List Byte) (x : SettingsOp) (more : List SettingsOp) (r : SlotRec),
    s.startup.configWriting = some bytes → s.startup.settingsOps = x :: more → x.writing = true →
    s.slot.slots[x.slot]? = some r → r.inHand = true →
    exec .settingsWriteDone s =
      .next { s with
        config := { bytes := bytes, whole := true },
        startup := { s.startup with configWriting := none, settingsOps := more },
        slot := { s.slot with
          slots := s.slot.slots.set x.slot
            { r with outcome := some { done := true, code := .ok, count := 1 }, jobRef := none },
          work := s.slot.work ++
            [.writeBack x.slot [{ addr := slotBase x.slot + 12, bytes := leBytes 2 0 ++ leBytes 2 1 }]] } }

/-- R29, R36, R54, R69, R169, R187, R198: a statement record.  Where the target frame has left SCAN the statement ends
FAILED with BAD_FRAME and the count of records written, and nothing is written.  Otherwise the record is taken and
written in one claim at the statement's place, and the statement goes on to the next, or ends DONE after its last.  An
ACCOUNT STATEMENT with the clear flag leaves the account's total and saturation loss 0.  A LOG STATEMENT takes its summary
and the whole log at its first record.  The inventory summary is three transfers of 32 bytes, all taken at the first.
(Each record is taken when its transfer completes: log entry 24; the inquiry stands before the summary's first transfer,
and no acceptance is taken between the three: log entry 64.) -/
def Obligations.StatementRecordsAreTakenOneAtATime : Prop :=
  ∀ (s : State) (x : Statement) (more : List Statement) (r : SlotRec),
    s.slot.slots[x.slot]? = some r → r.inHand = true →
    let a := 131072 * x.frame + 32 * x.next
    let scan := ∃ owner, s.frameAt x.frame = .scan owner
    let ended (t : State) (e : Ended) : State :=
      { t with slot := { s.slot with
          slots := s.slot.slots.set x.slot { r with outcome := some e, jobRef := none },
          work := s.slot.work ++ [.writeBack x.slot
            [{ addr := slotBase x.slot + 12, bytes := leBytes 2 e.code.value ++ leBytes 2 e.count }]] } }
    let left (t : State) : State := ended t { done := false, code := .badFrame, count := x.next }
    let ends (t : State) (n : Nat) : State := ended t { done := true, code := .ok, count := n }
    let wrote (b : Nat) (bytes : List Byte) : State := { s.freePort with mem := s.mem.write b bytes }
    (s.path.port = .mover .feeMeter .accountRecord → s.stmts.account = x :: more →
      let with_ (t : State) (l : List Statement) : State := { t with stmts := { s.stmts with account := l } }
      let t : State := { wrote a (accountRecord x.next (s.store.accounts.getD x.next Account.closed)
            (s.fee.accountCount x.next)) with
          store := if x.clear then
              { s.store with accounts := s.store.accounts.modify x.next (fun y => { y with total := 0, loss := 0 }) }
            else s.store }
      (¬ scan → exec .accountStatementRecord s = .next (left (with_ s.freePort more))) ∧
      (scan → x.next < 127 →
        exec .accountStatementRecord s = .next (with_ t ({ x with next := x.next + 1 } :: more))) ∧
      (scan → x.next = 127 → exec .accountStatementRecord s = .next (ends (with_ t more) 128))) ∧
    (s.path.port = .mover .mediaCheck .logRecord → s.stmts.log = x :: more →
      let with_ (t : State) (l : List Statement) : State := { t with stmts := { s.stmts with log := l } }
      let taken := if x.next = 0 then
          logSummary s.media s.path ::
            (s.media.log.map logRecord ++ List.replicate (32 - s.media.log.length) (layout 32 []))
        else x.taken
      let t := wrote a (if x.next < 33 then taken.getD x.next []
        else relocRecord (x.next - 33) (s.store.relocs.getD (x.next - 33) .free))
      (¬ scan → exec .logStatementRecord s = .next (left (with_ s.freePort more))) ∧
      (scan → x.next < 96 →
        exec .logStatementRecord s = .next (with_ t ({ x with next := x.next + 1, taken := taken } :: more))) ∧
      (scan → x.next = 96 → exec .logStatementRecord s = .next (ends (with_ t more) 97))) ∧
    (s.path.port = .mover .inventory .inventoryRecord → s.stmts.inventory = x :: more →
      let with_ (t : State) (l : List Statement) : State := { t with stmts := { s.stmts with inventory := l } }
      let position := wrote a (volumeRecord x.next (s.store.volumes.getD x.next none))
      let part (y : List Byte) (k : Nat) : State := wrote (a + 32 * k) ((y.drop (32 * k)).take 32)
      let all := inventorySummary s.picker s.store
      (¬ scan → x.piece = 0 →
        exec (.memoryAccessComplete []) s = .next (left (with_ s.freePort more))) ∧
      (scan → x.next < 128 → x.piece = 0 →
        exec .inventoryStatementRecord s = .next (with_ position ({ x with next := x.next + 1 } :: more))) ∧
      (scan → x.next = 128 → x.piece = 0 →
        exec (.memoryAccessComplete []) s = .next (with_ (part all 0) ({ x with piece := 1, taken := [all] } :: more))) ∧
      (∀ y, x.next = 128 → x.taken = [y] →
        (x.piece = 1 →
          exec (.memoryAccessComplete []) s = .next (with_ (part y 1) ({ x with piece := 2 } :: more))) ∧
        (x.piece = 2 → exec .inventoryStatementRecord s = .next (ends (with_ (part y 2) more) 129))))

/-- R9, R12, R13, R36, R88, R105, R130, R175: the writes of a sector of an image that fills.  Each of the first thirty-one takes
the stream to its next 32 bytes, zeros standing beyond the image's end.  The thirty-second raises the fill mark to the end
of the sector, gives the frame the sector's judgement and takes the stream to the next position.  That of the last sector
seals the frame: its RESERVED grants open with the fees of its deed class, its pages become FINAL, its task and judging
record end, and with them the need of the FETCH that carried the task, where that was its last; its buffer is FREE and
its stream is over, and with no holder and no grant it joins the reclaim list; then the frame-wait queue is served if the
frame joined that list, the drive goes on, the FETCH jobs it serves are looked at, and a dispatch pass runs.  The order of
these consequences, and that they and the Frame Mover's next transfer are taken inside the command, is the model's choice:
log entries 8 and 25.  Not stated: the seal of a DAMAGED image, which refuses certified grants, and that of a page read
judged for relocation. -/
def Obligations.PlacedSectorRaisesTheFillMark : Prop :=
  ∀ (s : State) (st : Stream) (tag : Location) (ph : FillPhase) (info : PageInfo) (mark : Nat) (d c : Bool)
      (hs : List Holder) (j : Judging),
    s.path.port = .mover .frameMover (.stream st.idx) → s.mover.streams.find? (fun y => y.idx == st.idx) = some st →
    st.loading = false → 0 < st.frame → st.frame ≤ s.frame.frames.length →
    s.frameAt st.frame = .filling tag ph (some info) mark d c hs →
    s.media.judging.find? (fun y => y.frame == st.frame) = some j →
    let n := st.idx / 2
    let b := st.idx % 2
    let data := (((s.driveRec n).buf b).positions.getD st.pos { report := .clean, data := [] }).data
    let mem := s.mem.write (131072 * st.frame + 1024 * (st.pos - 1) + 32 * st.done)
      (((zeroBeyond info.imageLen (1024 * (st.pos - 1)) data).drop (32 * st.done)).take 32)
    let streams (f : Stream → Stream) := s.mover.streams.map (fun y => if y.idx = st.idx then f y else y)
    let dm := d || j.get st.pos == some .uncorrectable
    let co := c || j.get st.pos == some .corrected
    (st.done < 31 →
      exec (.memoryAccessComplete []) s =
        .next (State.presenting { s.freePort with
          mem := mem, mover := { s.mover with streams := streams (fun y => { y with done := y.done + 1 }) } })) ∧
    (st.done = 31 → 1024 * st.pos < info.imageLen →
      exec .sectorPlaced s =
        .next (State.presenting { s.freePort with
          mem := mem,
          frame := { s.frame with
            frames := s.frame.frames.set (st.frame - 1) (.filling tag ph (some info) (1024 * st.pos) dm co hs) },
          drives := s.drives.modify n (fun v => v.modBuf b (fun x => { x with moved := x.moved + 1 })),
          mover := { s.mover with streams := streams (fun y => { y with pos := y.pos + 1, done := 0 }) } })) ∧
    (∀ (t : Task) (k : Job), st.done = 31 → info.imageLen ≤ 1024 * st.pos → s.mover.presented = none → dm = false →
      s.retr.tasks.find? (fun y => y.frame == st.frame) = some t → t.carrier = some k.id → k ∈ s.sched.jobs →
      (∀ y ∈ s.sched.jobs, y.id = k.id → y = k) → k.kind = .fetch → k.pair = none →
      (j.tally < s.settings.threshold ∨ j.uncorrectable = true) →
      let tasks := s.retr.tasks.filter (fun y => y.frame != st.frame)
      let needs := k.needs.filter (fun x => tasks.any (fun y => y.carrier == some k.id && y.on x.serial x.side))
      let row := s.fee.row info.deedClass
      let served := s.retr.fetches.filter (fun f => f.pages.any (fun p => p.frame == some st.frame && p.code.isNone))
      let free := hs = [] ∧ s.fee.grantCount st.frame = 0 ∧ st.frame ∉ s.frame.reclaim
      exec .sectorPlaced s =
        .next (State.following { s.freePort with
            mem := mem,
            frame := { s.frame with
              frames := s.frame.frames.set (st.frame - 1) (.sealed tag info false co hs),
              reclaim := if free then s.frame.reclaim ++ [st.frame] else s.frame.reclaim },
            drives := (s.drives.modify n (fun v =>
              let v := v.modBuf b (fun _ => Buffer.blank)
              { v with rereads := v.rereads.filter (fun x => x.1 != b),
                       command := v.command.map (fun k =>
                         if k.buf = b ∧ (k.command = .reread ∨ k.command = .read) then { k with discard := true }
                         else k) })).map (fun v =>
              { v with asks := v.asks.filter (fun q => q.frame != st.frame) }),
            mover := { s.mover with streams := s.mover.streams.filter (fun y => y.idx != st.idx) },
            fee := { s.fee with grants := s.fee.grants.map (fun o => o.bind (fun g =>
              if g.state = .reserved st.frame then some (g.openOn st.frame row) else some g)) },
            sched := { s.sched with
              jobs := s.sched.jobs.map (fun y =>
                if y.id = k.id then { k with needs := needs, pendingPreempt := needs.any (fun x => x.held) } else y),
              assigns := s.sched.assigns.mapIdx (fun e x =>
                { x with tasks := x.tasks.filter (fun f => f != st.frame),
                         flips := x.flips.filter (fun y => y != k.id || needs.any (fun z => z.place == .flips e)) }) },
            retr := { s.retr with
              fetches := s.retr.fetches.map (fun f => { f with pages := f.pages.map (fun p =>
                if p.frame = some st.frame ∧ p.code.isNone = true then
                  { p with refused := false, code := some (if co then .corrected else .ok) }
                else p) }),
              tasks := tasks },
            media := { s.media with judging := s.media.judging.filter (fun y => y.frame != st.frame) } }
          ((if free then [.service] else []) ++
            [.present, .depart 0, .placeTasks 0, .depart 1, .placeTasks 1, .depart 2, .placeTasks 2, .depart 3,
             .placeTasks 3, .safePoint k.id] ++ served.map (fun f => Todo.fetchEnd f.job) ++ [.drive n, .placeTasks n])
          true))

/-! ### The picker arm, the hand-off cells, the hatch and the audit -/

/-- R72: a move that serves no waiting requester ends: a MOUNT or FLIP leaves its volume in the drive, which takes the
side and begins its LOAD; an UNMOUNT or EXPORT leaves it in the destination cell, which becomes its home cell unless it
is a hand-off cell; the picker is IDLE and nothing else changes. -/
def Obligations.MoveEndPutsTheVolumeInItsPlace : Prop :=
  ∀ (s : State) (m : Move) (o : Order) (n : Nat), s.Quiet → s.picker.move = some m → m.what = .order o →
    o.requester = .nobody → m.carried = .volume n →
    let idle : Picker := { s.picker with state := .idle, move := none }
    (∀ d side, (o.kind = .mount ∨ o.kind = .flip) → m.dest = some (.drive d) → o.side = some side →
      exec .moveEnd s = .next
        { (s.withVolume n (fun v => { v with loc := .drive d, missingOrder := none })).withDrive d (fun v =>
            { v with volume := some (.serial n), side := side, state := .loading, loadFor := .mount,
                     reloadNext := false, lastSector := none,
                     command := some { command := .load, buf := 0, start := 0, count := 0, pos := 0,
                                       issuedAt := s.now, discard := false } }) with picker := idle }) ∧
    (∀ c, (o.kind = .unmount ∨ o.kind = .exportOut) → m.dest = some (.cell c) →
      exec .moveEnd s = .next
        { s.withVolume n (fun v =>
            { v with loc := .cell c, missingOrder := none, home := if c < 88 then some c else none }) with
          picker := idle })

/-- R73: the probe that begins an IMPORT move.  A strip whose serial the Inventory records nowhere, as MISSING or as the
volume being moved lets the platter be carried, with the strip read; an unreadable strip ends the move and leaves a
recorded volume in its cell. -/
def Obligations.ImportPlatterIsProbedBeforeItIsCarried : Prop :=
  ∀ (s : State) (m : Move) (o : Order), s.startup.acting = true → s.picker.move = some m → m.what = .order o →
    o.kind = .importIn → m.probed = false →
    (∀ serial blank, 0 < serial → serial < 4294967296 →
      ((Run.of s).locOf serial = none ∨ (Run.of s).locOf serial = some .missing ∨ o.volume = some serial) →
      exec (.importProbeResult (.strip serial blank)) s =
        .next { s with picker := { s.picker with
          move := some { m with probed := true, strip := some (serial, blank) } } }) ∧
    (∀ n c, s.Quiet → o.requester = .nobody → o.volume = some n → o.cell = some c →
      exec (.importProbeResult .unreadable) s =
        .next { s.withVolume n (fun v => { v with loc := .cell c }) with
          picker := { s.picker with state := .idle, move := none } })

/-- R74: the 40 s move timer expires on a move that serves no waiting requester: the picker is in FAULT, what the hand
holds stays noted, and a PICKER_FAULT notice names the order's kind and the volume recorded in the hand.  (The clock is
at the deadline at the earliest: log entry 6.) -/
def Obligations.MoveTimeoutPutsThePickerInFault : Prop :=
  ∀ (s : State) (m : Move) (o : Order), s.Quiet → s.picker.move = some m → m.what = .order o →
    o.requester = .nobody → (o.kind = .mount ∨ o.kind = .importIn ∨ o.drive = none) →
    exec .moveTimeout s =
      .next { s.noticing (.pickerFault o.kind ((s.volumeIn .hand).map (fun v => v.serial))) with
        now := max s.now (m.startedAt + 400),
        picker := { s.picker with state := .fault, move := none,
                                  handUnrecorded := s.picker.handUnrecorded || m.carried == .unrecorded } }

/-- R64, R75: the sensors of the hand-off cells.  With the gate open, PLACED in a cell that is not occupied marks it
UNRECORDED; TAKEN clears the mark, and a volume recorded there that the filing pair does not need is removed from the
table.  With the gate closed neither report changes anything. -/
def Obligations.HandOffSensorsSetAndClearTheMark : Prop :=
  ∀ (s : State) (c : Nat), c < 2 → s.startup.acting = true →
    (s.picker.gateOpen (88 + c) = true →
      ((Run.of s).cellOccupied (88 + c) = false →
        exec (.handoffPlaced c) s =
          .next { s with picker := { s.picker with marks := s.picker.marks.set (88 + c) true } }) ∧
      (s.volumeIn (.cell (88 + c)) = none → s.picker.orders = [] →
        exec (.handoffTaken c) s =
          .next { s with picker := { s.picker with marks := s.picker.marks.set (88 + c) false } }) ∧
      (∀ v, s.volumeIn (.cell (88 + c)) = some v → s.Quiet → s.store.pair.claims v.serial = false →
        s.store.pair.names v.serial = false → (∀ x, some x ∈ s.store.volumes → x.serial = v.serial → x.role ≠ .blank) →
        exec (.handoffTaken c) s =
          .next { s with
            picker := { s.picker with marks := s.picker.marks.set (88 + c) false },
            store := { s.store with volumes := s.store.volumes.map (fun x => match x with
              | some y => if y.serial = v.serial then none else some y
              | none => none) } })) ∧
    (s.picker.gateOpen (88 + c) = false →
      exec (.handoffPlaced c) s = .next s ∧ exec (.handoffTaken c) s = .next s)

/-- R78: the hatch button.  In LOCKED with no audit it releases the hatch at once when the arm does not move, with a
notice and the window timer started, and asks for the release when it moves; while an audit runs it sets the
pending-release flag; a hatch on its way to release, or RELEASED or OPEN, takes no notice of it.  The lock is set but in
RELEASED and OPEN, and the lamp is lit in those two. -/
def Obligations.HatchButtonAsksForARelease : Prop :=
  ∀ s : State, s.startup.stage = .done → s.startup.initNext = none →
    (s.picker.hatch = .locked → s.picker.audit = none →
      (s.picker.state ≠ .moving → s.picker.hatchOps = [] →
        exec .hatchButton s =
          .next { s.noticing (.hatchReleased .button) with
            picker := { s.picker with hatch := .released, releaseCause := .button, windowStart := some s.now } }) ∧
      (s.picker.state = .moving →
        exec .hatchButton s =
          .next { s with picker := { s.picker with hatch := .releasePending, releaseCause := .button } })) ∧
    (s.picker.hatch = .auditing ∨ (s.picker.hatch = .locked ∧ s.picker.audit.isSome = true) →
      exec .hatchButton s =
        .next { s with picker := { s.picker with pendingRelease := some (s.picker.pendingRelease.getD .button) } }) ∧
    (s.picker.hatch = .releasePending ∨ s.picker.hatch = .released ∨ s.picker.hatch = .opened →
      exec .hatchButton s = .next s) ∧
    (∀ p : Picker, (p.lampOn = true ↔ p.hatch = .released ∨ p.hatch = .opened) ∧
      (p.lockSet = true ↔ p.hatch = .locked ∨ p.hatch = .releasePending ∨ p.hatch = .auditing))

/-- R79, R80: the release window expires and the hatch is LOCKED; the hatch is opened, which stops the window and a
running audit and clears the pending-release flag; and it is closed, which begins an audit: its re-homing begins at
once when no move is in progress and waits for the move otherwise.  (The clock at the expiry is at the deadline at the
earliest: log entry 6.  That an audit waits for the move in progress, and that one still waiting is dropped at the
opening, is log entry 36.) -/
def Obligations.HatchSensorsAndTheReleaseWindow : Prop :=
  ∀ s : State, s.startup.acting = true →
    (∀ t, s.picker.windowStart = some t → s.picker.hatch = .released → s.picker.orders = [] →
      exec .releaseWindowExpiry s =
        .next { s with now := max s.now (t + 600),
                       picker := { s.picker with hatch := .locked, windowStart := none } }) ∧
    (s.picker.hatch ≠ .opened → s.picker.hatchOps = [] →
      exec .hatchOpened s =
        .next { s with picker := { s.picker with
          hatch := .opened, windowStart := none, pendingRelease := none,
          audit := match s.picker.audit with
            | none => none
            | some a => if a.phase = .waiting then none else some { a with phase := .stopping } } }) ∧
    (s.picker.hatch = .opened →
      let began (p : AuditPhase) : Audit := { phase := p, created := 0, missingBefore := s.store.missing }
      (s.picker.move = none →
        exec .hatchClosed s =
          .next { s with picker := { s.picker with
            hatch := .auditing, audit := some (began .running), state := .moving,
            move := some { what := .reHome, startedAt := s.now, src := none, dest := none, carried := .nothing,
                           probed := false, strip := none } } }) ∧
      (s.picker.move.isSome = true →
        exec .hatchClosed s =
          .next { s with picker := { s.picker with hatch := .auditing, audit := some (began .waiting) } }))

/-- R80, R81, R82: a running audit.  The re-homing that finds an empty hand goes on to the probe of cell 0, and one that
holds a recorded volume puts it into a cell first, where the EXPORT jobs that wait for it act again (R77); a probe sets or
clears the mark of its cell and the audit goes on to the next; after H1 it ends: the hatch is LOCKED, even where a press
had released it (the model's choice, log entry 51), and an AUDIT_DONE notice is taken.  The end of the power-up audit ends
the start-up sequence: STARTED is taken at position 0 (R61, R192). -/
def Obligations.AuditGoesFromCellToCell : Prop :=
  ∀ (s : State) (m : Move) (a : Audit), s.startup.acting = true → s.picker.move = some m →
    s.picker.audit = some a → a.phase = .running →
    let told := s.noticing (.auditDone a.created
      ((s.store.missing.filter (fun n => !a.missingBefore.contains n)).length))
    let ended : Picker := { s.picker with
      marks := s.picker.marks.set 89 false, state := .idle, move := none, audit := none, hatch := .locked,
      windowStart := none }
    let onTo (what : MoveFor) (dest : Option Place) (carried : Carried) : Option Move :=
      some { what := what, startedAt := s.now, src := none, dest := dest, carried := carried, probed := false,
             strip := none }
    (m.what = .reHome → s.volumeIn .hand = none →
      exec (.reHomeEnd false) s =
        .next { s with picker := { s.picker with handUnrecorded := false, state := .moving,
                                                 move := onTo (.probe 0) none .nothing } }) ∧
    (∀ v c, m.what = .reHome → s.volumeIn .hand = some v → (Run.of s).putAwayCell (some v.serial) = some c →
      exec (.reHomeEnd true) s =
        .next { s with picker := { s.picker with
          handUnrecorded := false, state := .moving, move := onTo .putAway (some (.cell c)) (.volume v.serial) } }) ∧
    (∀ n c, m.what = .putAway → m.dest = some (.cell c) → m.carried = .volume n →
      exec .moveEnd s =
        .next (State.following { s.withVolume n (fun v =>
            { v with loc := .cell c, missingOrder := none, home := if c < 88 then some c else none }) with
          picker := { s.picker with handUnrecorded := false, state := .moving,
                                    move := onTo (.probe 0) none .nothing } }
          ((s.sched.jobs.filter (fun j => j.kind == .exportOut n && j.state == .running)).map (fun j => .exportAct j.id))
          false)) ∧
    (∀ c, m.what = .probe c → c < 89 → s.volumeIn (.cell c) = none →
      (∀ p mark, (p = .nothing ∧ mark = false) ∨ (p = .unreadable ∧ mark = true) →
        exec (.probeResult p) s =
          .next { s with picker := { s.picker with marks := s.picker.marks.set c mark, state := .moving,
                                                   move := onTo (.probe (c + 1)) none .nothing } })) ∧
    (∀ c v blank, m.what = .probe c → c < 89 → s.volumeIn (.cell c) = some v → 0 < v.serial →
      v.serial < 4294967296 →
      exec (.probeResult (.strip v.serial blank)) s =
        .next { s with picker := { s.picker with marks := s.picker.marks.set c false, state := .moving,
                                                 move := onTo (.probe (c + 1)) none .nothing } }) ∧
    (m.what = .probe 89 → s.volumeIn (.cell 89) = none → s.toParts.Calm → s.startup.initNext = none →
      s.picker.pendingRelease = none → (∀ v, some v ∈ s.store.volumes → v.role ≠ .unverified) →
      (s.startup.stage = .done → s.startup.started = true →
        exec (.probeResult .nothing) s = .next { told with picker := ended }) ∧
      (s.startup.stage = .audit → s.startup.started = false → s.startup.cause = .powerUp →
        exec (.probeResult .nothing) s =
          .next { told with
            picker := ended,
            startup := { s.startup with auditDone := true, stage := .done, started := true },
            slot := { told.slot with work := told.slot.work ++
              [.notice 0 (.started .powerUp s.startup.batteryGood s.startup.settingsGood)] } }))

/-! ### The drives -/

/-- R90, R91: a LOAD that finds its volume and side.  A confirmed side makes the drive READY at once with the report
recorded; an unconfirmed one is searched first, and the search confirms it, with the write point raised to the first
unwritten sector found, never lowered.  A LOAD that faults, finds no platter, or finds another volume or side leaves the
drive in FAULT with that command (R96). -/
def Obligations.LoadReportMakesTheDriveReady : Prop :=
  ∀ (s : State) (d n : Nat) (side : Side), s.Quiet → d < s.drives.length → d < 4 → 0 < n → n < 4294967296 →
    (s.driveRec d).volume = some (.serial n) → (s.driveRec d).side = side → (s.driveRec d).unloadAsked = false →
    (∀ (c : Issued) (blank : Bool) (label : LabelSector), (s.driveRec d).command = some c → c.command = .load →
      (s.driveRec d).loadFor = .mount → label.wf = true →
      let report : LoadReport := { serial := n, blank := blank, side := side, label := labelReport side label }
      let done := exec (.loadComplete d (some (.platter n blank side label))) s
      ((Run.of s).confirmed n side = true →
        done = .next (s.withDrive d (fun v =>
          { v with loadReport := some report, lastSector := none, command := none, state := .ready,
                   readySince := s.now }))) ∧
      ((Run.of s).confirmed n side = false →
        done = .next (s.withDrive d (fun v =>
          { v with loadReport := some report, lastSector := none,
                   command := some { command := .findWritePoint, buf := 0, start := 0, count := 0, pos := 0,
                                     issuedAt := s.now, discard := false } })))) ∧
    (∀ (c : Issued) (found : Nat), (s.driveRec d).command = some c → c.command = .findWritePoint →
      found ≤ 524288 → s.store.pair = .absent →
      exec (.findWritePointComplete d (some found)) s =
        .next ((s.withVolume n (fun v => v.modSide side (fun x =>
            { x with writePoint := max x.writePoint found, confirmed := true,
                     full := x.full || decide (max x.writePoint found = 524288) }))).withDrive d (fun v =>
          { v with command := none, state := .ready, readySince := s.now }))) ∧
    (∀ (c : Issued) (result : Option LoadResult), (s.driveRec d).command = some c → c.command = .load →
      (s.driveRec d).loadFor = .mount → (s.driveRec d).bufA = Buffer.blank → (s.driveRec d).bufB = Buffer.blank →
      s.mover.streams = [] → s.mover.presented = none → s.path.port = .free →
      (result = none ∨ result = some .noPlatter ∨ ∃ m blank sd label, result = some (.platter m blank sd label) ∧
        0 < m ∧ m < 4294967296 ∧ label.wf = true ∧ (m ≠ n ∨ sd ≠ side)) →
      exec (.loadComplete d result) s =
        .next ((s.noticing (.driveFault d false (some .load))).withDrive d (fun v =>
          { v with state := .fault, faultTimeout := false, faultCommand := some .load, command := none,
                   unloadAsked := false, rereads := [], asks := [], reloadNext := false })))

/-- R99: a power-up LOAD ends while another drive has still to report.  A drive without a platter is EMPTY and has
reported; a platter that the Inventory records, in this drive or at another place, is recorded in the drive, whose write
point is searched.  Left out: another volume recorded in the drive, which becomes MISSING, a serial that is not recorded or
that another drive holds, and a FAULT completion. -/
def Obligations.PowerUpLoadReportsTheDrive : Prop :=
  ∀ (s : State) (d e : Nat) (c : Issued), s.toParts.Calm → s.startup.stage = .drives →
    s.startup.started = false → s.startup.loadsIssued = true → d < s.drives.length → d < 4 → e ≠ d →
    s.startup.driveReported[e]? = some false → (s.driveRec d).command = some c → c.command = .load →
    (s.driveRec d).loadFor = .powerUp →
    (s.volumeIn (.drive d) = none →
      exec (.powerUpLoadComplete d (some .noPlatter)) s =
        .next { s.withDrive d (fun v =>
            { v with state := .empty, volume := none, side := .a, loadReport := none, command := none,
                     unloadAsked := false, reloadNext := false, faultTimeout := false, faultCommand := none }) with
          startup := { s.startup with driveReported := s.startup.driveReported.set d true } }) ∧
    (∀ (n : Nat) (blank : Bool) (side : Side) (label : LabelSector) (v : Volume), 0 < n → n < 4294967296 →
      label.wf = true → (∀ x ∈ s.drives, x.volume ≠ some (.serial n)) → (Run.of s).volume n = some v →
      (s.volumeIn (.drive d) = none ∨ s.volumeIn (.drive d) = some v) →
      (v.sideRec side).confirmed = false →
      exec (.powerUpLoadComplete d (some (.platter n blank side label))) s =
        .next ((s.withVolume n (fun v => { v with loc := .drive d, missingOrder := none })).withDrive d (fun v =>
          { v with volume := some (.serial n), side := side, loadFor := .mount, lastSector := none,
                   loadReport := some { serial := n, blank := blank, side := side, label := labelReport side label },
                   command := some { command := .findWritePoint, buf := 0, start := 0, count := 0, pos := 0,
                                     issuedAt := s.now, discard := false } })))

/-- R92, R159, R160: a header READ reported with a SYNDROME makes position 0 pending with one read taken and issues its
REREAD; a REREAD reported with another syndrome, while reads are left, leaves it pending with one read more and issues
the next.  R161, R162: a REREAD of a data position that repeats its syndrome, decodable and with correction allowed,
corrects the sector: the log has an entry, the read's tally and the side's count rise, and the stream may move the
position.  One with another syndrome and no read left is uncorrectable, and logged so.  R127, R128, R158: a header sector
reported CLEAN, by its READ or by a REREAD, makes position 0 clean and is examined: one that is accepted sets the frame's
page fields, and the data READ of the page's other sectors is asked for; any other fails the fill with ID_MISMATCH.  A data
READ whose sectors are all CLEAN makes their positions clean, and the emptying stream begins; a REREAD of a data position
reported CLEAN makes it clean.  While the Frame Mover has no stream, the data READ follows at once on an accepted header
READ.  That the Frame Mover then presents its next transfer, and the drive and the Scheduler go on after it, all inside the
command and in the order stated, is the model's choice: log entries 8 and 25.  Left out: a page in buffer B, a header judged
by its syndromes, a data READ with a SYNDROME or an unwritten sector, and a read with correction disallowed. -/
def Obligations.SyndromesAreReread : Prop :=
  ∀ (s : State) (d f syn : Nat) (data : List Byte) (c : Issued) (t : Task), d < s.drives.length → d < 4 →
    s.sched.assigns = List.replicate 4 Assign.clear →
    (s.driveRec d).state = .busy → (s.driveRec d).command = some c → c.buf = 0 → c.discard = false →
    (s.driveRec d).rereads = [] → (s.driveRec d).asks = [] → (s.driveRec d).bufA.burned = false →
    (s.driveRec d).bufB = Buffer.blank → (s.driveRec d).bufA.serves = some (.task f) →
    s.retr.tasks.find? (fun x => x.frame == f) = some t → t.frame = f → 0 < syn → syn < 4294967296 →
    data.length ≤ 1024 →
    let again : Option Issued :=
      some { command := .reread, buf := 0, start := t.loc.sector, count := 1, pos := 0, issuedAt := s.now,
             discard := false }
    let read : SectorRead := { report := .syndrome syn, data := data }
    let fresh : Judging :=
      { frame := f, loc := t.loc, positions := [], tally := 0, uncorrectable := false, entries := [] }
    let pend (js : List Judging) (reads : Nat) : List Judging :=
      js.map (fun j => if j.frame = f then j.put 0 (.pending reads syn) else j)
    (c.command = .read → c.pos = 0 → (s.driveRec d).bufA.count = 1 → (s.driveRec d).bufA.start = t.loc.sector →
      c.count = 1 → 0 < s.settings.retry →
      exec (.readComplete d (some [read])) s =
        .next { s.withDrive d (fun v =>
            { v with command := again, lastSector := some c.start,
                     bufA := { v.bufA with state := .held, positions := [read] } }) with
          media := { s.media with judging := pend (s.media.judging ++ [fresh]) 1 } }) ∧
    (∀ reads latest, c.command = .reread → c.pos = 0 → (s.driveRec d).bufA.count = 1 → (s.driveRec d).bufA.start = t.loc.sector →
      (s.media.judging.find? (fun j => j.frame == f)).bind (fun j => j.get 0) = some (.pending reads latest) →
      syn ≠ latest → reads < s.settings.retry →
      exec (.rereadComplete d (some read)) s =
        .next { s.withDrive d (fun v =>
            { v with command := again, bufA := { v.bufA with positions := v.bufA.positions.set 0 read } }) with
          media := { s.media with judging := pend s.media.judging (reads + 1) } }) ∧
    (∀ reads latest, c.command = .reread → 0 < c.pos → s.media.counter < 4294967295 → s.media.log.length < 32 →
      (s.media.judging.find? (fun j => j.frame == f)).bind (fun j => j.get c.pos) = some (.pending reads latest) →
      let seq := s.media.counter + 1
      let logged (corrected : Bool) (g : Judging → Judging) : MediaCheck :=
        { s.media with
          counter := seq,
          log := s.media.log ++
            [{ seq := seq, loc := { t.loc with sector := t.loc.sector + c.pos }, reads := reads + 1,
               corrected := corrected, syndrome := syn, mark := .none }],
          judging := s.media.judging.map (fun j => if j.frame = f then
            g { (j.put c.pos (if corrected then .corrected else .uncorrectable)) with entries := j.entries ++ [seq] }
            else j) }
      let took (x : SectorRead) : State := s.withDrive d (fun v =>
        { v with command := none, bufA := { v.bufA with positions := v.bufA.positions.set c.pos x } })
      (syn = latest → s.settings.correction = true → decodable syn = true →
        c.pos < (s.driveRec d).bufA.positions.length →
        exec (.rereadComplete d (some read)) s =
          .next (State.following { (took { read with data := correctSector syn data }).withVolume t.loc.serial
              (fun v => v.modSide t.loc.side (fun x => { x with corrected := satInc 65535 x.corrected })) with
            media := logged true (fun j => { j with tally := j.tally + 1 }) }
          [.present, .drive d] false)) ∧
      (syn ≠ latest → s.settings.retry ≤ reads →
        exec (.rereadComplete d (some read)) s =
          .next (State.following { took read with
            media := logged false (fun j => { j with uncorrectable := true }) }
          [.present, .drive d] false))) ∧
    (let clean : SectorRead := { report := .clean, data := data }
     let judged (js : List Judging) (p : Nat) : MediaCheck :=
       { s.media with judging := js.map (fun j => if j.frame = f then j.put p .clean else j) }
     let accepted (x : State) (info : PageInfo) (origin : Bool) : State :=
       { x with
         frame := (match x.frameAt f with
           | .filling tag phase _ mark dm co hs =>
             { x.frame with frames := x.frame.frames.set (f - 1) (.filling tag phase (some info) mark dm co hs) }
           | _ => x.frame),
         retr := { x.retr with tasks := x.retr.tasks.map (fun y =>
           if y.frame = f then { y with phase := .data, origin := origin } else y) } }
     let examined (x : State) (told : List Todo) : State :=
       match acceptHeader t.loc data with
       | none => x.following ([.present, .fillFail f .idMismatch] ++ told) false
       | some (info, origin) =>
         ((accepted x info origin).withDrive d (fun v => { v with asks := [{ frame := f, data := true }] })).following
           ([.present, .drive d] ++ told) false
     (c.command = .read → c.pos = 0 → c.count = 1 → (s.driveRec d).bufA.count = 1 → 0 < f →
       let arrived (command : Option Issued) : State :=
         { s.withDrive d (fun v => { v with
             command := command, lastSector := some c.start,
             bufA := { v.bufA with state := .held, positions := [clean] } }) with
           media := judged (s.media.judging ++ [fresh]) 0 }
       exec (.readComplete d (some [clean])) s = .next (examined (arrived none) [.drive d, .placeTasks d]) ∧
       (∀ info origin, acceptHeader t.loc data = some (info, origin) → s.mover.streams = [] →
         (∃ tag phase old mark dm co hs, s.frameAt f = .filling tag phase old mark dm co hs) →
         exec (.readComplete d (some [clean])) s =
           .next ((accepted (arrived (some
               { command := .read, buf := 0, start := t.loc.sector + 1,
                 count := min (ceilDiv info.imageLen 1024) (524288 - (t.loc.sector + 1)), pos := 1,
                 issuedAt := s.now, discard := false })) info origin).withDrive d (fun v =>
             { v with bufA := { v.bufA with state := .reading, side := t.loc.side, start := t.loc.sector + 1,
                                            count := ceilDiv info.imageLen 1024 } })))) ∧
     (∀ ss : List SectorRead, c.command = .read → 0 < c.pos → ss.length = c.count → ss.length ≤ 129 →
       (s.driveRec d).bufA.count = c.count → (∀ x ∈ ss, x.report = .clean ∧ x.data.length ≤ 1024) →
       exec (.readComplete d (some ss)) s =
         .next (State.following { s.withDrive d (fun v => { v with
             command := none, lastSector := some (c.start + c.count - 1),
             bufA := { v.bufA with state := .held, positions := v.bufA.positions.take 1 ++ ss } }) with
           retr := { s.retr with tasks := s.retr.tasks.map (fun y =>
             if y.frame = f then { y with phase := .emptying } else y) },
           mover := { s.mover with streams := s.mover.streams ++
             [{ idx := 2 * d, frame := f, loading := false, pos := 1, done := 0, total := 32, acc := [] }] },
           media := { s.media with judging := s.media.judging.map (fun j => if j.frame = f then
             (List.range ss.length).foldl (fun j i => j.put (i + 1) .clean) j else j) } }
         (List.replicate ss.length .present ++ [.drive d, .placeTasks d]) false)) ∧
     (∀ reads latest, c.command = .reread → c.pos < (s.driveRec d).bufA.positions.length → 0 < f →
       (s.media.judging.find? (fun j => j.frame == f)).bind (fun j => j.get c.pos) = some (.pending reads latest) →
       let took : State :=
         { s.withDrive d (fun v =>
             { v with command := none, bufA := { v.bufA with positions := v.bufA.positions.set c.pos clean } }) with
           media := judged s.media.judging c.pos }
       exec (.rereadComplete d (some clean)) s =
         .next (if c.pos = 0 then examined took [.drive d] else took.following [.present, .drive d] false)))

/-- R93: a BURN, from either buffer, that completes OK is verified: the last sector is the end of its range and VERIFY of the
same range is the next command.  R96, R147: a BURN that completes with FAULT puts the drive in FAULT with cause FAULT and
command BURN, its buffers FREE, with a DRIVE_FAULT notice, and the copy has the result FAIL; then the burn job that holds the
drive fails with DRIVE_FAULT, the Filing Unit goes on, and the other blocks are told.  (A BURN has no other outcome: FAIL is
one of a VERIFY, the next statement.)  The order in which those consequences follow, inside the command, is the model's
choice: log entry 8.  The FAULT is stated while the drive's other buffer is FREE. -/
def Obligations.BurnsAreVerified : Prop :=
  ∀ (s : State) (d : Nat) (c : Issued), d < s.drives.length → d < 4 → (s.driveRec d).state = .busy →
    (s.driveRec d).command = some c → c.command = .burn → c.buf < 2 →
    ((s.driveRec d).buf c.buf).state = .burning →
    (((s.driveRec d).buf (1 - c.buf)).burned = false →
      exec (.burnComplete d true) s =
        .next (s.withDrive d (fun v =>
          { v.modBuf c.buf (fun b => { b with state := .verifying, burned := false }) with
            lastSector := some (c.start + c.count - 1),
            command := some { command := .verify, buf := c.buf, start := (v.buf c.buf).start,
                              count := (v.buf c.buf).count, pos := 0, issuedAt := s.now, discard := false } }))) ∧
    (∀ i, ((s.driveRec d).buf c.buf).serves = some (.item i) → (s.driveRec d).buf (1 - c.buf) = Buffer.blank →
      s.startup.inService = true → (∀ y ∈ s.restores, y.drive ≠ d) → (∀ y ∈ s.mover.streams, y.idx / 2 ≠ d) →
      (∀ k, s.mover.presented = some k → k / 2 ≠ d) →
      exec (.burnComplete d false) s =
        .next (State.following { (s.noticing (.driveFault d false (some .burn))).withDrive d (fun v =>
              { v with state := .fault, faultTimeout := false, faultCommand := some .burn, command := none,
                       unloadAsked := false, rereads := [], asks := [], reloadNext := false, bufA := Buffer.blank,
                       bufB := Buffer.blank }) with
            filing := { s.filing with flight := s.filing.flight.map (fun f =>
              if f.id = i then f.setCopy d .failed else f) } }
          ((match ((Run.of s).assignAt d).holder with
            | some j => [.burnFails j .driveFault]
            | none => []) ++ [.pump, .driveFault d false]) false))

/-- R93, R147: a VERIFY ends with PASS or FAIL: its buffer is FREE and the copy has its result; then the Filing Unit and
the drive go on.  With the burn job in hand and the other copy of every item still to come, the drive is READY and the
Filing Unit waits.  That both go on inside the command, the Filing Unit before the drive, is the model's choice: log entry
8. -/
def Obligations.VerifyGivesTheCopyItsResult : Prop :=
  ∀ (s : State) (d i : Nat) (c : Issued) (result : VerifyResult) (copied : CopyState),
    d < s.drives.length → d < 4 → (s.driveRec d).command = some c → c.command = .verify → c.buf < 2 →
    ((s.driveRec d).buf c.buf).serves = some (.item i) →
    s.mover.streams.find? (fun y => y.idx == 2 * d + c.buf) = none → s.mover.presented ≠ some (2 * d + c.buf) →
    ((result = .pass ∧ copied = .passed) ∨ (result = .fail ∧ copied = .failed)) →
    let drive (f : Drive → Drive) : State := s.withDrive d (fun v =>
      f { (v.modBuf c.buf (fun _ => Buffer.blank)) with
        command := none, rereads := v.rereads.filter (fun x => x.1 != c.buf) })
    let flight := s.filing.flight.map (fun f => if f.id = i then f.setCopy d copied else f)
    exec (.verifyComplete d result) s =
      .next (State.following { drive id with filing := { s.filing with flight := flight } } [.pump, .drive d] false) ∧
    (∀ (j : Job) (b : BurnJob) (p q : Nat), s.startup.stage ≠ .drives → s.sched.queues.flatten = [] →
      s.store.pair = .active p q .a → (Run.of s).inHand = some j → j.state = .running →
      (Run.of s).burnAt j.id = some b → b.waiting = [] → b.failing = none → s.filing.flight ≠ [] →
      (∀ f ∈ s.filing.flight, ∃ y ∈ f.copies, y.drive ≠ d ∧ y.state = .handed) →
      (∀ x ∈ s.sched.assigns, x.tasks = [] ∧ x.flip = none ∧ x.departure = none ∧ x.incoming = none ∧ x.label = none) →
      (s.driveRec d).state = .busy → (s.driveRec d).buf (1 - c.buf) = Buffer.blank → (s.driveRec d).rereads = [] →
      (s.driveRec d).asks = [] → (s.driveRec d).unloadAsked = false →
      exec (.verifyComplete d result) s =
        .next { drive (fun v => { v with state := .ready, readySince := s.now }) with
          filing := { s.filing with flight := flight } })

/-- R88, R145: the last read of a stream that loads a page's buffer.  The buffer holds the page's sectors, read from
document memory and zero-filled beyond the image's end, the stream is over, and the copy is loaded; then the Frame Mover
presents its next transfer and the Filing Unit goes on.  While the other copy of the running job's last item is still
loading, the Filing Unit waits.  That the Frame Mover presents at once, before the Filing Unit goes on, both inside the
command, is the model's choice: log entries 25 and 8.  Left out: buffer B, a side label, which needs no read, and a parity
fault on the frame. -/
def Obligations.LoadedBufferHoldsThePage : Prop :=
  ∀ (s : State) (st : Stream) (d i : Nat),
    d < s.drives.length → d < 4 → st.idx = 2 * d → s.path.port = .mover .frameMover (.stream st.idx) →
    s.mover.streams.find? (fun y => y.idx == st.idx) = some st → s.mover.presented = none →
    st.loading = true → st.done + 1 = st.total → 0 < st.frame → (s.driveRec d).bufA.serves = some (.item i) →
    let len := (s.frameAt st.frame).imageLen
    let n := min 32 (4 * ceilDiv len 4 - 32 * st.done)
    let bytes := st.acc ++ s.mem.readBytes (131072 * st.frame + 32 * st.done) n
    let sectors : List SectorRead := (List.range (ceilDiv len 1024)).map (fun i =>
      { report := .clean, data := zeroBeyond len (1024 * i) (bytes.drop (1024 * i)) })
    let loaded : State := { s.freePort.withDrive d (fun v =>
          { v with bufA := { v.bufA with positions := v.bufA.positions.take 1 ++ sectors,
                                         moved := ceilDiv len 1024 } }) with
        mover := { s.mover with streams := s.mover.streams.filter (fun y => y.idx != st.idx) },
        filing := { s.filing with flight := s.filing.flight.map (fun f =>
          if f.id = i then f.setCopy d .loaded else f) } }
    s.mem.faults (131072 * st.frame + 32 * st.done) n = false →
    exec (.bufferLoaded d []) s = .next (loaded.following [.present, .pump] false) ∧
    (∀ (f : Flight) (j : Job) (b : BurnJob) (y : Copy) (p q : Nat), s.filing.flight = [f] → y ∈ f.copies →
      y.drive ≠ d → y.state = .loading → s.store.pair = .active p q .a → (Run.of s).inHand = some j →
      j.state = .running → (Run.of s).burnAt j.id = some b → b.waiting = [] → b.failing = none →
      exec (.bufferLoaded d []) s = .next loaded.presenting)

/-- R94, R98: an UNLOAD that completes leaves the platter for the order that waits for it, or reloads the drive when the
order has ended; a RESTORE that finds a platter is followed by an UNLOAD, with the drive out of FAULT. -/
def Obligations.UnloadedDriveWaitsForItsOrder : Prop :=
  ∀ (s : State) (d : Nat) (c : Issued), d < s.drives.length → d < 4 → (s.driveRec d).command = some c →
    (c.command = .unload → (s.driveRec d).state = .unloading →
      ((s.driveRec d).reloadNext = false → s.restores = [] → (s.picker.orders = [] ∨ s.picker.state ≠ .idle) →
        exec (.unloadComplete d true) s =
          .next (s.withDrive d (fun v => { v with command := none, unloadAsked := false }))) ∧
      (∀ n, (s.driveRec d).reloadNext = true → (s.driveRec d).volume = some (.serial n) →
        exec (.unloadComplete d true) s =
          .next (s.withDrive d (fun v =>
            { v with unloadAsked := false, state := .loading, loadFor := .mount, reloadNext := false,
                     lastSector := none,
                     command := some { command := .load, buf := 0, start := 0, count := 0, pos := 0,
                                       issuedAt := s.now, discard := false } })))) ∧
    (c.command = .restore → c.discard = false →
      exec (.restoreComplete d (some true)) s =
        .next { s.withDrive d (fun v =>
            { v with faultTimeout := false, faultCommand := none, state := .unloading, unloadAsked := false,
                     command := some { command := .unload, buf := 0, start := 0, count := 0, pos := 0,
                                       issuedAt := s.now, discard := false } }) with
          restores := s.restores.map (fun y =>
            if y.drive = d ∧ y.phase = .restoring then { y with phase := .unloading } else y) })

/-- R95, R96: the command of a drive that does no other work reaches its time limit: the drive is in FAULT with cause
TIMEOUT and that command, its channel is free, and a DRIVE_FAULT notice is taken.  (The clock is at the deadline at the
earliest: log entry 6.)  A command that the drive reports as FAULT puts it in FAULT with cause FAULT. -/
def Obligations.DriveTimeoutPutsTheDriveInFault : Prop :=
  ∀ (s : State) (d : Nat) (c : Issued), s.Quiet → d < s.drives.length → d < 4 → (s.driveRec d).command = some c →
    (c.command = .unload ∨ c.command = .findWritePoint ∨ (c.command = .load ∧ (s.driveRec d).loadFor = .mount)) →
    (s.driveRec d).bufA = Buffer.blank → (s.driveRec d).bufB = Buffer.blank → s.mover.streams = [] →
    s.mover.presented = none → s.path.port = .free →
    let faulted (timeout : Bool) : State :=
      (s.noticing (.driveFault d timeout (some c.command))).withDrive d (fun v =>
        { v with state := .fault, faultTimeout := timeout, faultCommand := some c.command, command := none,
                 unloadAsked := false, rereads := [], asks := [], reloadNext := false })
    exec (.driveTimeout d) s = .next { faulted true with now := max s.now (c.issuedAt + c.command.limit) } ∧
    (c.command = .unload → exec (.unloadComplete d false) s = .next (faulted false)) ∧
    (c.command = .findWritePoint → exec (.findWritePointComplete d none) s = .next (faulted false)) ∧
    (c.command = .load → exec (.loadComplete d none) s = .next (faulted false))

/-! ### Copier ports and relocation -/

/-- R182: the idle timer of a copier port reaches its limit: the cursor is idle and a SWEEP_LOST notice names the port
and the frame; no account is charged.  (The clock is at the deadline at the earliest: log entry 6.) -/
def Obligations.IdleSweepsAreLost : Prop :=
  ∀ (s : State) (p : Nat) (k : Cursor), s.startup.inService = true → p < 8 → s.fee.cursor p = some k →
    exec (.sweepIdleExpiry p) s =
      .next { s.noticing (.sweepLost p k.frame true) with
        now := max s.now (k.timerAt + s.settings.idleLimit),
        fee := { s.fee with cursors := s.fee.cursors.set p none } }

/-- R166: a relocation job whose frame still bears the old location takes its hold: the frame leaves the reclaim list,
and a level 3 job with the next acceptance number and a burn job of its one page are made (here while another burn job
is running, so that no drive is taken yet).  One whose frame bears another location is dropped: its entry is FREE and
its log entries are DEFERRED.  R147, R155, R163, R167: the VERIFY that passes the second copy of a relocation job's page
settles it: the write points of both volumes rise past the page, its entry is AWAITING_ACK with the new location, which is
the primary copy's, RELOCATED is told, the job is over and leaves the Media Check Unit's list, and the frame loses the job's
hold and keeps its tag, joining the reclaim list when nothing else keeps it (stated where no other work is in hand).  That
all of it falls inside the one command is the model's choice: log entry 8. -/
def Obligations.RelocationJobTakesItsHold : Prop :=
  (∀ (s : State) (f : Nat) (q : RelocJob) (tag : Location) (info : PageInfo) (dm co : Bool) (hs : List Holder),
    0 < f → f ≤ s.frame.frames.length → f < 512 →
    s.media.relocJobs.find? (fun q => q.frame == f && q.job.isNone) = some q → q.frame = f →
    s.frameAt f = .sealed tag info dm co hs →
    (tag = q.old → Holder.relocation q.entry ∉ hs → s.startup.started = true → s.startup.acting = true →
      s.sched.queues = [[], [], [], []] → (∀ j ∈ s.sched.jobs, j.id ≠ s.sched.nextJob) →
      (∃ j ∈ s.sched.jobs, j.kind = .file ∧ j.state = .running) →
      let id := s.sched.nextJob
      let age := s.slot.nextAge
      exec (.relocationJobHit f) s =
        .next { s with
          frame := { s.frame with
            frames := s.frame.frames.set (f - 1) (.sealed tag info dm co (hs ++ [.relocation q.entry])),
            reclaim := s.frame.reclaim.filter (fun n => n != f) },
          slot := { s.slot with nextAge := if age < 4294967295 then age + 1 else age },
          sched := { s.sched with
            jobs := s.sched.jobs ++ [{ id := id, kind := .relocation q.entry, level := 3, age := age, slot := none,
                                       state := .queued, started := false, needs := [], pair := none,
                                       pendingPreempt := false, awaited := [], cancelTaken := false }],
            queues := [[], [], [], [id]], nextJob := id + 1 },
          media := { s.media with relocJobs := s.media.relocJobs.map (fun x =>
            if x.entry = q.entry then { x with job := some id } else x) },
          filing := { s.filing with burns := s.filing.burns ++
            [{ job := id, slot := none, entry := some q.entry, deedClass := info.deedClass, deedSeq := info.deedSeq,
               pageIndex := info.pageIndex, stamp := List.replicate 8 0, origin := some tag,
               pages := [{ frame := f, imageLen := info.imageLen, attempts := 0, placed := none }],
               waiting := [.page 0], failing := none }] } }) ∧
    (tag ≠ q.old →
      exec (.relocationJobHit f) s =
        .next { s with
          store := { s.store with relocs := s.store.relocs.set q.entry .free },
          media := { s.media with
            log := s.media.log.map (fun e => if q.entries.contains e.seq then { e with mark := .deferred } else e),
            relocJobs := s.media.relocJobs.filter (fun x => x.entry != q.entry) } })) ∧
  (∀ (s : State) (d : Nat) (c : Issued) (j : Job) (b : BurnJob) (p : BurnPage) (q : RelocJob) (i : Flight) (cp cs : Copy)
      (x y : Nat) (side : Side) (tag : Location) (info : PageInfo) (dm co : Bool) (hs : List Holder),
    s.startup.inService = true → s.startup.stage ≠ .drives → d < s.drives.length → d < 4 →
    (s.driveRec d).command = some c → c.command = .verify → c.buf < 2 →
    ((s.driveRec d).buf c.buf).serves = some (.item i.id) → (s.driveRec d).buf (1 - c.buf) = Buffer.blank →
    (s.driveRec d).state = .busy → (s.driveRec d).rereads = [] → (s.driveRec d).asks = [] →
    (s.driveRec d).unloadAsked = false → s.mover.streams = [] → s.mover.presented = none →
    s.filing.flight = [i] → i.job = some j.id → i.item = .page 0 → i.primary = some cp → i.safety = some cs →
    ((cp.drive = d ∧ cs.drive ≠ d ∧ cp.state = .handed ∧ cs.state = .passed) ∨
      (cs.drive = d ∧ cp.drive ≠ d ∧ cs.state = .handed ∧ cp.state = .passed)) →
    s.filing.burns = [b] → b.job = j.id → b.slot = none → b.entry = some q.entry → b.pages = [p] → p.frame = q.frame →
    b.waiting = [] → b.failing = none → s.filing.closeOps = [] → s.store.pair = .active x y side →
    s.sched.jobs = [j] → j.kind = .relocation q.entry → j.state = .running → j.cancelTaken = false → j.slot = none →
    s.sched.queues = [[], [], [], []] → s.sched.suspended = [] → s.sched.assigns.length = 4 →
    (∀ a ∈ s.sched.assigns, a = Assign.clear ∨ a = { Assign.clear with holder := some j.id }) →
    s.retr.tasks = [] → s.retr.fetches = [] → s.frame.waitQueue = [] → s.picker.orders = [] → s.restores = [] →
    s.media.relocJobs = [q] → s.store.relocs[q.entry]? = some (.reserved q.old) → 0 < q.frame →
    s.frameAt q.frame = .sealed tag info dm co hs → Holder.relocation q.entry ∈ hs → s.fee.grantCount q.frame = 0 →
    q.frame ∉ s.frame.reclaim →
    let new : Location := { serial := cp.serial, side := i.side, sector := i.start }
    let left := hs.filter (fun h => h != .relocation q.entry)
    let raise (t : State) (n : Nat) : State :=
      t.withVolume n (fun v => v.modSide i.side (fun z => z.raise (i.start + i.length)))
    let raised := raise (raise s cp.serial) cs.serial
    exec (.verifyComplete d .pass) s =
      .next { s.withDrive d (fun v =>
          { v.modBuf c.buf (fun _ => Buffer.blank) with command := none, state := .ready, readySince := s.now }) with
        store := { raised.store with relocs := s.store.relocs.set q.entry (.awaitingAck q.old new) },
        slot := s.slot.takeNotice (.relocated q.old new),
        media := { s.media with relocJobs := [] },
        filing := { s.filing with flight := [], burns := [] },
        sched := { s.sched with jobs := [], assigns := List.replicate 4 Assign.clear },
        frame := { s.frame with
          frames := s.frame.frames.set (q.frame - 1) (.sealed tag info dm co left),
          reclaim := if left = [] then s.frame.reclaim ++ [q.frame] else s.frame.reclaim } })
end

