-- ==== Sys2Proof/Laws/Memory.lean ====
section
/-! SUPPORT. Laws/Memory.lean: what the operations over document memory do to one byte, and that each of them
keeps the canonical form. -/

namespace Sys2Proof.Machine

open Sys2Proof.Config

/-! ### Rising lists -/

theorem rising_iff_pairwise (l : List Nat) : rising l = true ↔ l.Pairwise (· < ·) := by
  induction l with
  | nil => simp [rising]
  | cons a t ih =>
    cases t with
    | nil => simp [rising]
    | cons b u =>
      simp only [rising, Bool.and_eq_true, decide_eq_true_eq, ih]
      constructor
      · rintro ⟨hab, hbu⟩
        refine List.pairwise_cons.2 ⟨?_, hbu⟩
        intro c hc
        rcases List.mem_cons.1 hc with rfl | hc
        · exact hab
        · exact lt_trans hab ((List.pairwise_cons.1 hbu).1 c hc)
      · intro h
        have h' := List.pairwise_cons.1 h
        exact ⟨h'.1 b (by simp), h'.2⟩

theorem mem_insertUp (a x : Nat) (l : List Nat) : x ∈ insertUp a l ↔ x = a ∨ x ∈ l := by
  induction l with
  | nil => simp [insertUp]
  | cons b t ih =>
    unfold insertUp
    split
    · simp
    · split
      · subst_vars; simp
      · simp [ih]; tauto

theorem insertUp_rising (a : Nat) (l : List Nat) (h : rising l = true) : rising (insertUp a l) = true := by
  rw [rising_iff_pairwise] at *
  induction l with
  | nil => simp [insertUp]
  | cons b t ih =>
    have hb := List.pairwise_cons.1 h
    unfold insertUp
    split
    · rename_i hab
      refine List.pairwise_cons.2 ⟨?_, h⟩
      intro c hc
      rcases List.mem_cons.1 hc with rfl | hc
      · exact hab
      · exact lt_trans hab (hb.1 c hc)
    · split
      · exact h
      · refine List.pairwise_cons.2 ⟨?_, ih hb.2⟩
        intro c hc
        rcases (mem_insertUp a c t).1 hc with rfl | hc
        · omega
        · exact hb.1 c hc

theorem foldl_insertUp_rising (xs l : List Nat) (h : rising l = true) :
    rising (xs.foldl (fun l b => insertUp b l) l) = true := by
  induction xs generalizing l with
  | nil => exact h
  | cons x xs ih => exact ih _ (insertUp_rising x l h)

theorem filter_rising (p : Nat → Bool) (l : List Nat) (h : rising l = true) : rising (l.filter p) = true := by
  rw [rising_iff_pairwise] at *
  exact h.sublist List.filter_sublist

/-! ### The list of cells -/

/-- The addresses of a list of cells. -/
abbrev keys (cs : List Host.Cell) : List Nat := cs.map (fun c => c.1)

theorem mem_keys_cellPut (cs : List Host.Cell) (a : Nat) (o : Option Byte) (x : Nat) :
    x ∈ keys (cellPut cs a o) → x = a ∨ x ∈ keys cs := by
  induction cs with
  | nil => cases o <;> simp [cellPut]
  | cons c t ih =>
    obtain ⟨k, w⟩ := c
    unfold cellPut
    split
    · simp only [List.map_cons, List.mem_cons]
      rintro (rfl | h)
      · simp
      · rcases ih h with h | h <;> simp [h]
    · split <;> cases o <;> simp only [List.map_cons, List.mem_cons] <;> tauto

theorem cellPut_rising (cs : List Host.Cell) (a : Nat) (o : Option Byte) (h : rising (keys cs) = true) :
    rising (keys (cellPut cs a o)) = true := by
  rw [rising_iff_pairwise] at *
  induction cs with
  | nil => cases o <;> simp [cellPut]
  | cons c t ih =>
    obtain ⟨k, w⟩ := c
    have hk := List.pairwise_cons.1 h
    unfold cellPut
    split
    · rename_i hka
      refine List.pairwise_cons.2 ⟨?_, ih hk.2⟩
      intro x hx
      rcases mem_keys_cellPut t a o x hx with rfl | hx
      · exact hka
      · exact hk.1 x hx
    · split
      · rename_i hka
        subst hka
        cases o
        · exact hk.2
        · exact h
      · cases o
        · exact h
        · refine List.pairwise_cons.2 ⟨?_, h⟩
          intro x hx
          simp only [List.mem_cons, List.map_cons] at hx
          show a < x
          rcases hx with rfl | hx
          · omega
          · have : k < x := hk.1 x hx
            omega

theorem all_cellPut (p : Host.Cell → Bool) (cs : List Host.Cell) (a : Nat) (o : Option Byte) (h : cs.all p = true)
    (ho : ∀ v, o = some v → p (a, v) = true) : (cellPut cs a o).all p = true := by
  induction cs with
  | nil => cases o <;> simp [cellPut]; exact ho _ rfl
  | cons c t ih =>
    obtain ⟨k, w⟩ := c
    simp only [List.all_cons, Bool.and_eq_true] at h
    unfold cellPut
    split
    · simp [h.1, ih h.2]
    · split
      · cases o
        · exact h.2
        · simp only [List.all_cons, ho _ rfl, Bool.true_and]; exact h.2
      · cases o
        · simpa using h
        · simp only [List.all_cons, ho _ rfl, h.1, Bool.true_and]; exact h.2

theorem cellAt_eq_none (cs : List Host.Cell) (a : Nat) (h : ∀ x ∈ keys cs, a < x) : cellAt cs a = none := by
  induction cs with
  | nil => rfl
  | cons c t ih =>
    obtain ⟨k, w⟩ := c
    have hk : a < k := h k (by simp)
    unfold cellAt
    rw [if_neg (by omega)]
    exact ih (fun x hx => h x (by simp at hx ⊢; exact Or.inr hx))

/-- What one address holds after one is put: the new entry there, and the old one everywhere else. -/
theorem cellAt_cellPut (cs : List Host.Cell) (a x : Nat) (o : Option Byte) (h : rising (keys cs) = true) :
    cellAt (cellPut cs a o) x = if x = a then o else cellAt cs x := by
  rw [rising_iff_pairwise] at h
  induction cs with
  | nil =>
    cases o with
    | none => simp [cellPut, cellAt]
    | some v => by_cases hx : x = a <;> simp [cellPut, cellAt, hx, eq_comm]; intro h; exact absurd h.symm hx
  | cons c t ih =>
    obtain ⟨k, w⟩ := c
    have hk := List.pairwise_cons.1 h
    have ih' := ih hk.2
    by_cases hka : k < a
    · simp only [cellPut, if_pos hka, cellAt, ih']
      by_cases hkx : k = x
      · subst hkx; simp [Nat.ne_of_lt hka]
      · simp [hkx]
    · by_cases hka' : k = a
      · subst hka'
        cases o with
        | none =>
          simp only [cellPut, if_neg hka, if_true, cellAt]
          by_cases hx : x = k
          · subst hx; simp only [if_true]; exact cellAt_eq_none t x hk.1
          · simp [hx, Ne.symm hx]
        | some v =>
          simp only [cellPut, if_neg hka, if_true, cellAt]
          by_cases hx : x = k
          · simp [hx]
          · simp [hx, Ne.symm hx]
      · have hak : a < k := by omega
        have hall : ∀ y ∈ keys ((k, w) :: t), a < y := by
          intro y hy
          simp only [List.map_cons, List.mem_cons] at hy
          rcases hy with rfl | hy
          · exact hak
          · exact lt_trans hak (hk.1 y hy)
        cases o with
        | none =>
          simp only [cellPut, if_neg hka, if_neg hka']
          by_cases hx : x = a
          · subst hx; simp only [if_true]; exact cellAt_eq_none _ x hall
          · simp [hx]
        | some v =>
          simp only [cellPut, if_neg hka, if_neg hka']
          by_cases hx : x = a
          · subst hx; simp [cellAt]
          · rw [if_neg hx]; conv_lhs => unfold cellAt
            rw [if_neg (Ne.symm hx)]

/-! ### Writing -/

theorem Memory.wf_iff (m : Memory) :
    m.wf = true ↔ rising (keys m.cells) = true ∧ m.cells.all (fun c => m.lists c.1 c.2) = true ∧ rising m.faulted = true := by
  simp [Memory.wf, keys, and_assoc]

@[simp] theorem Memory.unlisted_writeByte (m : Memory) (a : Nat) (v : Byte) (x : Nat) :
    (m.writeByte a v).unlisted x = m.unlisted x := rfl

@[simp] theorem Memory.lists_writeByte (m : Memory) (a : Nat) (v : Byte) (x : Nat) (w : Byte) :
    (m.writeByte a v).lists x w = m.lists x w := rfl

/-- A write of one byte keeps the canonical form. -/
theorem Memory.writeByte_wf (m : Memory) (a : Nat) (v : Byte) (h : m.wf = true) : (m.writeByte a v).wf = true := by
  rw [Memory.wf_iff] at *
  refine ⟨cellPut_rising _ _ _ h.1, ?_, filter_rising _ _ h.2.2⟩
  refine all_cellPut _ _ _ _ h.2.1 ?_
  intro w hw
  split at hw
  · rename_i hl; cases hw; exact hl
  · cases hw

/-- A write keeps the canonical form. -/
theorem Memory.write_wf (m : Memory) (a : Nat) (bs : List Byte) (h : m.wf = true) : (m.write a bs).wf = true := by
  induction bs generalizing m a with
  | nil => exact h
  | cons v vs ih => exact ih _ _ (m.writeByte_wf a v h)

/-- A list of writes keeps the canonical form. -/
theorem Memory.writes_wf (m : Memory) (ws : List MemWrite) (h : m.wf = true) : (m.writes ws).wf = true := by
  unfold Memory.writes
  induction ws generalizing m with
  | nil => exact h
  | cons w ws ih => exact ih _ (m.write_wf w.addr w.bytes h)

/-- The words of a system-side write keep the canonical form. -/
theorem writeWords_wf (t : Transfer) (m : Memory) (words : List Nat) (h : m.wf = true) :
    (writeWords t m words).wf = true := by
  unfold writeWords
  induction words generalizing m with
  | nil => exact h
  | cons a as ih => exact ih _ (m.write_wf a _ h)

/-- Faults learned from memory keep the canonical form. -/
theorem Memory.learnFaults_wf (m : Memory) (a n : Nat) (bad : List Nat) (h : m.wf = true) :
    (m.learnFaults a n bad).wf = true := by
  rw [Memory.wf_iff] at *
  exact ⟨h.1, h.2.1, foldl_insertUp_rising _ _ h.2.2⟩

/-- The control-area check leaves the canonical form. -/
theorem Memory.checked_wf (m : Memory) (result : CheckResult) (h : m.wf = true) : (m.checked result).wf = true := by
  rw [Memory.wf_iff] at *
  refine ⟨?_, ?_, ?_⟩
  · have h1 := (rising_iff_pairwise _).1 h.1
    rw [rising_iff_pairwise]
    exact h1.sublist (List.Sublist.map _ List.filter_sublist)
  · have h2 := h.2.1
    simp only [Memory.checked, List.all_eq_true, List.mem_filter, decide_eq_true_eq, and_imp] at h2 ⊢
    intro c hc hge
    have := h2 c hc
    simp only [Memory.lists, Memory.patterned, Bool.or_eq_true, Bool.and_eq_true, decide_eq_true_eq] at this ⊢
    rcases this with hp | hp
    · omega
    · exact Or.inr hp
  · have h3 := filter_rising (fun a => decide (frameBytes ≤ a)) m.faulted h.2.2
    cases result
    · exact h3
    · exact h3
    · exact insertUp_rising _ _ h3

theorem Memory.blank_wf : Memory.blank.wf = true := rfl

/-! ### Reading back -/

/-- What one byte reads after one byte is written. -/
theorem Memory.read_writeByte (m : Memory) (a : Nat) (v : Byte) (x : Nat) (h : m.wf = true) :
    (m.writeByte a v).read x = if x = a then v else m.read x := by
  have hr := (m.wf_iff.1 h).1
  unfold Memory.read
  rw [Memory.unlisted_writeByte]
  simp only [Memory.writeByte]
  rw [cellAt_cellPut _ _ _ _ hr]
  by_cases hx : x = a
  · subst hx
    simp only [if_true]
    split
    · rfl
    · rename_i hl
      simp only [Memory.lists, Bool.or_eq_true, not_or] at hl
      have hv : v = dramByte := by simpa using hl.2
      have hp := hl.1
      simp only [Option.getD_none, Memory.unlisted, hv]
      split
      · rename_i hlt
        have : m.pattern = none := by
          simp only [Memory.patterned, hlt, decide_true, Bool.and_true] at hp
          cases hm : m.pattern <;> simp_all
        rw [this]
      · rfl
  · simp [hx]

/-- What one byte reads after a write: the byte written in the range, and as before outside it. -/
theorem Memory.read_write (m : Memory) (a : Nat) (bs : List Byte) (x : Nat) (h : m.wf = true) :
    (m.write a bs).read x = if a ≤ x ∧ x < a + bs.length then bs.getD (x - a) 0 else m.read x := by
  induction bs generalizing m a with
  | nil => simp [Memory.write]
  | cons v vs ih =>
    show ((m.writeByte a v).write (a + 1) vs).read x = _
    rw [ih _ _ (m.writeByte_wf a v h), m.read_writeByte a v x h]
    by_cases hx : x = a
    · subst hx; simp
    · by_cases hin : a + 1 ≤ x ∧ x < a + 1 + vs.length
      · rw [if_pos hin, if_pos (by simp; omega)]
        obtain ⟨k, rfl⟩ : ∃ k, x = a + 1 + k := ⟨x - (a + 1), by omega⟩
        rw [show a + 1 + k - (a + 1) = k by omega, show a + 1 + k - a = k + 1 by omega]
        simp
      · rw [if_neg hin, if_neg hx, if_neg (by simp; omega)]

/-- Faults learned change no byte. -/
@[simp] theorem Memory.read_learnFaults (m : Memory) (a n : Nat) (bad : List Nat) (x : Nat) :
    (m.learnFaults a n bad).read x = m.read x := rfl

end Sys2Proof.Machine
end

