-- ==== Sys2Proof/Laws/State.lean ====
section
/-! SUPPORT. Laws/State.lean: what each update of the state, and of the working copy of a command, leaves in
each field: one lemma a field, so that no proof unfolds a record update. -/

namespace Sys2Proof.Machine

/-! ### The working copy and the state -/

@[simp] theorem Run.of_path (s : State) : (Run.of s).path = s.path := rfl
@[simp] theorem Run.of_frame (s : State) : (Run.of s).frame = s.frame := rfl
@[simp] theorem Run.of_slot (s : State) : (Run.of s).slot = s.slot := rfl
@[simp] theorem Run.of_picker (s : State) : (Run.of s).picker = s.picker := rfl
@[simp] theorem Run.of_drives (s : State) : (Run.of s).drives = s.drives := rfl
@[simp] theorem Run.of_mover (s : State) : (Run.of s).mover = s.mover := rfl
@[simp] theorem Run.of_restores (s : State) : (Run.of s).restores = s.restores := rfl
@[simp] theorem Run.of_sched (s : State) : (Run.of s).sched = s.sched := rfl
@[simp] theorem Run.of_retr (s : State) : (Run.of s).retr = s.retr := rfl
@[simp] theorem Run.of_filing (s : State) : (Run.of s).filing = s.filing := rfl
@[simp] theorem Run.of_media (s : State) : (Run.of s).media = s.media := rfl
@[simp] theorem Run.of_fee (s : State) : (Run.of s).fee = s.fee := rfl
@[simp] theorem Run.of_stmts (s : State) : (Run.of s).stmts = s.stmts := rfl
@[simp] theorem Run.of_store (s : State) : (Run.of s).store = s.store := rfl
@[simp] theorem Run.of_startup (s : State) : (Run.of s).startup = s.startup := rfl
@[simp] theorem Run.of_settings (s : State) : (Run.of s).settings = s.settings := rfl
@[simp] theorem Run.of_now (s : State) : (Run.of s).now = s.now := rfl
@[simp] theorem Run.of_todo (s : State) : (Run.of s).todo = [] := rfl
@[simp] theorem Run.of_pass (s : State) : (Run.of s).pass = false := rfl
@[simp] theorem Run.of_heldFirst (s : State) : (Run.of s).heldFirst = false := rfl
@[simp] theorem State.withRun_path (s : State) (r : Run) : (s.withRun r).path = r.path := rfl
@[simp] theorem State.withRun_frame (s : State) (r : Run) : (s.withRun r).frame = r.frame := rfl
@[simp] theorem State.withRun_slot (s : State) (r : Run) : (s.withRun r).slot = r.slot := rfl
@[simp] theorem State.withRun_picker (s : State) (r : Run) : (s.withRun r).picker = r.picker := rfl
@[simp] theorem State.withRun_drives (s : State) (r : Run) : (s.withRun r).drives = r.drives := rfl
@[simp] theorem State.withRun_mover (s : State) (r : Run) : (s.withRun r).mover = r.mover := rfl
@[simp] theorem State.withRun_restores (s : State) (r : Run) : (s.withRun r).restores = r.restores := rfl
@[simp] theorem State.withRun_sched (s : State) (r : Run) : (s.withRun r).sched = r.sched := rfl
@[simp] theorem State.withRun_retr (s : State) (r : Run) : (s.withRun r).retr = r.retr := rfl
@[simp] theorem State.withRun_filing (s : State) (r : Run) : (s.withRun r).filing = r.filing := rfl
@[simp] theorem State.withRun_media (s : State) (r : Run) : (s.withRun r).media = r.media := rfl
@[simp] theorem State.withRun_fee (s : State) (r : Run) : (s.withRun r).fee = r.fee := rfl
@[simp] theorem State.withRun_stmts (s : State) (r : Run) : (s.withRun r).stmts = r.stmts := rfl
@[simp] theorem State.withRun_store (s : State) (r : Run) : (s.withRun r).store = r.store := rfl
@[simp] theorem State.withRun_startup (s : State) (r : Run) : (s.withRun r).startup = r.startup := rfl
@[simp] theorem State.withRun_mem (s : State) (r : Run) : (s.withRun r).mem = s.mem := rfl
@[simp] theorem State.withRun_settings (s : State) (r : Run) : (s.withRun r).settings = s.settings := rfl
@[simp] theorem State.withRun_config (s : State) (r : Run) : (s.withRun r).config = s.config := rfl
@[simp] theorem State.withRun_now (s : State) (r : Run) : (s.withRun r).now = s.now := rfl
@[simp] theorem State.withRun_pending (s : State) (r : Run) : (s.withRun r).pending = s.pending := rfl
@[simp] theorem State.act_mem (s : State) (f : Run → Run) : (s.act f).mem = s.mem := rfl
@[simp] theorem State.act_settings (s : State) (f : Run → Run) : (s.act f).settings = s.settings := rfl
@[simp] theorem State.act_config (s : State) (f : Run → Run) : (s.act f).config = s.config := rfl
@[simp] theorem State.act_now (s : State) (f : Run → Run) : (s.act f).now = s.now := rfl
@[simp] theorem State.act_pending (s : State) (f : Run → Run) : (s.act f).pending = s.pending := rfl

/-! `State.freePort` -/

@[simp] theorem State.freePort_path (s : State) : (s.freePort).path = { s.path with port := .free } := rfl
@[simp] theorem State.freePort_frame (s : State) : (s.freePort).frame = s.frame := rfl
@[simp] theorem State.freePort_slot (s : State) : (s.freePort).slot = s.slot := rfl
@[simp] theorem State.freePort_picker (s : State) : (s.freePort).picker = s.picker := rfl
@[simp] theorem State.freePort_drives (s : State) : (s.freePort).drives = s.drives := rfl
@[simp] theorem State.freePort_mover (s : State) : (s.freePort).mover = s.mover := rfl
@[simp] theorem State.freePort_restores (s : State) : (s.freePort).restores = s.restores := rfl
@[simp] theorem State.freePort_sched (s : State) : (s.freePort).sched = s.sched := rfl
@[simp] theorem State.freePort_retr (s : State) : (s.freePort).retr = s.retr := rfl
@[simp] theorem State.freePort_filing (s : State) : (s.freePort).filing = s.filing := rfl
@[simp] theorem State.freePort_media (s : State) : (s.freePort).media = s.media := rfl
@[simp] theorem State.freePort_fee (s : State) : (s.freePort).fee = s.fee := rfl
@[simp] theorem State.freePort_stmts (s : State) : (s.freePort).stmts = s.stmts := rfl
@[simp] theorem State.freePort_store (s : State) : (s.freePort).store = s.store := rfl
@[simp] theorem State.freePort_startup (s : State) : (s.freePort).startup = s.startup := rfl
@[simp] theorem State.freePort_mem (s : State) : (s.freePort).mem = s.mem := rfl
@[simp] theorem State.freePort_settings (s : State) : (s.freePort).settings = s.settings := rfl
@[simp] theorem State.freePort_config (s : State) : (s.freePort).config = s.config := rfl
@[simp] theorem State.freePort_now (s : State) : (s.freePort).now = s.now := rfl
@[simp] theorem State.freePort_pending (s : State) : (s.freePort).pending = s.pending := rfl

/-! `State.writeMem` -/

@[simp] theorem State.writeMem_path (s : State) (w : MemWrite) : (s.writeMem w).path = s.path := rfl
@[simp] theorem State.writeMem_frame (s : State) (w : MemWrite) : (s.writeMem w).frame = s.frame := rfl
@[simp] theorem State.writeMem_slot (s : State) (w : MemWrite) : (s.writeMem w).slot = s.slot := rfl
@[simp] theorem State.writeMem_picker (s : State) (w : MemWrite) : (s.writeMem w).picker = s.picker := rfl
@[simp] theorem State.writeMem_drives (s : State) (w : MemWrite) : (s.writeMem w).drives = s.drives := rfl
@[simp] theorem State.writeMem_mover (s : State) (w : MemWrite) : (s.writeMem w).mover = s.mover := rfl
@[simp] theorem State.writeMem_restores (s : State) (w : MemWrite) : (s.writeMem w).restores = s.restores := rfl
@[simp] theorem State.writeMem_sched (s : State) (w : MemWrite) : (s.writeMem w).sched = s.sched := rfl
@[simp] theorem State.writeMem_retr (s : State) (w : MemWrite) : (s.writeMem w).retr = s.retr := rfl
@[simp] theorem State.writeMem_filing (s : State) (w : MemWrite) : (s.writeMem w).filing = s.filing := rfl
@[simp] theorem State.writeMem_media (s : State) (w : MemWrite) : (s.writeMem w).media = s.media := rfl
@[simp] theorem State.writeMem_fee (s : State) (w : MemWrite) : (s.writeMem w).fee = s.fee := rfl
@[simp] theorem State.writeMem_stmts (s : State) (w : MemWrite) : (s.writeMem w).stmts = s.stmts := rfl
@[simp] theorem State.writeMem_store (s : State) (w : MemWrite) : (s.writeMem w).store = s.store := rfl
@[simp] theorem State.writeMem_startup (s : State) (w : MemWrite) : (s.writeMem w).startup = s.startup := rfl
@[simp] theorem State.writeMem_mem (s : State) (w : MemWrite) : (s.writeMem w).mem = s.mem.write w.addr w.bytes := rfl
@[simp] theorem State.writeMem_settings (s : State) (w : MemWrite) : (s.writeMem w).settings = s.settings := rfl
@[simp] theorem State.writeMem_config (s : State) (w : MemWrite) : (s.writeMem w).config = s.config := rfl
@[simp] theorem State.writeMem_now (s : State) (w : MemWrite) : (s.writeMem w).now = s.now := rfl
@[simp] theorem State.writeMem_pending (s : State) (w : MemWrite) : (s.writeMem w).pending = s.pending := rfl

/-! `State.learn` -/

@[simp] theorem State.learn_path (s : State) (a n : Nat) (bad : List Nat) : (s.learn a n bad).path = s.path := rfl
@[simp] theorem State.learn_frame (s : State) (a n : Nat) (bad : List Nat) : (s.learn a n bad).frame = s.frame := rfl
@[simp] theorem State.learn_slot (s : State) (a n : Nat) (bad : List Nat) : (s.learn a n bad).slot = s.slot := rfl
@[simp] theorem State.learn_picker (s : State) (a n : Nat) (bad : List Nat) :
    (s.learn a n bad).picker = s.picker := rfl
@[simp] theorem State.learn_drives (s : State) (a n : Nat) (bad : List Nat) :
    (s.learn a n bad).drives = s.drives := rfl
@[simp] theorem State.learn_mover (s : State) (a n : Nat) (bad : List Nat) : (s.learn a n bad).mover = s.mover := rfl
@[simp] theorem State.learn_restores (s : State) (a n : Nat) (bad : List Nat) :
    (s.learn a n bad).restores = s.restores := rfl
@[simp] theorem State.learn_sched (s : State) (a n : Nat) (bad : List Nat) : (s.learn a n bad).sched = s.sched := rfl
@[simp] theorem State.learn_retr (s : State) (a n : Nat) (bad : List Nat) : (s.learn a n bad).retr = s.retr := rfl
@[simp] theorem State.learn_filing (s : State) (a n : Nat) (bad : List Nat) :
    (s.learn a n bad).filing = s.filing := rfl
@[simp] theorem State.learn_media (s : State) (a n : Nat) (bad : List Nat) : (s.learn a n bad).media = s.media := rfl
@[simp] theorem State.learn_fee (s : State) (a n : Nat) (bad : List Nat) : (s.learn a n bad).fee = s.fee := rfl
@[simp] theorem State.learn_stmts (s : State) (a n : Nat) (bad : List Nat) : (s.learn a n bad).stmts = s.stmts := rfl
@[simp] theorem State.learn_store (s : State) (a n : Nat) (bad : List Nat) : (s.learn a n bad).store = s.store := rfl
@[simp] theorem State.learn_startup (s : State) (a n : Nat) (bad : List Nat) :
    (s.learn a n bad).startup = s.startup := rfl
@[simp] theorem State.learn_mem (s : State) (a n : Nat) (bad : List Nat) :
    (s.learn a n bad).mem = s.mem.learnFaults a n bad := rfl
@[simp] theorem State.learn_settings (s : State) (a n : Nat) (bad : List Nat) :
    (s.learn a n bad).settings = s.settings := rfl
@[simp] theorem State.learn_config (s : State) (a n : Nat) (bad : List Nat) :
    (s.learn a n bad).config = s.config := rfl
@[simp] theorem State.learn_now (s : State) (a n : Nat) (bad : List Nat) : (s.learn a n bad).now = s.now := rfl
@[simp] theorem State.learn_pending (s : State) (a n : Nat) (bad : List Nat) :
    (s.learn a n bad).pending = s.pending := rfl

/-! `State.reach` -/

@[simp] theorem State.reach_path (s : State) (t : Nat) : (s.reach t).path = s.path := rfl
@[simp] theorem State.reach_frame (s : State) (t : Nat) : (s.reach t).frame = s.frame := rfl
@[simp] theorem State.reach_slot (s : State) (t : Nat) : (s.reach t).slot = s.slot := rfl
@[simp] theorem State.reach_picker (s : State) (t : Nat) : (s.reach t).picker = s.picker := rfl
@[simp] theorem State.reach_drives (s : State) (t : Nat) : (s.reach t).drives = s.drives := rfl
@[simp] theorem State.reach_mover (s : State) (t : Nat) : (s.reach t).mover = s.mover := rfl
@[simp] theorem State.reach_restores (s : State) (t : Nat) : (s.reach t).restores = s.restores := rfl
@[simp] theorem State.reach_sched (s : State) (t : Nat) : (s.reach t).sched = s.sched := rfl
@[simp] theorem State.reach_retr (s : State) (t : Nat) : (s.reach t).retr = s.retr := rfl
@[simp] theorem State.reach_filing (s : State) (t : Nat) : (s.reach t).filing = s.filing := rfl
@[simp] theorem State.reach_media (s : State) (t : Nat) : (s.reach t).media = s.media := rfl
@[simp] theorem State.reach_fee (s : State) (t : Nat) : (s.reach t).fee = s.fee := rfl
@[simp] theorem State.reach_stmts (s : State) (t : Nat) : (s.reach t).stmts = s.stmts := rfl
@[simp] theorem State.reach_store (s : State) (t : Nat) : (s.reach t).store = s.store := rfl
@[simp] theorem State.reach_startup (s : State) (t : Nat) : (s.reach t).startup = s.startup := rfl
@[simp] theorem State.reach_mem (s : State) (t : Nat) : (s.reach t).mem = s.mem := rfl
@[simp] theorem State.reach_settings (s : State) (t : Nat) : (s.reach t).settings = s.settings := rfl
@[simp] theorem State.reach_config (s : State) (t : Nat) : (s.reach t).config = s.config := rfl
@[simp] theorem State.reach_now (s : State) (t : Nat) : (s.reach t).now = max s.now t := rfl
@[simp] theorem State.reach_pending (s : State) (t : Nat) : (s.reach t).pending = s.pending := rfl

/-! `Run.push` -/

@[simp] theorem Run.push_path (r : Run) (t : Todo) : (r.push t).path = r.path := rfl
@[simp] theorem Run.push_frame (r : Run) (t : Todo) : (r.push t).frame = r.frame := rfl
@[simp] theorem Run.push_slot (r : Run) (t : Todo) : (r.push t).slot = r.slot := rfl
@[simp] theorem Run.push_picker (r : Run) (t : Todo) : (r.push t).picker = r.picker := rfl
@[simp] theorem Run.push_drives (r : Run) (t : Todo) : (r.push t).drives = r.drives := rfl
@[simp] theorem Run.push_mover (r : Run) (t : Todo) : (r.push t).mover = r.mover := rfl
@[simp] theorem Run.push_restores (r : Run) (t : Todo) : (r.push t).restores = r.restores := rfl
@[simp] theorem Run.push_sched (r : Run) (t : Todo) : (r.push t).sched = r.sched := rfl
@[simp] theorem Run.push_retr (r : Run) (t : Todo) : (r.push t).retr = r.retr := rfl
@[simp] theorem Run.push_filing (r : Run) (t : Todo) : (r.push t).filing = r.filing := rfl
@[simp] theorem Run.push_media (r : Run) (t : Todo) : (r.push t).media = r.media := rfl
@[simp] theorem Run.push_fee (r : Run) (t : Todo) : (r.push t).fee = r.fee := rfl
@[simp] theorem Run.push_stmts (r : Run) (t : Todo) : (r.push t).stmts = r.stmts := rfl
@[simp] theorem Run.push_store (r : Run) (t : Todo) : (r.push t).store = r.store := rfl
@[simp] theorem Run.push_startup (r : Run) (t : Todo) : (r.push t).startup = r.startup := rfl
@[simp] theorem Run.push_settings (r : Run) (t : Todo) : (r.push t).settings = r.settings := rfl
@[simp] theorem Run.push_now (r : Run) (t : Todo) : (r.push t).now = r.now := rfl
@[simp] theorem Run.push_todo (r : Run) (t : Todo) : (r.push t).todo = r.todo ++ [t] := rfl
@[simp] theorem Run.push_pass (r : Run) (t : Todo) : (r.push t).pass = r.pass := rfl
@[simp] theorem Run.push_heldFirst (r : Run) (t : Todo) : (r.push t).heldFirst = r.heldFirst := rfl

/-! `Run.serveFirst` -/

@[simp] theorem Run.serveFirst_path (r : Run) : r.serveFirst.path = r.path := rfl
@[simp] theorem Run.serveFirst_frame (r : Run) : r.serveFirst.frame = r.frame := rfl
@[simp] theorem Run.serveFirst_slot (r : Run) : r.serveFirst.slot = r.slot := rfl
@[simp] theorem Run.serveFirst_picker (r : Run) : r.serveFirst.picker = r.picker := rfl
@[simp] theorem Run.serveFirst_drives (r : Run) : r.serveFirst.drives = r.drives := rfl
@[simp] theorem Run.serveFirst_mover (r : Run) : r.serveFirst.mover = r.mover := rfl
@[simp] theorem Run.serveFirst_restores (r : Run) : r.serveFirst.restores = r.restores := rfl
@[simp] theorem Run.serveFirst_sched (r : Run) : r.serveFirst.sched = r.sched := rfl
@[simp] theorem Run.serveFirst_retr (r : Run) : r.serveFirst.retr = r.retr := rfl
@[simp] theorem Run.serveFirst_filing (r : Run) : r.serveFirst.filing = r.filing := rfl
@[simp] theorem Run.serveFirst_media (r : Run) : r.serveFirst.media = r.media := rfl
@[simp] theorem Run.serveFirst_fee (r : Run) : r.serveFirst.fee = r.fee := rfl
@[simp] theorem Run.serveFirst_stmts (r : Run) : r.serveFirst.stmts = r.stmts := rfl
@[simp] theorem Run.serveFirst_store (r : Run) : r.serveFirst.store = r.store := rfl
@[simp] theorem Run.serveFirst_startup (r : Run) : r.serveFirst.startup = r.startup := rfl
@[simp] theorem Run.serveFirst_settings (r : Run) : r.serveFirst.settings = r.settings := rfl
@[simp] theorem Run.serveFirst_now (r : Run) : r.serveFirst.now = r.now := rfl
@[simp] theorem Run.serveFirst_pass (r : Run) : r.serveFirst.pass = r.pass := rfl
@[simp] theorem Run.serveFirst_heldFirst (r : Run) : r.serveFirst.heldFirst = r.heldFirst := rfl

/-! `Run.wantPass` -/

@[simp] theorem Run.wantPass_path (r : Run) : (r.wantPass).path = r.path := rfl
@[simp] theorem Run.wantPass_frame (r : Run) : (r.wantPass).frame = r.frame := rfl
@[simp] theorem Run.wantPass_slot (r : Run) : (r.wantPass).slot = r.slot := rfl
@[simp] theorem Run.wantPass_picker (r : Run) : (r.wantPass).picker = r.picker := rfl
@[simp] theorem Run.wantPass_drives (r : Run) : (r.wantPass).drives = r.drives := rfl
@[simp] theorem Run.wantPass_mover (r : Run) : (r.wantPass).mover = r.mover := rfl
@[simp] theorem Run.wantPass_restores (r : Run) : (r.wantPass).restores = r.restores := rfl
@[simp] theorem Run.wantPass_sched (r : Run) : (r.wantPass).sched = r.sched := rfl
@[simp] theorem Run.wantPass_retr (r : Run) : (r.wantPass).retr = r.retr := rfl
@[simp] theorem Run.wantPass_filing (r : Run) : (r.wantPass).filing = r.filing := rfl
@[simp] theorem Run.wantPass_media (r : Run) : (r.wantPass).media = r.media := rfl
@[simp] theorem Run.wantPass_fee (r : Run) : (r.wantPass).fee = r.fee := rfl
@[simp] theorem Run.wantPass_stmts (r : Run) : (r.wantPass).stmts = r.stmts := rfl
@[simp] theorem Run.wantPass_store (r : Run) : (r.wantPass).store = r.store := rfl
@[simp] theorem Run.wantPass_startup (r : Run) : (r.wantPass).startup = r.startup := rfl
@[simp] theorem Run.wantPass_settings (r : Run) : (r.wantPass).settings = r.settings := rfl
@[simp] theorem Run.wantPass_now (r : Run) : (r.wantPass).now = r.now := rfl
@[simp] theorem Run.wantPass_todo (r : Run) : (r.wantPass).todo = r.todo := rfl
@[simp] theorem Run.wantPass_pass (r : Run) : (r.wantPass).pass = true := rfl
@[simp] theorem Run.wantPass_heldFirst (r : Run) : (r.wantPass).heldFirst = r.heldFirst := rfl

/-! `Run.modSlot` -/

@[simp] theorem Run.modSlot_path (r : Run) (n : Nat) (f : SlotRec → SlotRec) : (r.modSlot n f).path = r.path := rfl
@[simp] theorem Run.modSlot_frame (r : Run) (n : Nat) (f : SlotRec → SlotRec) : (r.modSlot n f).frame = r.frame := rfl
@[simp] theorem Run.modSlot_slot (r : Run) (n : Nat) (f : SlotRec → SlotRec) :
    (r.modSlot n f).slot = { r.slot with slots := r.slot.slots.modify n f } := rfl
@[simp] theorem Run.modSlot_picker (r : Run) (n : Nat) (f : SlotRec → SlotRec) :
    (r.modSlot n f).picker = r.picker := rfl
@[simp] theorem Run.modSlot_drives (r : Run) (n : Nat) (f : SlotRec → SlotRec) :
    (r.modSlot n f).drives = r.drives := rfl
@[simp] theorem Run.modSlot_mover (r : Run) (n : Nat) (f : SlotRec → SlotRec) : (r.modSlot n f).mover = r.mover := rfl
@[simp] theorem Run.modSlot_restores (r : Run) (n : Nat) (f : SlotRec → SlotRec) :
    (r.modSlot n f).restores = r.restores := rfl
@[simp] theorem Run.modSlot_sched (r : Run) (n : Nat) (f : SlotRec → SlotRec) : (r.modSlot n f).sched = r.sched := rfl
@[simp] theorem Run.modSlot_retr (r : Run) (n : Nat) (f : SlotRec → SlotRec) : (r.modSlot n f).retr = r.retr := rfl
@[simp] theorem Run.modSlot_filing (r : Run) (n : Nat) (f : SlotRec → SlotRec) :
    (r.modSlot n f).filing = r.filing := rfl
@[simp] theorem Run.modSlot_media (r : Run) (n : Nat) (f : SlotRec → SlotRec) : (r.modSlot n f).media = r.media := rfl
@[simp] theorem Run.modSlot_fee (r : Run) (n : Nat) (f : SlotRec → SlotRec) : (r.modSlot n f).fee = r.fee := rfl
@[simp] theorem Run.modSlot_stmts (r : Run) (n : Nat) (f : SlotRec → SlotRec) : (r.modSlot n f).stmts = r.stmts := rfl
@[simp] theorem Run.modSlot_store (r : Run) (n : Nat) (f : SlotRec → SlotRec) : (r.modSlot n f).store = r.store := rfl
@[simp] theorem Run.modSlot_startup (r : Run) (n : Nat) (f : SlotRec → SlotRec) :
    (r.modSlot n f).startup = r.startup := rfl
@[simp] theorem Run.modSlot_settings (r : Run) (n : Nat) (f : SlotRec → SlotRec) :
    (r.modSlot n f).settings = r.settings := rfl
@[simp] theorem Run.modSlot_now (r : Run) (n : Nat) (f : SlotRec → SlotRec) : (r.modSlot n f).now = r.now := rfl
@[simp] theorem Run.modSlot_todo (r : Run) (n : Nat) (f : SlotRec → SlotRec) : (r.modSlot n f).todo = r.todo := rfl
@[simp] theorem Run.modSlot_pass (r : Run) (n : Nat) (f : SlotRec → SlotRec) : (r.modSlot n f).pass = r.pass := rfl
@[simp] theorem Run.modSlot_heldFirst (r : Run) (n : Nat) (f : SlotRec → SlotRec) :
    (r.modSlot n f).heldFirst = r.heldFirst := rfl

/-! `Run.modDrive` -/

@[simp] theorem Run.modDrive_path (r : Run) (d : Nat) (f : Drive → Drive) : (r.modDrive d f).path = r.path := rfl
@[simp] theorem Run.modDrive_frame (r : Run) (d : Nat) (f : Drive → Drive) : (r.modDrive d f).frame = r.frame := rfl
@[simp] theorem Run.modDrive_slot (r : Run) (d : Nat) (f : Drive → Drive) : (r.modDrive d f).slot = r.slot := rfl
@[simp] theorem Run.modDrive_picker (r : Run) (d : Nat) (f : Drive → Drive) :
    (r.modDrive d f).picker = r.picker := rfl
@[simp] theorem Run.modDrive_drives (r : Run) (d : Nat) (f : Drive → Drive) :
    (r.modDrive d f).drives = r.drives.modify d f := rfl
@[simp] theorem Run.modDrive_mover (r : Run) (d : Nat) (f : Drive → Drive) : (r.modDrive d f).mover = r.mover := rfl
@[simp] theorem Run.modDrive_restores (r : Run) (d : Nat) (f : Drive → Drive) :
    (r.modDrive d f).restores = r.restores := rfl
@[simp] theorem Run.modDrive_sched (r : Run) (d : Nat) (f : Drive → Drive) : (r.modDrive d f).sched = r.sched := rfl
@[simp] theorem Run.modDrive_retr (r : Run) (d : Nat) (f : Drive → Drive) : (r.modDrive d f).retr = r.retr := rfl
@[simp] theorem Run.modDrive_filing (r : Run) (d : Nat) (f : Drive → Drive) :
    (r.modDrive d f).filing = r.filing := rfl
@[simp] theorem Run.modDrive_media (r : Run) (d : Nat) (f : Drive → Drive) : (r.modDrive d f).media = r.media := rfl
@[simp] theorem Run.modDrive_fee (r : Run) (d : Nat) (f : Drive → Drive) : (r.modDrive d f).fee = r.fee := rfl
@[simp] theorem Run.modDrive_stmts (r : Run) (d : Nat) (f : Drive → Drive) : (r.modDrive d f).stmts = r.stmts := rfl
@[simp] theorem Run.modDrive_store (r : Run) (d : Nat) (f : Drive → Drive) : (r.modDrive d f).store = r.store := rfl
@[simp] theorem Run.modDrive_startup (r : Run) (d : Nat) (f : Drive → Drive) :
    (r.modDrive d f).startup = r.startup := rfl
@[simp] theorem Run.modDrive_settings (r : Run) (d : Nat) (f : Drive → Drive) :
    (r.modDrive d f).settings = r.settings := rfl
@[simp] theorem Run.modDrive_now (r : Run) (d : Nat) (f : Drive → Drive) : (r.modDrive d f).now = r.now := rfl
@[simp] theorem Run.modDrive_todo (r : Run) (d : Nat) (f : Drive → Drive) : (r.modDrive d f).todo = r.todo := rfl
@[simp] theorem Run.modDrive_pass (r : Run) (d : Nat) (f : Drive → Drive) : (r.modDrive d f).pass = r.pass := rfl
@[simp] theorem Run.modDrive_heldFirst (r : Run) (d : Nat) (f : Drive → Drive) :
    (r.modDrive d f).heldFirst = r.heldFirst := rfl

/-! `Run.modAssign` -/

@[simp] theorem Run.modAssign_path (r : Run) (d : Nat) (f : Assign → Assign) : (r.modAssign d f).path = r.path := rfl
@[simp] theorem Run.modAssign_frame (r : Run) (d : Nat) (f : Assign → Assign) :
    (r.modAssign d f).frame = r.frame := rfl
@[simp] theorem Run.modAssign_slot (r : Run) (d : Nat) (f : Assign → Assign) : (r.modAssign d f).slot = r.slot := rfl
@[simp] theorem Run.modAssign_picker (r : Run) (d : Nat) (f : Assign → Assign) :
    (r.modAssign d f).picker = r.picker := rfl
@[simp] theorem Run.modAssign_drives (r : Run) (d : Nat) (f : Assign → Assign) :
    (r.modAssign d f).drives = r.drives := rfl
@[simp] theorem Run.modAssign_mover (r : Run) (d : Nat) (f : Assign → Assign) :
    (r.modAssign d f).mover = r.mover := rfl
@[simp] theorem Run.modAssign_restores (r : Run) (d : Nat) (f : Assign → Assign) :
    (r.modAssign d f).restores = r.restores := rfl
@[simp] theorem Run.modAssign_sched (r : Run) (d : Nat) (f : Assign → Assign) :
    (r.modAssign d f).sched = { r.sched with assigns := r.sched.assigns.modify d f } := rfl
@[simp] theorem Run.modAssign_retr (r : Run) (d : Nat) (f : Assign → Assign) : (r.modAssign d f).retr = r.retr := rfl
@[simp] theorem Run.modAssign_filing (r : Run) (d : Nat) (f : Assign → Assign) :
    (r.modAssign d f).filing = r.filing := rfl
@[simp] theorem Run.modAssign_media (r : Run) (d : Nat) (f : Assign → Assign) :
    (r.modAssign d f).media = r.media := rfl
@[simp] theorem Run.modAssign_fee (r : Run) (d : Nat) (f : Assign → Assign) : (r.modAssign d f).fee = r.fee := rfl
@[simp] theorem Run.modAssign_stmts (r : Run) (d : Nat) (f : Assign → Assign) :
    (r.modAssign d f).stmts = r.stmts := rfl
@[simp] theorem Run.modAssign_store (r : Run) (d : Nat) (f : Assign → Assign) :
    (r.modAssign d f).store = r.store := rfl
@[simp] theorem Run.modAssign_startup (r : Run) (d : Nat) (f : Assign → Assign) :
    (r.modAssign d f).startup = r.startup := rfl
@[simp] theorem Run.modAssign_settings (r : Run) (d : Nat) (f : Assign → Assign) :
    (r.modAssign d f).settings = r.settings := rfl
@[simp] theorem Run.modAssign_now (r : Run) (d : Nat) (f : Assign → Assign) : (r.modAssign d f).now = r.now := rfl
@[simp] theorem Run.modAssign_todo (r : Run) (d : Nat) (f : Assign → Assign) : (r.modAssign d f).todo = r.todo := rfl
@[simp] theorem Run.modAssign_pass (r : Run) (d : Nat) (f : Assign → Assign) : (r.modAssign d f).pass = r.pass := rfl
@[simp] theorem Run.modAssign_heldFirst (r : Run) (d : Nat) (f : Assign → Assign) :
    (r.modAssign d f).heldFirst = r.heldFirst := rfl

/-! `Run.modJob` -/

@[simp] theorem Run.modJob_path (r : Run) (i : Nat) (f : Job → Job) : (r.modJob i f).path = r.path := rfl
@[simp] theorem Run.modJob_frame (r : Run) (i : Nat) (f : Job → Job) : (r.modJob i f).frame = r.frame := rfl
@[simp] theorem Run.modJob_slot (r : Run) (i : Nat) (f : Job → Job) : (r.modJob i f).slot = r.slot := rfl
@[simp] theorem Run.modJob_picker (r : Run) (i : Nat) (f : Job → Job) : (r.modJob i f).picker = r.picker := rfl
@[simp] theorem Run.modJob_drives (r : Run) (i : Nat) (f : Job → Job) : (r.modJob i f).drives = r.drives := rfl
@[simp] theorem Run.modJob_mover (r : Run) (i : Nat) (f : Job → Job) : (r.modJob i f).mover = r.mover := rfl
@[simp] theorem Run.modJob_restores (r : Run) (i : Nat) (f : Job → Job) : (r.modJob i f).restores = r.restores := rfl
@[simp] theorem Run.modJob_sched (r : Run) (i : Nat) (f : Job → Job) :
    (r.modJob i f).sched = { r.sched with jobs := r.sched.jobs.map (fun j => if j.id = i then f j else j) } := rfl
@[simp] theorem Run.modJob_retr (r : Run) (i : Nat) (f : Job → Job) : (r.modJob i f).retr = r.retr := rfl
@[simp] theorem Run.modJob_filing (r : Run) (i : Nat) (f : Job → Job) : (r.modJob i f).filing = r.filing := rfl
@[simp] theorem Run.modJob_media (r : Run) (i : Nat) (f : Job → Job) : (r.modJob i f).media = r.media := rfl
@[simp] theorem Run.modJob_fee (r : Run) (i : Nat) (f : Job → Job) : (r.modJob i f).fee = r.fee := rfl
@[simp] theorem Run.modJob_stmts (r : Run) (i : Nat) (f : Job → Job) : (r.modJob i f).stmts = r.stmts := rfl
@[simp] theorem Run.modJob_store (r : Run) (i : Nat) (f : Job → Job) : (r.modJob i f).store = r.store := rfl
@[simp] theorem Run.modJob_startup (r : Run) (i : Nat) (f : Job → Job) : (r.modJob i f).startup = r.startup := rfl
@[simp] theorem Run.modJob_settings (r : Run) (i : Nat) (f : Job → Job) : (r.modJob i f).settings = r.settings := rfl
@[simp] theorem Run.modJob_now (r : Run) (i : Nat) (f : Job → Job) : (r.modJob i f).now = r.now := rfl
@[simp] theorem Run.modJob_todo (r : Run) (i : Nat) (f : Job → Job) : (r.modJob i f).todo = r.todo := rfl
@[simp] theorem Run.modJob_pass (r : Run) (i : Nat) (f : Job → Job) : (r.modJob i f).pass = r.pass := rfl
@[simp] theorem Run.modJob_heldFirst (r : Run) (i : Nat) (f : Job → Job) :
    (r.modJob i f).heldFirst = r.heldFirst := rfl

/-! `Run.modTask` -/

@[simp] theorem Run.modTask_path (r : Run) (n : Nat) (f : Task → Task) : (r.modTask n f).path = r.path := rfl
@[simp] theorem Run.modTask_frame (r : Run) (n : Nat) (f : Task → Task) : (r.modTask n f).frame = r.frame := rfl
@[simp] theorem Run.modTask_slot (r : Run) (n : Nat) (f : Task → Task) : (r.modTask n f).slot = r.slot := rfl
@[simp] theorem Run.modTask_picker (r : Run) (n : Nat) (f : Task → Task) : (r.modTask n f).picker = r.picker := rfl
@[simp] theorem Run.modTask_drives (r : Run) (n : Nat) (f : Task → Task) : (r.modTask n f).drives = r.drives := rfl
@[simp] theorem Run.modTask_mover (r : Run) (n : Nat) (f : Task → Task) : (r.modTask n f).mover = r.mover := rfl
@[simp] theorem Run.modTask_restores (r : Run) (n : Nat) (f : Task → Task) :
    (r.modTask n f).restores = r.restores := rfl
@[simp] theorem Run.modTask_sched (r : Run) (n : Nat) (f : Task → Task) : (r.modTask n f).sched = r.sched := rfl
@[simp] theorem Run.modTask_retr (r : Run) (n : Nat) (f : Task → Task) :
    (r.modTask n f).retr = { r.retr with tasks := r.retr.tasks.map (fun t => if t.frame = n then f t else t) } := rfl
@[simp] theorem Run.modTask_filing (r : Run) (n : Nat) (f : Task → Task) : (r.modTask n f).filing = r.filing := rfl
@[simp] theorem Run.modTask_media (r : Run) (n : Nat) (f : Task → Task) : (r.modTask n f).media = r.media := rfl
@[simp] theorem Run.modTask_fee (r : Run) (n : Nat) (f : Task → Task) : (r.modTask n f).fee = r.fee := rfl
@[simp] theorem Run.modTask_stmts (r : Run) (n : Nat) (f : Task → Task) : (r.modTask n f).stmts = r.stmts := rfl
@[simp] theorem Run.modTask_store (r : Run) (n : Nat) (f : Task → Task) : (r.modTask n f).store = r.store := rfl
@[simp] theorem Run.modTask_startup (r : Run) (n : Nat) (f : Task → Task) : (r.modTask n f).startup = r.startup := rfl
@[simp] theorem Run.modTask_settings (r : Run) (n : Nat) (f : Task → Task) :
    (r.modTask n f).settings = r.settings := rfl
@[simp] theorem Run.modTask_now (r : Run) (n : Nat) (f : Task → Task) : (r.modTask n f).now = r.now := rfl
@[simp] theorem Run.modTask_todo (r : Run) (n : Nat) (f : Task → Task) : (r.modTask n f).todo = r.todo := rfl
@[simp] theorem Run.modTask_pass (r : Run) (n : Nat) (f : Task → Task) : (r.modTask n f).pass = r.pass := rfl
@[simp] theorem Run.modTask_heldFirst (r : Run) (n : Nat) (f : Task → Task) :
    (r.modTask n f).heldFirst = r.heldFirst := rfl

/-! `Run.modFetch` -/

@[simp] theorem Run.modFetch_path (r : Run) (i : Nat) (f : FetchJob → FetchJob) :
    (r.modFetch i f).path = r.path := rfl
@[simp] theorem Run.modFetch_frame (r : Run) (i : Nat) (f : FetchJob → FetchJob) :
    (r.modFetch i f).frame = r.frame := rfl
@[simp] theorem Run.modFetch_slot (r : Run) (i : Nat) (f : FetchJob → FetchJob) :
    (r.modFetch i f).slot = r.slot := rfl
@[simp] theorem Run.modFetch_picker (r : Run) (i : Nat) (f : FetchJob → FetchJob) :
    (r.modFetch i f).picker = r.picker := rfl
@[simp] theorem Run.modFetch_drives (r : Run) (i : Nat) (f : FetchJob → FetchJob) :
    (r.modFetch i f).drives = r.drives := rfl
@[simp] theorem Run.modFetch_mover (r : Run) (i : Nat) (f : FetchJob → FetchJob) :
    (r.modFetch i f).mover = r.mover := rfl
@[simp] theorem Run.modFetch_restores (r : Run) (i : Nat) (f : FetchJob → FetchJob) :
    (r.modFetch i f).restores = r.restores := rfl
@[simp] theorem Run.modFetch_sched (r : Run) (i : Nat) (f : FetchJob → FetchJob) :
    (r.modFetch i f).sched = r.sched := rfl
@[simp] theorem Run.modFetch_retr (r : Run) (i : Nat) (f : FetchJob → FetchJob) :
    (r.modFetch i f).retr = { r.retr with fetches := r.retr.fetches.map (fun j => if j.job = i then f j else j) } := rfl
@[simp] theorem Run.modFetch_filing (r : Run) (i : Nat) (f : FetchJob → FetchJob) :
    (r.modFetch i f).filing = r.filing := rfl
@[simp] theorem Run.modFetch_media (r : Run) (i : Nat) (f : FetchJob → FetchJob) :
    (r.modFetch i f).media = r.media := rfl
@[simp] theorem Run.modFetch_fee (r : Run) (i : Nat) (f : FetchJob → FetchJob) : (r.modFetch i f).fee = r.fee := rfl
@[simp] theorem Run.modFetch_stmts (r : Run) (i : Nat) (f : FetchJob → FetchJob) :
    (r.modFetch i f).stmts = r.stmts := rfl
@[simp] theorem Run.modFetch_store (r : Run) (i : Nat) (f : FetchJob → FetchJob) :
    (r.modFetch i f).store = r.store := rfl
@[simp] theorem Run.modFetch_startup (r : Run) (i : Nat) (f : FetchJob → FetchJob) :
    (r.modFetch i f).startup = r.startup := rfl
@[simp] theorem Run.modFetch_settings (r : Run) (i : Nat) (f : FetchJob → FetchJob) :
    (r.modFetch i f).settings = r.settings := rfl
@[simp] theorem Run.modFetch_now (r : Run) (i : Nat) (f : FetchJob → FetchJob) : (r.modFetch i f).now = r.now := rfl
@[simp] theorem Run.modFetch_todo (r : Run) (i : Nat) (f : FetchJob → FetchJob) :
    (r.modFetch i f).todo = r.todo := rfl
@[simp] theorem Run.modFetch_pass (r : Run) (i : Nat) (f : FetchJob → FetchJob) :
    (r.modFetch i f).pass = r.pass := rfl
@[simp] theorem Run.modFetch_heldFirst (r : Run) (i : Nat) (f : FetchJob → FetchJob) :
    (r.modFetch i f).heldFirst = r.heldFirst := rfl

/-! `Run.modBurn` -/

@[simp] theorem Run.modBurn_path (r : Run) (i : Nat) (f : BurnJob → BurnJob) : (r.modBurn i f).path = r.path := rfl
@[simp] theorem Run.modBurn_frame (r : Run) (i : Nat) (f : BurnJob → BurnJob) : (r.modBurn i f).frame = r.frame := rfl
@[simp] theorem Run.modBurn_slot (r : Run) (i : Nat) (f : BurnJob → BurnJob) : (r.modBurn i f).slot = r.slot := rfl
@[simp] theorem Run.modBurn_picker (r : Run) (i : Nat) (f : BurnJob → BurnJob) :
    (r.modBurn i f).picker = r.picker := rfl
@[simp] theorem Run.modBurn_drives (r : Run) (i : Nat) (f : BurnJob → BurnJob) :
    (r.modBurn i f).drives = r.drives := rfl
@[simp] theorem Run.modBurn_mover (r : Run) (i : Nat) (f : BurnJob → BurnJob) : (r.modBurn i f).mover = r.mover := rfl
@[simp] theorem Run.modBurn_restores (r : Run) (i : Nat) (f : BurnJob → BurnJob) :
    (r.modBurn i f).restores = r.restores := rfl
@[simp] theorem Run.modBurn_sched (r : Run) (i : Nat) (f : BurnJob → BurnJob) : (r.modBurn i f).sched = r.sched := rfl
@[simp] theorem Run.modBurn_retr (r : Run) (i : Nat) (f : BurnJob → BurnJob) : (r.modBurn i f).retr = r.retr := rfl
@[simp] theorem Run.modBurn_filing (r : Run) (i : Nat) (f : BurnJob → BurnJob) :
    (r.modBurn i f).filing = { r.filing with burns := r.filing.burns.map (fun j => if j.job = i then f j else j) } := rfl
@[simp] theorem Run.modBurn_media (r : Run) (i : Nat) (f : BurnJob → BurnJob) : (r.modBurn i f).media = r.media := rfl
@[simp] theorem Run.modBurn_fee (r : Run) (i : Nat) (f : BurnJob → BurnJob) : (r.modBurn i f).fee = r.fee := rfl
@[simp] theorem Run.modBurn_stmts (r : Run) (i : Nat) (f : BurnJob → BurnJob) : (r.modBurn i f).stmts = r.stmts := rfl
@[simp] theorem Run.modBurn_store (r : Run) (i : Nat) (f : BurnJob → BurnJob) : (r.modBurn i f).store = r.store := rfl
@[simp] theorem Run.modBurn_startup (r : Run) (i : Nat) (f : BurnJob → BurnJob) :
    (r.modBurn i f).startup = r.startup := rfl
@[simp] theorem Run.modBurn_settings (r : Run) (i : Nat) (f : BurnJob → BurnJob) :
    (r.modBurn i f).settings = r.settings := rfl
@[simp] theorem Run.modBurn_now (r : Run) (i : Nat) (f : BurnJob → BurnJob) : (r.modBurn i f).now = r.now := rfl
@[simp] theorem Run.modBurn_todo (r : Run) (i : Nat) (f : BurnJob → BurnJob) : (r.modBurn i f).todo = r.todo := rfl
@[simp] theorem Run.modBurn_pass (r : Run) (i : Nat) (f : BurnJob → BurnJob) : (r.modBurn i f).pass = r.pass := rfl
@[simp] theorem Run.modBurn_heldFirst (r : Run) (i : Nat) (f : BurnJob → BurnJob) :
    (r.modBurn i f).heldFirst = r.heldFirst := rfl

/-! `Run.modAccount` -/

@[simp] theorem Run.modAccount_path (r : Run) (n : Nat) (f : Account → Account) :
    (r.modAccount n f).path = r.path := rfl
@[simp] theorem Run.modAccount_frame (r : Run) (n : Nat) (f : Account → Account) :
    (r.modAccount n f).frame = r.frame := rfl
@[simp] theorem Run.modAccount_slot (r : Run) (n : Nat) (f : Account → Account) :
    (r.modAccount n f).slot = r.slot := rfl
@[simp] theorem Run.modAccount_picker (r : Run) (n : Nat) (f : Account → Account) :
    (r.modAccount n f).picker = r.picker := rfl
@[simp] theorem Run.modAccount_drives (r : Run) (n : Nat) (f : Account → Account) :
    (r.modAccount n f).drives = r.drives := rfl
@[simp] theorem Run.modAccount_mover (r : Run) (n : Nat) (f : Account → Account) :
    (r.modAccount n f).mover = r.mover := rfl
@[simp] theorem Run.modAccount_restores (r : Run) (n : Nat) (f : Account → Account) :
    (r.modAccount n f).restores = r.restores := rfl
@[simp] theorem Run.modAccount_sched (r : Run) (n : Nat) (f : Account → Account) :
    (r.modAccount n f).sched = r.sched := rfl
@[simp] theorem Run.modAccount_retr (r : Run) (n : Nat) (f : Account → Account) :
    (r.modAccount n f).retr = r.retr := rfl
@[simp] theorem Run.modAccount_filing (r : Run) (n : Nat) (f : Account → Account) :
    (r.modAccount n f).filing = r.filing := rfl
@[simp] theorem Run.modAccount_media (r : Run) (n : Nat) (f : Account → Account) :
    (r.modAccount n f).media = r.media := rfl
@[simp] theorem Run.modAccount_fee (r : Run) (n : Nat) (f : Account → Account) : (r.modAccount n f).fee = r.fee := rfl
@[simp] theorem Run.modAccount_stmts (r : Run) (n : Nat) (f : Account → Account) :
    (r.modAccount n f).stmts = r.stmts := rfl
@[simp] theorem Run.modAccount_store (r : Run) (n : Nat) (f : Account → Account) :
    (r.modAccount n f).store = { r.store with accounts := r.store.accounts.modify n f } := rfl
@[simp] theorem Run.modAccount_startup (r : Run) (n : Nat) (f : Account → Account) :
    (r.modAccount n f).startup = r.startup := rfl
@[simp] theorem Run.modAccount_settings (r : Run) (n : Nat) (f : Account → Account) :
    (r.modAccount n f).settings = r.settings := rfl
@[simp] theorem Run.modAccount_now (r : Run) (n : Nat) (f : Account → Account) : (r.modAccount n f).now = r.now := rfl
@[simp] theorem Run.modAccount_todo (r : Run) (n : Nat) (f : Account → Account) :
    (r.modAccount n f).todo = r.todo := rfl
@[simp] theorem Run.modAccount_pass (r : Run) (n : Nat) (f : Account → Account) :
    (r.modAccount n f).pass = r.pass := rfl
@[simp] theorem Run.modAccount_heldFirst (r : Run) (n : Nat) (f : Account → Account) :
    (r.modAccount n f).heldFirst = r.heldFirst := rfl

/-! `Run.setPair` -/

@[simp] theorem Run.setPair_path (r : Run) (p : PairRec) : (r.setPair p).path = r.path := rfl
@[simp] theorem Run.setPair_frame (r : Run) (p : PairRec) : (r.setPair p).frame = r.frame := rfl
@[simp] theorem Run.setPair_slot (r : Run) (p : PairRec) : (r.setPair p).slot = r.slot := rfl
@[simp] theorem Run.setPair_picker (r : Run) (p : PairRec) : (r.setPair p).picker = r.picker := rfl
@[simp] theorem Run.setPair_drives (r : Run) (p : PairRec) : (r.setPair p).drives = r.drives := rfl
@[simp] theorem Run.setPair_mover (r : Run) (p : PairRec) : (r.setPair p).mover = r.mover := rfl
@[simp] theorem Run.setPair_restores (r : Run) (p : PairRec) : (r.setPair p).restores = r.restores := rfl
@[simp] theorem Run.setPair_sched (r : Run) (p : PairRec) : (r.setPair p).sched = r.sched := rfl
@[simp] theorem Run.setPair_retr (r : Run) (p : PairRec) : (r.setPair p).retr = r.retr := rfl
@[simp] theorem Run.setPair_filing (r : Run) (p : PairRec) : (r.setPair p).filing = r.filing := rfl
@[simp] theorem Run.setPair_media (r : Run) (p : PairRec) : (r.setPair p).media = r.media := rfl
@[simp] theorem Run.setPair_fee (r : Run) (p : PairRec) : (r.setPair p).fee = r.fee := rfl
@[simp] theorem Run.setPair_stmts (r : Run) (p : PairRec) : (r.setPair p).stmts = r.stmts := rfl
@[simp] theorem Run.setPair_store (r : Run) (p : PairRec) : (r.setPair p).store = { r.store with pair := p } := rfl
@[simp] theorem Run.setPair_startup (r : Run) (p : PairRec) : (r.setPair p).startup = r.startup := rfl
@[simp] theorem Run.setPair_settings (r : Run) (p : PairRec) : (r.setPair p).settings = r.settings := rfl
@[simp] theorem Run.setPair_now (r : Run) (p : PairRec) : (r.setPair p).now = r.now := rfl
@[simp] theorem Run.setPair_todo (r : Run) (p : PairRec) : (r.setPair p).todo = r.todo := rfl
@[simp] theorem Run.setPair_pass (r : Run) (p : PairRec) : (r.setPair p).pass = r.pass := rfl
@[simp] theorem Run.setPair_heldFirst (r : Run) (p : PairRec) : (r.setPair p).heldFirst = r.heldFirst := rfl

/-! `Run.setReloc` -/

@[simp] theorem Run.setReloc_path (r : Run) (i : Nat) (e : RelocEntry) : (r.setReloc i e).path = r.path := rfl
@[simp] theorem Run.setReloc_frame (r : Run) (i : Nat) (e : RelocEntry) : (r.setReloc i e).frame = r.frame := rfl
@[simp] theorem Run.setReloc_slot (r : Run) (i : Nat) (e : RelocEntry) : (r.setReloc i e).slot = r.slot := rfl
@[simp] theorem Run.setReloc_picker (r : Run) (i : Nat) (e : RelocEntry) : (r.setReloc i e).picker = r.picker := rfl
@[simp] theorem Run.setReloc_drives (r : Run) (i : Nat) (e : RelocEntry) : (r.setReloc i e).drives = r.drives := rfl
@[simp] theorem Run.setReloc_mover (r : Run) (i : Nat) (e : RelocEntry) : (r.setReloc i e).mover = r.mover := rfl
@[simp] theorem Run.setReloc_restores (r : Run) (i : Nat) (e : RelocEntry) :
    (r.setReloc i e).restores = r.restores := rfl
@[simp] theorem Run.setReloc_sched (r : Run) (i : Nat) (e : RelocEntry) : (r.setReloc i e).sched = r.sched := rfl
@[simp] theorem Run.setReloc_retr (r : Run) (i : Nat) (e : RelocEntry) : (r.setReloc i e).retr = r.retr := rfl
@[simp] theorem Run.setReloc_filing (r : Run) (i : Nat) (e : RelocEntry) : (r.setReloc i e).filing = r.filing := rfl
@[simp] theorem Run.setReloc_media (r : Run) (i : Nat) (e : RelocEntry) : (r.setReloc i e).media = r.media := rfl
@[simp] theorem Run.setReloc_fee (r : Run) (i : Nat) (e : RelocEntry) : (r.setReloc i e).fee = r.fee := rfl
@[simp] theorem Run.setReloc_stmts (r : Run) (i : Nat) (e : RelocEntry) : (r.setReloc i e).stmts = r.stmts := rfl
@[simp] theorem Run.setReloc_store (r : Run) (i : Nat) (e : RelocEntry) :
    (r.setReloc i e).store = { r.store with relocs := r.store.relocs.set i e } := rfl
@[simp] theorem Run.setReloc_startup (r : Run) (i : Nat) (e : RelocEntry) :
    (r.setReloc i e).startup = r.startup := rfl
@[simp] theorem Run.setReloc_settings (r : Run) (i : Nat) (e : RelocEntry) :
    (r.setReloc i e).settings = r.settings := rfl
@[simp] theorem Run.setReloc_now (r : Run) (i : Nat) (e : RelocEntry) : (r.setReloc i e).now = r.now := rfl
@[simp] theorem Run.setReloc_todo (r : Run) (i : Nat) (e : RelocEntry) : (r.setReloc i e).todo = r.todo := rfl
@[simp] theorem Run.setReloc_pass (r : Run) (i : Nat) (e : RelocEntry) : (r.setReloc i e).pass = r.pass := rfl
@[simp] theorem Run.setReloc_heldFirst (r : Run) (i : Nat) (e : RelocEntry) :
    (r.setReloc i e).heldFirst = r.heldFirst := rfl

/-! `Run.setMark` -/

@[simp] theorem Run.setMark_path (r : Run) (c : Nat) (m : Bool) : (r.setMark c m).path = r.path := rfl
@[simp] theorem Run.setMark_frame (r : Run) (c : Nat) (m : Bool) : (r.setMark c m).frame = r.frame := rfl
@[simp] theorem Run.setMark_slot (r : Run) (c : Nat) (m : Bool) : (r.setMark c m).slot = r.slot := rfl
@[simp] theorem Run.setMark_picker (r : Run) (c : Nat) (m : Bool) :
    (r.setMark c m).picker = { r.picker with marks := r.picker.marks.set c m } := rfl
@[simp] theorem Run.setMark_drives (r : Run) (c : Nat) (m : Bool) : (r.setMark c m).drives = r.drives := rfl
@[simp] theorem Run.setMark_mover (r : Run) (c : Nat) (m : Bool) : (r.setMark c m).mover = r.mover := rfl
@[simp] theorem Run.setMark_restores (r : Run) (c : Nat) (m : Bool) : (r.setMark c m).restores = r.restores := rfl
@[simp] theorem Run.setMark_sched (r : Run) (c : Nat) (m : Bool) : (r.setMark c m).sched = r.sched := rfl
@[simp] theorem Run.setMark_retr (r : Run) (c : Nat) (m : Bool) : (r.setMark c m).retr = r.retr := rfl
@[simp] theorem Run.setMark_filing (r : Run) (c : Nat) (m : Bool) : (r.setMark c m).filing = r.filing := rfl
@[simp] theorem Run.setMark_media (r : Run) (c : Nat) (m : Bool) : (r.setMark c m).media = r.media := rfl
@[simp] theorem Run.setMark_fee (r : Run) (c : Nat) (m : Bool) : (r.setMark c m).fee = r.fee := rfl
@[simp] theorem Run.setMark_stmts (r : Run) (c : Nat) (m : Bool) : (r.setMark c m).stmts = r.stmts := rfl
@[simp] theorem Run.setMark_store (r : Run) (c : Nat) (m : Bool) : (r.setMark c m).store = r.store := rfl
@[simp] theorem Run.setMark_startup (r : Run) (c : Nat) (m : Bool) : (r.setMark c m).startup = r.startup := rfl
@[simp] theorem Run.setMark_settings (r : Run) (c : Nat) (m : Bool) : (r.setMark c m).settings = r.settings := rfl
@[simp] theorem Run.setMark_now (r : Run) (c : Nat) (m : Bool) : (r.setMark c m).now = r.now := rfl
@[simp] theorem Run.setMark_todo (r : Run) (c : Nat) (m : Bool) : (r.setMark c m).todo = r.todo := rfl
@[simp] theorem Run.setMark_pass (r : Run) (c : Nat) (m : Bool) : (r.setMark c m).pass = r.pass := rfl
@[simp] theorem Run.setMark_heldFirst (r : Run) (c : Nat) (m : Bool) : (r.setMark c m).heldFirst = r.heldFirst := rfl

/-! `Run.setCursor` -/

@[simp] theorem Run.setCursor_path (r : Run) (p : Nat) (c : Option Cursor) : (r.setCursor p c).path = r.path := rfl
@[simp] theorem Run.setCursor_frame (r : Run) (p : Nat) (c : Option Cursor) : (r.setCursor p c).frame = r.frame := rfl
@[simp] theorem Run.setCursor_slot (r : Run) (p : Nat) (c : Option Cursor) : (r.setCursor p c).slot = r.slot := rfl
@[simp] theorem Run.setCursor_picker (r : Run) (p : Nat) (c : Option Cursor) :
    (r.setCursor p c).picker = r.picker := rfl
@[simp] theorem Run.setCursor_drives (r : Run) (p : Nat) (c : Option Cursor) :
    (r.setCursor p c).drives = r.drives := rfl
@[simp] theorem Run.setCursor_mover (r : Run) (p : Nat) (c : Option Cursor) : (r.setCursor p c).mover = r.mover := rfl
@[simp] theorem Run.setCursor_restores (r : Run) (p : Nat) (c : Option Cursor) :
    (r.setCursor p c).restores = r.restores := rfl
@[simp] theorem Run.setCursor_sched (r : Run) (p : Nat) (c : Option Cursor) : (r.setCursor p c).sched = r.sched := rfl
@[simp] theorem Run.setCursor_retr (r : Run) (p : Nat) (c : Option Cursor) : (r.setCursor p c).retr = r.retr := rfl
@[simp] theorem Run.setCursor_filing (r : Run) (p : Nat) (c : Option Cursor) :
    (r.setCursor p c).filing = r.filing := rfl
@[simp] theorem Run.setCursor_media (r : Run) (p : Nat) (c : Option Cursor) : (r.setCursor p c).media = r.media := rfl
@[simp] theorem Run.setCursor_fee (r : Run) (p : Nat) (c : Option Cursor) :
    (r.setCursor p c).fee = { r.fee with cursors := r.fee.cursors.set p c } := rfl
@[simp] theorem Run.setCursor_stmts (r : Run) (p : Nat) (c : Option Cursor) : (r.setCursor p c).stmts = r.stmts := rfl
@[simp] theorem Run.setCursor_store (r : Run) (p : Nat) (c : Option Cursor) : (r.setCursor p c).store = r.store := rfl
@[simp] theorem Run.setCursor_startup (r : Run) (p : Nat) (c : Option Cursor) :
    (r.setCursor p c).startup = r.startup := rfl
@[simp] theorem Run.setCursor_settings (r : Run) (p : Nat) (c : Option Cursor) :
    (r.setCursor p c).settings = r.settings := rfl
@[simp] theorem Run.setCursor_now (r : Run) (p : Nat) (c : Option Cursor) : (r.setCursor p c).now = r.now := rfl
@[simp] theorem Run.setCursor_todo (r : Run) (p : Nat) (c : Option Cursor) : (r.setCursor p c).todo = r.todo := rfl
@[simp] theorem Run.setCursor_pass (r : Run) (p : Nat) (c : Option Cursor) : (r.setCursor p c).pass = r.pass := rfl
@[simp] theorem Run.setCursor_heldFirst (r : Run) (p : Nat) (c : Option Cursor) :
    (r.setCursor p c).heldFirst = r.heldFirst := rfl

/-! `Run.setGrant` -/

@[simp] theorem Run.setGrant_path (r : Run) (i : Nat) (g : Option Grant) : (r.setGrant i g).path = r.path := rfl
@[simp] theorem Run.setGrant_frame (r : Run) (i : Nat) (g : Option Grant) : (r.setGrant i g).frame = r.frame := rfl
@[simp] theorem Run.setGrant_slot (r : Run) (i : Nat) (g : Option Grant) : (r.setGrant i g).slot = r.slot := rfl
@[simp] theorem Run.setGrant_picker (r : Run) (i : Nat) (g : Option Grant) : (r.setGrant i g).picker = r.picker := rfl
@[simp] theorem Run.setGrant_drives (r : Run) (i : Nat) (g : Option Grant) : (r.setGrant i g).drives = r.drives := rfl
@[simp] theorem Run.setGrant_mover (r : Run) (i : Nat) (g : Option Grant) : (r.setGrant i g).mover = r.mover := rfl
@[simp] theorem Run.setGrant_restores (r : Run) (i : Nat) (g : Option Grant) :
    (r.setGrant i g).restores = r.restores := rfl
@[simp] theorem Run.setGrant_sched (r : Run) (i : Nat) (g : Option Grant) : (r.setGrant i g).sched = r.sched := rfl
@[simp] theorem Run.setGrant_retr (r : Run) (i : Nat) (g : Option Grant) : (r.setGrant i g).retr = r.retr := rfl
@[simp] theorem Run.setGrant_filing (r : Run) (i : Nat) (g : Option Grant) : (r.setGrant i g).filing = r.filing := rfl
@[simp] theorem Run.setGrant_media (r : Run) (i : Nat) (g : Option Grant) : (r.setGrant i g).media = r.media := rfl
@[simp] theorem Run.setGrant_fee (r : Run) (i : Nat) (g : Option Grant) :
    (r.setGrant i g).fee = { r.fee with grants := r.fee.grants.set i g } := rfl
@[simp] theorem Run.setGrant_stmts (r : Run) (i : Nat) (g : Option Grant) : (r.setGrant i g).stmts = r.stmts := rfl
@[simp] theorem Run.setGrant_store (r : Run) (i : Nat) (g : Option Grant) : (r.setGrant i g).store = r.store := rfl
@[simp] theorem Run.setGrant_startup (r : Run) (i : Nat) (g : Option Grant) :
    (r.setGrant i g).startup = r.startup := rfl
@[simp] theorem Run.setGrant_settings (r : Run) (i : Nat) (g : Option Grant) :
    (r.setGrant i g).settings = r.settings := rfl
@[simp] theorem Run.setGrant_now (r : Run) (i : Nat) (g : Option Grant) : (r.setGrant i g).now = r.now := rfl
@[simp] theorem Run.setGrant_todo (r : Run) (i : Nat) (g : Option Grant) : (r.setGrant i g).todo = r.todo := rfl
@[simp] theorem Run.setGrant_pass (r : Run) (i : Nat) (g : Option Grant) : (r.setGrant i g).pass = r.pass := rfl
@[simp] theorem Run.setGrant_heldFirst (r : Run) (i : Nat) (g : Option Grant) :
    (r.setGrant i g).heldFirst = r.heldFirst := rfl

/-! `Run.modStream` -/

@[simp] theorem Run.modStream_path (r : Run) (i : Nat) (f : Stream → Stream) : (r.modStream i f).path = r.path := rfl
@[simp] theorem Run.modStream_frame (r : Run) (i : Nat) (f : Stream → Stream) :
    (r.modStream i f).frame = r.frame := rfl
@[simp] theorem Run.modStream_slot (r : Run) (i : Nat) (f : Stream → Stream) : (r.modStream i f).slot = r.slot := rfl
@[simp] theorem Run.modStream_picker (r : Run) (i : Nat) (f : Stream → Stream) :
    (r.modStream i f).picker = r.picker := rfl
@[simp] theorem Run.modStream_drives (r : Run) (i : Nat) (f : Stream → Stream) :
    (r.modStream i f).drives = r.drives := rfl
@[simp] theorem Run.modStream_mover (r : Run) (i : Nat) (f : Stream → Stream) :
    (r.modStream i f).mover = { r.mover with streams := r.mover.streams.map (fun s => if s.idx = i then f s else s) } := rfl
@[simp] theorem Run.modStream_restores (r : Run) (i : Nat) (f : Stream → Stream) :
    (r.modStream i f).restores = r.restores := rfl
@[simp] theorem Run.modStream_sched (r : Run) (i : Nat) (f : Stream → Stream) :
    (r.modStream i f).sched = r.sched := rfl
@[simp] theorem Run.modStream_retr (r : Run) (i : Nat) (f : Stream → Stream) : (r.modStream i f).retr = r.retr := rfl
@[simp] theorem Run.modStream_filing (r : Run) (i : Nat) (f : Stream → Stream) :
    (r.modStream i f).filing = r.filing := rfl
@[simp] theorem Run.modStream_media (r : Run) (i : Nat) (f : Stream → Stream) :
    (r.modStream i f).media = r.media := rfl
@[simp] theorem Run.modStream_fee (r : Run) (i : Nat) (f : Stream → Stream) : (r.modStream i f).fee = r.fee := rfl
@[simp] theorem Run.modStream_stmts (r : Run) (i : Nat) (f : Stream → Stream) :
    (r.modStream i f).stmts = r.stmts := rfl
@[simp] theorem Run.modStream_store (r : Run) (i : Nat) (f : Stream → Stream) :
    (r.modStream i f).store = r.store := rfl
@[simp] theorem Run.modStream_startup (r : Run) (i : Nat) (f : Stream → Stream) :
    (r.modStream i f).startup = r.startup := rfl
@[simp] theorem Run.modStream_settings (r : Run) (i : Nat) (f : Stream → Stream) :
    (r.modStream i f).settings = r.settings := rfl
@[simp] theorem Run.modStream_now (r : Run) (i : Nat) (f : Stream → Stream) : (r.modStream i f).now = r.now := rfl
@[simp] theorem Run.modStream_todo (r : Run) (i : Nat) (f : Stream → Stream) : (r.modStream i f).todo = r.todo := rfl
@[simp] theorem Run.modStream_pass (r : Run) (i : Nat) (f : Stream → Stream) : (r.modStream i f).pass = r.pass := rfl
@[simp] theorem Run.modStream_heldFirst (r : Run) (i : Nat) (f : Stream → Stream) :
    (r.modStream i f).heldFirst = r.heldFirst := rfl

/-! `Run.modJudging` -/

@[simp] theorem Run.modJudging_path (r : Run) (n : Nat) (f : Judging → Judging) :
    (r.modJudging n f).path = r.path := rfl
@[simp] theorem Run.modJudging_frame (r : Run) (n : Nat) (f : Judging → Judging) :
    (r.modJudging n f).frame = r.frame := rfl
@[simp] theorem Run.modJudging_slot (r : Run) (n : Nat) (f : Judging → Judging) :
    (r.modJudging n f).slot = r.slot := rfl
@[simp] theorem Run.modJudging_picker (r : Run) (n : Nat) (f : Judging → Judging) :
    (r.modJudging n f).picker = r.picker := rfl
@[simp] theorem Run.modJudging_drives (r : Run) (n : Nat) (f : Judging → Judging) :
    (r.modJudging n f).drives = r.drives := rfl
@[simp] theorem Run.modJudging_mover (r : Run) (n : Nat) (f : Judging → Judging) :
    (r.modJudging n f).mover = r.mover := rfl
@[simp] theorem Run.modJudging_restores (r : Run) (n : Nat) (f : Judging → Judging) :
    (r.modJudging n f).restores = r.restores := rfl
@[simp] theorem Run.modJudging_sched (r : Run) (n : Nat) (f : Judging → Judging) :
    (r.modJudging n f).sched = r.sched := rfl
@[simp] theorem Run.modJudging_retr (r : Run) (n : Nat) (f : Judging → Judging) :
    (r.modJudging n f).retr = r.retr := rfl
@[simp] theorem Run.modJudging_filing (r : Run) (n : Nat) (f : Judging → Judging) :
    (r.modJudging n f).filing = r.filing := rfl
@[simp] theorem Run.modJudging_media (r : Run) (n : Nat) (f : Judging → Judging) :
    (r.modJudging n f).media = { r.media with judging := r.media.judging.map (fun j => if j.frame = n then f j else j) } := rfl
@[simp] theorem Run.modJudging_fee (r : Run) (n : Nat) (f : Judging → Judging) : (r.modJudging n f).fee = r.fee := rfl
@[simp] theorem Run.modJudging_stmts (r : Run) (n : Nat) (f : Judging → Judging) :
    (r.modJudging n f).stmts = r.stmts := rfl
@[simp] theorem Run.modJudging_store (r : Run) (n : Nat) (f : Judging → Judging) :
    (r.modJudging n f).store = r.store := rfl
@[simp] theorem Run.modJudging_startup (r : Run) (n : Nat) (f : Judging → Judging) :
    (r.modJudging n f).startup = r.startup := rfl
@[simp] theorem Run.modJudging_settings (r : Run) (n : Nat) (f : Judging → Judging) :
    (r.modJudging n f).settings = r.settings := rfl
@[simp] theorem Run.modJudging_now (r : Run) (n : Nat) (f : Judging → Judging) : (r.modJudging n f).now = r.now := rfl
@[simp] theorem Run.modJudging_todo (r : Run) (n : Nat) (f : Judging → Judging) :
    (r.modJudging n f).todo = r.todo := rfl
@[simp] theorem Run.modJudging_pass (r : Run) (n : Nat) (f : Judging → Judging) :
    (r.modJudging n f).pass = r.pass := rfl
@[simp] theorem Run.modJudging_heldFirst (r : Run) (n : Nat) (f : Judging → Judging) :
    (r.modJudging n f).heldFirst = r.heldFirst := rfl

/-! `Run.answer` -/

@[simp] theorem Run.answer_path (r : Run) (m : Nat) (x : BusAnswer) :
    (r.answer m x).path = { r.path with answer := some (m, x) } := rfl
@[simp] theorem Run.answer_frame (r : Run) (m : Nat) (x : BusAnswer) : (r.answer m x).frame = r.frame := rfl
@[simp] theorem Run.answer_slot (r : Run) (m : Nat) (x : BusAnswer) : (r.answer m x).slot = r.slot := rfl
@[simp] theorem Run.answer_picker (r : Run) (m : Nat) (x : BusAnswer) : (r.answer m x).picker = r.picker := rfl
@[simp] theorem Run.answer_drives (r : Run) (m : Nat) (x : BusAnswer) : (r.answer m x).drives = r.drives := rfl
@[simp] theorem Run.answer_mover (r : Run) (m : Nat) (x : BusAnswer) : (r.answer m x).mover = r.mover := rfl
@[simp] theorem Run.answer_restores (r : Run) (m : Nat) (x : BusAnswer) : (r.answer m x).restores = r.restores := rfl
@[simp] theorem Run.answer_sched (r : Run) (m : Nat) (x : BusAnswer) : (r.answer m x).sched = r.sched := rfl
@[simp] theorem Run.answer_retr (r : Run) (m : Nat) (x : BusAnswer) : (r.answer m x).retr = r.retr := rfl
@[simp] theorem Run.answer_filing (r : Run) (m : Nat) (x : BusAnswer) : (r.answer m x).filing = r.filing := rfl
@[simp] theorem Run.answer_media (r : Run) (m : Nat) (x : BusAnswer) : (r.answer m x).media = r.media := rfl
@[simp] theorem Run.answer_fee (r : Run) (m : Nat) (x : BusAnswer) : (r.answer m x).fee = r.fee := rfl
@[simp] theorem Run.answer_stmts (r : Run) (m : Nat) (x : BusAnswer) : (r.answer m x).stmts = r.stmts := rfl
@[simp] theorem Run.answer_store (r : Run) (m : Nat) (x : BusAnswer) : (r.answer m x).store = r.store := rfl
@[simp] theorem Run.answer_startup (r : Run) (m : Nat) (x : BusAnswer) : (r.answer m x).startup = r.startup := rfl
@[simp] theorem Run.answer_settings (r : Run) (m : Nat) (x : BusAnswer) : (r.answer m x).settings = r.settings := rfl
@[simp] theorem Run.answer_now (r : Run) (m : Nat) (x : BusAnswer) : (r.answer m x).now = r.now := rfl
@[simp] theorem Run.answer_todo (r : Run) (m : Nat) (x : BusAnswer) : (r.answer m x).todo = r.todo := rfl
@[simp] theorem Run.answer_pass (r : Run) (m : Nat) (x : BusAnswer) : (r.answer m x).pass = r.pass := rfl
@[simp] theorem Run.answer_heldFirst (r : Run) (m : Nat) (x : BusAnswer) :
    (r.answer m x).heldFirst = r.heldFirst := rfl

/-! `Run.wait` -/

@[simp] theorem Run.wait_path (r : Run) (t : Transfer) : (r.wait t).path = { r.path with waiting := some t } := rfl
@[simp] theorem Run.wait_frame (r : Run) (t : Transfer) : (r.wait t).frame = r.frame := rfl
@[simp] theorem Run.wait_slot (r : Run) (t : Transfer) : (r.wait t).slot = r.slot := rfl
@[simp] theorem Run.wait_picker (r : Run) (t : Transfer) : (r.wait t).picker = r.picker := rfl
@[simp] theorem Run.wait_drives (r : Run) (t : Transfer) : (r.wait t).drives = r.drives := rfl
@[simp] theorem Run.wait_mover (r : Run) (t : Transfer) : (r.wait t).mover = r.mover := rfl
@[simp] theorem Run.wait_restores (r : Run) (t : Transfer) : (r.wait t).restores = r.restores := rfl
@[simp] theorem Run.wait_sched (r : Run) (t : Transfer) : (r.wait t).sched = r.sched := rfl
@[simp] theorem Run.wait_retr (r : Run) (t : Transfer) : (r.wait t).retr = r.retr := rfl
@[simp] theorem Run.wait_filing (r : Run) (t : Transfer) : (r.wait t).filing = r.filing := rfl
@[simp] theorem Run.wait_media (r : Run) (t : Transfer) : (r.wait t).media = r.media := rfl
@[simp] theorem Run.wait_fee (r : Run) (t : Transfer) : (r.wait t).fee = r.fee := rfl
@[simp] theorem Run.wait_stmts (r : Run) (t : Transfer) : (r.wait t).stmts = r.stmts := rfl
@[simp] theorem Run.wait_store (r : Run) (t : Transfer) : (r.wait t).store = r.store := rfl
@[simp] theorem Run.wait_startup (r : Run) (t : Transfer) : (r.wait t).startup = r.startup := rfl
@[simp] theorem Run.wait_settings (r : Run) (t : Transfer) : (r.wait t).settings = r.settings := rfl
@[simp] theorem Run.wait_now (r : Run) (t : Transfer) : (r.wait t).now = r.now := rfl
@[simp] theorem Run.wait_todo (r : Run) (t : Transfer) : (r.wait t).todo = r.todo := rfl
@[simp] theorem Run.wait_pass (r : Run) (t : Transfer) : (r.wait t).pass = r.pass := rfl
@[simp] theorem Run.wait_heldFirst (r : Run) (t : Transfer) : (r.wait t).heldFirst = r.heldFirst := rfl

end Sys2Proof.Machine
end

