-- ==== Sys2Proof/Laws/Settle.lean ====
section
/-! SUPPORT. Laws/Settle.lean: how the consequences of a command are taken, one at a time, and what a command with
none of them leaves; what a command's outcome is. -/

namespace Sys2Proof.Machine

open Sys2Proof.Config

/-! ### The agenda -/

/-- With nothing listed and no pass wanted there is nothing to settle. -/
theorem Run.settle_done (n : Nat) (r : Run) (ht : r.todo = []) (hp : r.pass = false) : Run.settle n r = r := by
  cases n with
  | zero => rfl
  | succ n => simp [Run.settle, ht, hp]

/-- The first consequence listed is taken next. -/
theorem Run.settle_cons (n : Nat) (r : Run) (t : Todo) (ts : List Todo) (h : r.todo = t :: ts) :
    Run.settle (n + 1) r = Run.settle n (Run.consequence { r with todo := ts } t) := by
  simp [Run.settle, h]

/-- When nothing is listed, a pass that is wanted runs. -/
theorem Run.settle_pass (n : Nat) (r : Run) (ht : r.todo = []) (hp : r.pass = true) :
    Run.settle (n + 1) r = Run.settle n (Run.dispatch { r with pass := false }) := by
  simp [Run.settle, ht, hp]

/-- What every consequence and every pass keeps, a command keeps. -/
theorem Run.settle_keeps (P : Run → Prop) (hc : ∀ r t ts, r.todo = t :: ts → P r → P (Run.consequence { r with todo := ts } t))
    (hd : ∀ r, r.todo = [] → P r → P (Run.dispatch { r with pass := false })) (n : Nat) (r : Run) (h : P r) :
    P (Run.settle n r) := by
  induction n generalizing r with
  | zero => exact h
  | succ n ih =>
    unfold Run.settle
    split
    · rename_i t ts ht
      exact ih _ (hc r t ts ht h)
    · rename_i ht
      split
      · exact ih _ (hd r ht h)
      · exact h

/-- A command's effect with no consequence and no pass is its own change. -/
theorem State.act_quiet (s : State) (f : Run → Run) (ht : (f (Run.of s)).todo = []) (hp : (f (Run.of s)).pass = false) :
    s.act f = s.withRun (f (Run.of s)) := by
  unfold State.act
  rw [Run.settle_done _ _ ht hp]

/-- A command's effect, where its own change is known and causes nothing. -/
theorem State.act_to (s : State) (f : Run → Run) (r : Run) (h : f (Run.of s) = r) (ht : r.todo = [])
    (hp : r.pass = false) : s.act f = s.withRun r := by
  subst h
  exact State.act_quiet s f ht hp

/-- A command's effect, where its own change causes one thing and that causes nothing more. -/
theorem State.act_then (s : State) (f : Run → Run) (r r' : Run) (t : Todo) (h : f (Run.of s) = r) (ht : r.todo = [t])
    (hc : Run.consequence { r with todo := [] } t = r') (ht' : r'.todo = []) (hp' : r'.pass = false) :
    s.act f = s.withRun r' := by
  subst h
  unfold State.act
  have hf : fuel = 999999 + 1 := rfl
  rw [hf, Run.settle_cons 999999 _ t [] ht, hc, Run.settle_done _ _ ht' hp']

/-- A change that is none at all leaves the state. -/
theorem State.act_id (s : State) : s.act (fun r => r) = s := by
  rw [State.act_quiet s _ rfl rfl]
  rfl

/-! ### Outcomes -/

/-- A well-formed command is carried out. -/
theorem outcome_wf (c : Instr) (s : State) (h : c.wf = true) : outcome c s = .next s := by simp [outcome, h]

/-- An ill-formed command is the model's only fault. -/
theorem outcome_ill (c : Instr) (s : State) (h : c.wf = false) : outcome c s = .fault .noSuchCommand := by
  simp [outcome, h]

/-- A command's next state, when it has one, is the state its meaning computes. -/
theorem outcome_next (c : Instr) (s t : State) (h : outcome c s = .next t) : t = s := by
  unfold outcome at h
  split at h
  · cases h; rfl
  · cases h

end Sys2Proof.Machine
end

