-- ==== Sys2Proof/Laws/Access.lean ====
section
/-! SUPPORT. Laws/Access.lean: everything that the arrival of a transfer, the completion of an access and a system
reset can change outside the blocks: an access may change document memory, keeping its canonical form, and none of them
changes the settings, the configuration memory, the clock or the queue. -/

namespace Sys2Proof.Machine

open Sys2Proof.Config

/-- Two states agree in all that lies outside the blocks and document memory. -/
def State.SameOutside (s t : State) : Prop :=
  t.settings = s.settings ∧ t.config = s.config ∧ t.now = s.now ∧ t.pending = s.pending

theorem State.SameOutside.refl (s : State) : s.SameOutside s := ⟨rfl, rfl, rfl, rfl⟩

theorem State.SameOutside.trans {s t u : State} (h : s.SameOutside t) (k : t.SameOutside u) : s.SameOutside u :=
  ⟨k.1.trans h.1, k.2.1.trans h.2.1, k.2.2.1.trans h.2.2.1, k.2.2.2.trans h.2.2.2⟩

theorem State.act_outside (s : State) (f : Run → Run) : s.SameOutside (s.act f) := ⟨rfl, rfl, rfl, rfl⟩

/-- A state reached from another by one access: the parts outside agree and memory keeps its canonical form. -/
def State.Access (s t : State) : Prop := s.SameOutside t ∧ (s.mem.wf = true → t.mem.wf = true)

theorem State.Access.refl (s : State) : s.Access s := ⟨.refl s, id⟩

theorem State.Access.trans {s t u : State} (h : s.Access t) (k : t.Access u) : s.Access u :=
  ⟨h.1.trans k.1, k.2 ∘ h.2⟩

theorem State.act_access (s : State) (f : Run → Run) : s.Access (s.act f) := ⟨s.act_outside f, id⟩

theorem State.Access.act {s t : State} (h : s.Access t) (f : Run → Run) : s.Access (t.act f) :=
  h.trans (t.act_access f)

theorem State.freePort_access (s : State) : s.Access s.freePort := ⟨⟨rfl, rfl, rfl, rfl⟩, id⟩

theorem State.writeMem_access (s : State) (w : MemWrite) : s.Access (s.writeMem w) :=
  ⟨⟨rfl, rfl, rfl, rfl⟩, s.mem.write_wf w.addr w.bytes⟩

theorem State.learn_access (s : State) (a n : Nat) (bad : List Nat) : s.Access (s.learn a n bad) :=
  ⟨⟨rfl, rfl, rfl, rfl⟩, s.mem.learnFaults_wf a n bad⟩

theorem State.learnWords_access (s : State) (words : List Nat) (bad : List Nat) :
    s.Access (words.foldl (fun s a => s.learn a 4 bad) s) := by
  induction words generalizing s with
  | nil => exact .refl s
  | cons a as ih => exact (s.learn_access a 4 bad).trans (ih _)

theorem State.completeWhole_access (s : State) (t : Transfer) (answered : Bool) (bad : List Nat) :
    s.Access (s.completeWhole t answered bad) := by
  unfold State.completeWhole
  split
  · exact (s.writeMem_access { addr := t.addr, bytes := t.data }).act _
  · dsimp only
    split <;> exact (s.learn_access _ _ _).act _

theorem State.completeControl_access (s : State) (t : Transfer) (answered : Bool) (bad : List Nat) :
    s.Access (s.completeControl t answered bad) := by
  unfold State.completeControl
  dsimp only
  split
  · refine State.Access.act ?_ _
    exact ⟨⟨rfl, rfl, rfl, rfl⟩, writeWords_wf t s.mem _⟩
  · split <;> exact (s.learnWords_access _ _).act _

theorem State.completeStream_access (s : State) (i : Nat) (bad : List Nat) : s.Access (s.completeStream i bad) := by
  unfold State.completeStream
  split
  · exact .refl s
  · split
    · dsimp only
      split <;> exact (s.learn_access _ _ _).act _
    · exact (s.writeMem_access _).act _

theorem State.completeWork_access (s : State) (bad : List Nat) : s.Access (s.completeWork bad) := by
  unfold State.completeWork
  split
  · exact .refl s
  · exact (s.learn_access _ _ _).act _
  · refine State.Access.act ?_ _
    split
    · exact s.writeMem_access _
    · exact .refl s
  · exact (s.writeMem_access _).act _

theorem State.accountStep_access (s : State) : s.Access s.accountStep := by
  unfold State.accountStep
  split
  · exact .refl s
  · split
    · exact (s.writeMem_access _).act _
    · exact s.act_access _

theorem State.logStep_access (s : State) : s.Access s.logStep := by
  unfold State.logStep
  split
  · exact .refl s
  · split
    · exact (s.writeMem_access _).act _
    · exact s.act_access _

theorem State.inventoryStep_access (s : State) : s.Access s.inventoryStep := by
  unfold State.inventoryStep
  split
  · exact .refl s
  · split
    · exact s.act_access _
    · split <;> exact (s.writeMem_access _).act _

theorem State.completeStart_access (s : State) : s.Access s.completeStart := by
  unfold State.completeStart
  split
  · exact .refl s
  · exact (s.writeMem_access _).act _

theorem State.completeSettings_access (s : State) (bad : List Nat) : s.Access (s.completeSettings bad) := by
  unfold State.completeSettings
  split
  · exact .refl s
  · split
    · dsimp only
      split <;> exact (s.learn_access _ _ _).act _
    · exact s.act_access _

/-- The completion of any access. -/
theorem State.completeAccess_access (s : State) (bad : List Nat) : s.Access (s.completeAccess bad) := by
  unfold State.completeAccess
  split
  · exact .refl s
  · split
    · exact s.freePort_access.trans (State.completeWhole_access _ _ _ _)
    · exact s.freePort_access.trans (State.completeControl_access _ _ _ _)
  · refine s.freePort_access.trans ?_
    dsimp only
    split
    · exact State.completeStream_access _ _ _
    · exact State.completeWork_access _ _
    · exact State.accountStep_access _
    · exact State.logStep_access _
    · exact State.inventoryStep_access _
    · exact State.completeStart_access _
    · exact State.completeSettings_access _ _
    · split
      · exact (State.writeMem_access _ _).act _
      · exact State.act_access _ _

/-- The arrival of a transfer changes the blocks only. -/
theorem State.busTransfer_outside (s : State) (t : Transfer) :
    s.SameOutside (s.busTransfer t) ∧ (s.busTransfer t).mem = s.mem := by
  unfold State.busTransfer
  split
  · exact ⟨s.act_outside _, rfl⟩
  · exact ⟨.refl s, rfl⟩

/-- The blocks at a bus reset. -/
theorem State.blocksReset_access (s : State) : s.Access s.blocksReset := by
  unfold State.blocksReset
  cases s.startup.stage
  · exact .refl s
  all_goals exact s.act_access _

/-- A system reset, with the statement record that it lets complete. -/
theorem State.busReset_access (s : State) : s.Access s.busReset := by
  refine State.Access.trans ?_ (State.blocksReset_access _)
  split
  · exact s.completeAccess_access []
  · exact .refl s

/-- A system reset that lets no record complete leaves memory. -/
theorem State.busReset_mem (s : State) (h : s.recordInPort = false) : s.busReset.mem = s.mem := by
  have hs : s.busReset = s.blocksReset := by simp [State.busReset, h]
  rw [hs]
  unfold State.blocksReset
  cases s.startup.stage
  · rfl
  all_goals exact State.act_mem s _

end Sys2Proof.Machine
end

