-- ==== Sys2Proof/Laws/Ops.lean ====
section
/-! SUPPORT. Laws/Ops.lean: everything that the taking of a notice, a violation, an end report, a change of a volume
record, a new record, a new fill and a slot's start can do: the fields each leaves alone, one lemma a field. -/

namespace Sys2Proof.Machine

/-! A notice changes the Slot Unit only (R57). -/

@[simp] theorem Run.notice_path (r : Run) (n : Notice) :
    (r.notice n).path = r.path := by unfold Run.notice; split <;> [rfl; split <;> rfl]
@[simp] theorem Run.notice_frame (r : Run) (n : Notice) :
    (r.notice n).frame = r.frame := by unfold Run.notice; split <;> [rfl; split <;> rfl]
@[simp] theorem Run.notice_picker (r : Run) (n : Notice) :
    (r.notice n).picker = r.picker := by unfold Run.notice; split <;> [rfl; split <;> rfl]
@[simp] theorem Run.notice_drives (r : Run) (n : Notice) :
    (r.notice n).drives = r.drives := by unfold Run.notice; split <;> [rfl; split <;> rfl]
@[simp] theorem Run.notice_mover (r : Run) (n : Notice) :
    (r.notice n).mover = r.mover := by unfold Run.notice; split <;> [rfl; split <;> rfl]
@[simp] theorem Run.notice_restores (r : Run) (n : Notice) :
    (r.notice n).restores = r.restores := by unfold Run.notice; split <;> [rfl; split <;> rfl]
@[simp] theorem Run.notice_sched (r : Run) (n : Notice) :
    (r.notice n).sched = r.sched := by unfold Run.notice; split <;> [rfl; split <;> rfl]
@[simp] theorem Run.notice_retr (r : Run) (n : Notice) :
    (r.notice n).retr = r.retr := by unfold Run.notice; split <;> [rfl; split <;> rfl]
@[simp] theorem Run.notice_filing (r : Run) (n : Notice) :
    (r.notice n).filing = r.filing := by unfold Run.notice; split <;> [rfl; split <;> rfl]
@[simp] theorem Run.notice_media (r : Run) (n : Notice) :
    (r.notice n).media = r.media := by unfold Run.notice; split <;> [rfl; split <;> rfl]
@[simp] theorem Run.notice_fee (r : Run) (n : Notice) :
    (r.notice n).fee = r.fee := by unfold Run.notice; split <;> [rfl; split <;> rfl]
@[simp] theorem Run.notice_stmts (r : Run) (n : Notice) :
    (r.notice n).stmts = r.stmts := by unfold Run.notice; split <;> [rfl; split <;> rfl]
@[simp] theorem Run.notice_store (r : Run) (n : Notice) :
    (r.notice n).store = r.store := by unfold Run.notice; split <;> [rfl; split <;> rfl]
@[simp] theorem Run.notice_startup (r : Run) (n : Notice) :
    (r.notice n).startup = r.startup := by unfold Run.notice; split <;> [rfl; split <;> rfl]
@[simp] theorem Run.notice_settings (r : Run) (n : Notice) :
    (r.notice n).settings = r.settings := by unfold Run.notice; split <;> [rfl; split <;> rfl]
@[simp] theorem Run.notice_now (r : Run) (n : Notice) :
    (r.notice n).now = r.now := by unfold Run.notice; split <;> [rfl; split <;> rfl]
@[simp] theorem Run.notice_todo (r : Run) (n : Notice) :
    (r.notice n).todo = r.todo := by unfold Run.notice; split <;> [rfl; split <;> rfl]
@[simp] theorem Run.notice_pass (r : Run) (n : Notice) :
    (r.notice n).pass = r.pass := by unfold Run.notice; split <;> [rfl; split <;> rfl]
@[simp] theorem Run.notice_heldFirst (r : Run) (n : Notice) :
    (r.notice n).heldFirst = r.heldFirst := by unfold Run.notice; split <;> [rfl; split <;> rfl]

/-! A violation changes the Path Unit's counters and the Slot Unit (R34). -/

@[simp] theorem Run.violation_frame (r : Run) (m a : Nat) (x : Reason) :
    (r.violation m a x).frame = r.frame := by simp [Run.violation]
@[simp] theorem Run.violation_picker (r : Run) (m a : Nat) (x : Reason) :
    (r.violation m a x).picker = r.picker := by simp [Run.violation]
@[simp] theorem Run.violation_drives (r : Run) (m a : Nat) (x : Reason) :
    (r.violation m a x).drives = r.drives := by simp [Run.violation]
@[simp] theorem Run.violation_mover (r : Run) (m a : Nat) (x : Reason) :
    (r.violation m a x).mover = r.mover := by simp [Run.violation]
@[simp] theorem Run.violation_restores (r : Run) (m a : Nat) (x : Reason) :
    (r.violation m a x).restores = r.restores := by simp [Run.violation]
@[simp] theorem Run.violation_sched (r : Run) (m a : Nat) (x : Reason) :
    (r.violation m a x).sched = r.sched := by simp [Run.violation]
@[simp] theorem Run.violation_retr (r : Run) (m a : Nat) (x : Reason) :
    (r.violation m a x).retr = r.retr := by simp [Run.violation]
@[simp] theorem Run.violation_filing (r : Run) (m a : Nat) (x : Reason) :
    (r.violation m a x).filing = r.filing := by simp [Run.violation]
@[simp] theorem Run.violation_media (r : Run) (m a : Nat) (x : Reason) :
    (r.violation m a x).media = r.media := by simp [Run.violation]
@[simp] theorem Run.violation_fee (r : Run) (m a : Nat) (x : Reason) :
    (r.violation m a x).fee = r.fee := by simp [Run.violation]
@[simp] theorem Run.violation_stmts (r : Run) (m a : Nat) (x : Reason) :
    (r.violation m a x).stmts = r.stmts := by simp [Run.violation]
@[simp] theorem Run.violation_store (r : Run) (m a : Nat) (x : Reason) :
    (r.violation m a x).store = r.store := by simp [Run.violation]
@[simp] theorem Run.violation_startup (r : Run) (m a : Nat) (x : Reason) :
    (r.violation m a x).startup = r.startup := by simp [Run.violation]
@[simp] theorem Run.violation_settings (r : Run) (m a : Nat) (x : Reason) :
    (r.violation m a x).settings = r.settings := by simp [Run.violation]
@[simp] theorem Run.violation_now (r : Run) (m a : Nat) (x : Reason) :
    (r.violation m a x).now = r.now := by simp [Run.violation]
@[simp] theorem Run.violation_todo (r : Run) (m a : Nat) (x : Reason) :
    (r.violation m a x).todo = r.todo := by simp [Run.violation]
@[simp] theorem Run.violation_pass (r : Run) (m a : Nat) (x : Reason) :
    (r.violation m a x).pass = r.pass := by simp [Run.violation]
@[simp] theorem Run.violation_heldFirst (r : Run) (m a : Nat) (x : Reason) :
    (r.violation m a x).heldFirst = r.heldFirst := by simp [Run.violation]

/-! An end report changes the Slot Unit only (R54). -/

@[simp] theorem Run.endReport_path (r : Run) (n : Nat) (e : Ended) (w : List (Nat × List Byte)) :
    (r.endReport n e w).path = r.path := by unfold Run.endReport; split <;> rfl
@[simp] theorem Run.endReport_frame (r : Run) (n : Nat) (e : Ended) (w : List (Nat × List Byte)) :
    (r.endReport n e w).frame = r.frame := by unfold Run.endReport; split <;> rfl
@[simp] theorem Run.endReport_picker (r : Run) (n : Nat) (e : Ended) (w : List (Nat × List Byte)) :
    (r.endReport n e w).picker = r.picker := by unfold Run.endReport; split <;> rfl
@[simp] theorem Run.endReport_drives (r : Run) (n : Nat) (e : Ended) (w : List (Nat × List Byte)) :
    (r.endReport n e w).drives = r.drives := by unfold Run.endReport; split <;> rfl
@[simp] theorem Run.endReport_mover (r : Run) (n : Nat) (e : Ended) (w : List (Nat × List Byte)) :
    (r.endReport n e w).mover = r.mover := by unfold Run.endReport; split <;> rfl
@[simp] theorem Run.endReport_restores (r : Run) (n : Nat) (e : Ended) (w : List (Nat × List Byte)) :
    (r.endReport n e w).restores = r.restores := by unfold Run.endReport; split <;> rfl
@[simp] theorem Run.endReport_sched (r : Run) (n : Nat) (e : Ended) (w : List (Nat × List Byte)) :
    (r.endReport n e w).sched = r.sched := by unfold Run.endReport; split <;> rfl
@[simp] theorem Run.endReport_retr (r : Run) (n : Nat) (e : Ended) (w : List (Nat × List Byte)) :
    (r.endReport n e w).retr = r.retr := by unfold Run.endReport; split <;> rfl
@[simp] theorem Run.endReport_filing (r : Run) (n : Nat) (e : Ended) (w : List (Nat × List Byte)) :
    (r.endReport n e w).filing = r.filing := by unfold Run.endReport; split <;> rfl
@[simp] theorem Run.endReport_media (r : Run) (n : Nat) (e : Ended) (w : List (Nat × List Byte)) :
    (r.endReport n e w).media = r.media := by unfold Run.endReport; split <;> rfl
@[simp] theorem Run.endReport_fee (r : Run) (n : Nat) (e : Ended) (w : List (Nat × List Byte)) :
    (r.endReport n e w).fee = r.fee := by unfold Run.endReport; split <;> rfl
@[simp] theorem Run.endReport_stmts (r : Run) (n : Nat) (e : Ended) (w : List (Nat × List Byte)) :
    (r.endReport n e w).stmts = r.stmts := by unfold Run.endReport; split <;> rfl
@[simp] theorem Run.endReport_store (r : Run) (n : Nat) (e : Ended) (w : List (Nat × List Byte)) :
    (r.endReport n e w).store = r.store := by unfold Run.endReport; split <;> rfl
@[simp] theorem Run.endReport_startup (r : Run) (n : Nat) (e : Ended) (w : List (Nat × List Byte)) :
    (r.endReport n e w).startup = r.startup := by unfold Run.endReport; split <;> rfl
@[simp] theorem Run.endReport_settings (r : Run) (n : Nat) (e : Ended) (w : List (Nat × List Byte)) :
    (r.endReport n e w).settings = r.settings := by unfold Run.endReport; split <;> rfl
@[simp] theorem Run.endReport_now (r : Run) (n : Nat) (e : Ended) (w : List (Nat × List Byte)) :
    (r.endReport n e w).now = r.now := by unfold Run.endReport; split <;> rfl
@[simp] theorem Run.endReport_todo (r : Run) (n : Nat) (e : Ended) (w : List (Nat × List Byte)) :
    (r.endReport n e w).todo = r.todo := by unfold Run.endReport; split <;> rfl
@[simp] theorem Run.endReport_pass (r : Run) (n : Nat) (e : Ended) (w : List (Nat × List Byte)) :
    (r.endReport n e w).pass = r.pass := by unfold Run.endReport; split <;> rfl
@[simp] theorem Run.endReport_heldFirst (r : Run) (n : Nat) (e : Ended) (w : List (Nat × List Byte)) :
    (r.endReport n e w).heldFirst = r.heldFirst := by unfold Run.endReport; split <;> rfl

/-! A DONE outcome changes the Slot Unit only. -/

@[simp] theorem Run.endDone_path (r : Run) (n k : Nat) (w : List (Nat × List Byte)) :
    (r.endDone n k w).path = r.path := by simp [Run.endDone]
@[simp] theorem Run.endDone_frame (r : Run) (n k : Nat) (w : List (Nat × List Byte)) :
    (r.endDone n k w).frame = r.frame := by simp [Run.endDone]
@[simp] theorem Run.endDone_picker (r : Run) (n k : Nat) (w : List (Nat × List Byte)) :
    (r.endDone n k w).picker = r.picker := by simp [Run.endDone]
@[simp] theorem Run.endDone_drives (r : Run) (n k : Nat) (w : List (Nat × List Byte)) :
    (r.endDone n k w).drives = r.drives := by simp [Run.endDone]
@[simp] theorem Run.endDone_mover (r : Run) (n k : Nat) (w : List (Nat × List Byte)) :
    (r.endDone n k w).mover = r.mover := by simp [Run.endDone]
@[simp] theorem Run.endDone_restores (r : Run) (n k : Nat) (w : List (Nat × List Byte)) :
    (r.endDone n k w).restores = r.restores := by simp [Run.endDone]
@[simp] theorem Run.endDone_sched (r : Run) (n k : Nat) (w : List (Nat × List Byte)) :
    (r.endDone n k w).sched = r.sched := by simp [Run.endDone]
@[simp] theorem Run.endDone_retr (r : Run) (n k : Nat) (w : List (Nat × List Byte)) :
    (r.endDone n k w).retr = r.retr := by simp [Run.endDone]
@[simp] theorem Run.endDone_filing (r : Run) (n k : Nat) (w : List (Nat × List Byte)) :
    (r.endDone n k w).filing = r.filing := by simp [Run.endDone]
@[simp] theorem Run.endDone_media (r : Run) (n k : Nat) (w : List (Nat × List Byte)) :
    (r.endDone n k w).media = r.media := by simp [Run.endDone]
@[simp] theorem Run.endDone_fee (r : Run) (n k : Nat) (w : List (Nat × List Byte)) :
    (r.endDone n k w).fee = r.fee := by simp [Run.endDone]
@[simp] theorem Run.endDone_stmts (r : Run) (n k : Nat) (w : List (Nat × List Byte)) :
    (r.endDone n k w).stmts = r.stmts := by simp [Run.endDone]
@[simp] theorem Run.endDone_store (r : Run) (n k : Nat) (w : List (Nat × List Byte)) :
    (r.endDone n k w).store = r.store := by simp [Run.endDone]
@[simp] theorem Run.endDone_startup (r : Run) (n k : Nat) (w : List (Nat × List Byte)) :
    (r.endDone n k w).startup = r.startup := by simp [Run.endDone]
@[simp] theorem Run.endDone_settings (r : Run) (n k : Nat) (w : List (Nat × List Byte)) :
    (r.endDone n k w).settings = r.settings := by simp [Run.endDone]
@[simp] theorem Run.endDone_now (r : Run) (n k : Nat) (w : List (Nat × List Byte)) :
    (r.endDone n k w).now = r.now := by simp [Run.endDone]
@[simp] theorem Run.endDone_todo (r : Run) (n k : Nat) (w : List (Nat × List Byte)) :
    (r.endDone n k w).todo = r.todo := by simp [Run.endDone]
@[simp] theorem Run.endDone_pass (r : Run) (n k : Nat) (w : List (Nat × List Byte)) :
    (r.endDone n k w).pass = r.pass := by simp [Run.endDone]
@[simp] theorem Run.endDone_heldFirst (r : Run) (n k : Nat) (w : List (Nat × List Byte)) :
    (r.endDone n k w).heldFirst = r.heldFirst := by simp [Run.endDone]

/-! A FAILED outcome changes the Slot Unit only. -/

@[simp] theorem Run.endFailed_path (r : Run) (n : Nat) (c : Code) (k : Nat) :
    (r.endFailed n c k).path = r.path := by simp [Run.endFailed]
@[simp] theorem Run.endFailed_frame (r : Run) (n : Nat) (c : Code) (k : Nat) :
    (r.endFailed n c k).frame = r.frame := by simp [Run.endFailed]
@[simp] theorem Run.endFailed_picker (r : Run) (n : Nat) (c : Code) (k : Nat) :
    (r.endFailed n c k).picker = r.picker := by simp [Run.endFailed]
@[simp] theorem Run.endFailed_drives (r : Run) (n : Nat) (c : Code) (k : Nat) :
    (r.endFailed n c k).drives = r.drives := by simp [Run.endFailed]
@[simp] theorem Run.endFailed_mover (r : Run) (n : Nat) (c : Code) (k : Nat) :
    (r.endFailed n c k).mover = r.mover := by simp [Run.endFailed]
@[simp] theorem Run.endFailed_restores (r : Run) (n : Nat) (c : Code) (k : Nat) :
    (r.endFailed n c k).restores = r.restores := by simp [Run.endFailed]
@[simp] theorem Run.endFailed_sched (r : Run) (n : Nat) (c : Code) (k : Nat) :
    (r.endFailed n c k).sched = r.sched := by simp [Run.endFailed]
@[simp] theorem Run.endFailed_retr (r : Run) (n : Nat) (c : Code) (k : Nat) :
    (r.endFailed n c k).retr = r.retr := by simp [Run.endFailed]
@[simp] theorem Run.endFailed_filing (r : Run) (n : Nat) (c : Code) (k : Nat) :
    (r.endFailed n c k).filing = r.filing := by simp [Run.endFailed]
@[simp] theorem Run.endFailed_media (r : Run) (n : Nat) (c : Code) (k : Nat) :
    (r.endFailed n c k).media = r.media := by simp [Run.endFailed]
@[simp] theorem Run.endFailed_fee (r : Run) (n : Nat) (c : Code) (k : Nat) :
    (r.endFailed n c k).fee = r.fee := by simp [Run.endFailed]
@[simp] theorem Run.endFailed_stmts (r : Run) (n : Nat) (c : Code) (k : Nat) :
    (r.endFailed n c k).stmts = r.stmts := by simp [Run.endFailed]
@[simp] theorem Run.endFailed_store (r : Run) (n : Nat) (c : Code) (k : Nat) :
    (r.endFailed n c k).store = r.store := by simp [Run.endFailed]
@[simp] theorem Run.endFailed_startup (r : Run) (n : Nat) (c : Code) (k : Nat) :
    (r.endFailed n c k).startup = r.startup := by simp [Run.endFailed]
@[simp] theorem Run.endFailed_settings (r : Run) (n : Nat) (c : Code) (k : Nat) :
    (r.endFailed n c k).settings = r.settings := by simp [Run.endFailed]
@[simp] theorem Run.endFailed_now (r : Run) (n : Nat) (c : Code) (k : Nat) :
    (r.endFailed n c k).now = r.now := by simp [Run.endFailed]
@[simp] theorem Run.endFailed_todo (r : Run) (n : Nat) (c : Code) (k : Nat) :
    (r.endFailed n c k).todo = r.todo := by simp [Run.endFailed]
@[simp] theorem Run.endFailed_pass (r : Run) (n : Nat) (c : Code) (k : Nat) :
    (r.endFailed n c k).pass = r.pass := by simp [Run.endFailed]
@[simp] theorem Run.endFailed_heldFirst (r : Run) (n : Nat) (c : Code) (k : Nat) :
    (r.endFailed n c k).heldFirst = r.heldFirst := by simp [Run.endFailed]

/-! A start told to a slot changes the Slot Unit only (R52). -/

@[simp] theorem Run.slotStarted_path (r : Run) (n : Nat) :
    (r.slotStarted n).path = r.path := by rfl
@[simp] theorem Run.slotStarted_frame (r : Run) (n : Nat) :
    (r.slotStarted n).frame = r.frame := by rfl
@[simp] theorem Run.slotStarted_picker (r : Run) (n : Nat) :
    (r.slotStarted n).picker = r.picker := by rfl
@[simp] theorem Run.slotStarted_drives (r : Run) (n : Nat) :
    (r.slotStarted n).drives = r.drives := by rfl
@[simp] theorem Run.slotStarted_mover (r : Run) (n : Nat) :
    (r.slotStarted n).mover = r.mover := by rfl
@[simp] theorem Run.slotStarted_restores (r : Run) (n : Nat) :
    (r.slotStarted n).restores = r.restores := by rfl
@[simp] theorem Run.slotStarted_sched (r : Run) (n : Nat) :
    (r.slotStarted n).sched = r.sched := by rfl
@[simp] theorem Run.slotStarted_retr (r : Run) (n : Nat) :
    (r.slotStarted n).retr = r.retr := by rfl
@[simp] theorem Run.slotStarted_filing (r : Run) (n : Nat) :
    (r.slotStarted n).filing = r.filing := by rfl
@[simp] theorem Run.slotStarted_media (r : Run) (n : Nat) :
    (r.slotStarted n).media = r.media := by rfl
@[simp] theorem Run.slotStarted_fee (r : Run) (n : Nat) :
    (r.slotStarted n).fee = r.fee := by rfl
@[simp] theorem Run.slotStarted_stmts (r : Run) (n : Nat) :
    (r.slotStarted n).stmts = r.stmts := by rfl
@[simp] theorem Run.slotStarted_store (r : Run) (n : Nat) :
    (r.slotStarted n).store = r.store := by rfl
@[simp] theorem Run.slotStarted_startup (r : Run) (n : Nat) :
    (r.slotStarted n).startup = r.startup := by rfl
@[simp] theorem Run.slotStarted_settings (r : Run) (n : Nat) :
    (r.slotStarted n).settings = r.settings := by rfl
@[simp] theorem Run.slotStarted_now (r : Run) (n : Nat) :
    (r.slotStarted n).now = r.now := by rfl
@[simp] theorem Run.slotStarted_todo (r : Run) (n : Nat) :
    (r.slotStarted n).todo = r.todo := by rfl
@[simp] theorem Run.slotStarted_pass (r : Run) (n : Nat) :
    (r.slotStarted n).pass = r.pass := by rfl
@[simp] theorem Run.slotStarted_heldFirst (r : Run) (n : Nat) :
    (r.slotStarted n).heldFirst = r.heldFirst := by rfl

/-! A volume record's change is a change of the store. -/

@[simp] theorem Run.modVolume_path (r : Run) (n : Nat) (f : Volume → Volume) :
    (r.modVolume n f).path = r.path := by rfl
@[simp] theorem Run.modVolume_frame (r : Run) (n : Nat) (f : Volume → Volume) :
    (r.modVolume n f).frame = r.frame := by rfl
@[simp] theorem Run.modVolume_slot (r : Run) (n : Nat) (f : Volume → Volume) :
    (r.modVolume n f).slot = r.slot := by rfl
@[simp] theorem Run.modVolume_picker (r : Run) (n : Nat) (f : Volume → Volume) :
    (r.modVolume n f).picker = r.picker := by rfl
@[simp] theorem Run.modVolume_drives (r : Run) (n : Nat) (f : Volume → Volume) :
    (r.modVolume n f).drives = r.drives := by rfl
@[simp] theorem Run.modVolume_mover (r : Run) (n : Nat) (f : Volume → Volume) :
    (r.modVolume n f).mover = r.mover := by rfl
@[simp] theorem Run.modVolume_restores (r : Run) (n : Nat) (f : Volume → Volume) :
    (r.modVolume n f).restores = r.restores := by rfl
@[simp] theorem Run.modVolume_sched (r : Run) (n : Nat) (f : Volume → Volume) :
    (r.modVolume n f).sched = r.sched := by rfl
@[simp] theorem Run.modVolume_retr (r : Run) (n : Nat) (f : Volume → Volume) :
    (r.modVolume n f).retr = r.retr := by rfl
@[simp] theorem Run.modVolume_filing (r : Run) (n : Nat) (f : Volume → Volume) :
    (r.modVolume n f).filing = r.filing := by rfl
@[simp] theorem Run.modVolume_media (r : Run) (n : Nat) (f : Volume → Volume) :
    (r.modVolume n f).media = r.media := by rfl
@[simp] theorem Run.modVolume_fee (r : Run) (n : Nat) (f : Volume → Volume) :
    (r.modVolume n f).fee = r.fee := by rfl
@[simp] theorem Run.modVolume_stmts (r : Run) (n : Nat) (f : Volume → Volume) :
    (r.modVolume n f).stmts = r.stmts := by rfl
@[simp] theorem Run.modVolume_startup (r : Run) (n : Nat) (f : Volume → Volume) :
    (r.modVolume n f).startup = r.startup := by rfl
@[simp] theorem Run.modVolume_settings (r : Run) (n : Nat) (f : Volume → Volume) :
    (r.modVolume n f).settings = r.settings := by rfl
@[simp] theorem Run.modVolume_now (r : Run) (n : Nat) (f : Volume → Volume) :
    (r.modVolume n f).now = r.now := by rfl
@[simp] theorem Run.modVolume_todo (r : Run) (n : Nat) (f : Volume → Volume) :
    (r.modVolume n f).todo = r.todo := by rfl
@[simp] theorem Run.modVolume_pass (r : Run) (n : Nat) (f : Volume → Volume) :
    (r.modVolume n f).pass = r.pass := by rfl
@[simp] theorem Run.modVolume_heldFirst (r : Run) (n : Nat) (f : Volume → Volume) :
    (r.modVolume n f).heldFirst = r.heldFirst := by rfl

/-! A change under the watch of the BLANK count changes the store and the Slot Unit (R137). -/

@[simp] theorem Run.claimVolume_path (r : Run) (n : Nat) (f : Volume → Volume) :
    (r.claimVolume n f).path = r.path := by unfold Run.claimVolume Run.blankWatch; split <;> simp
@[simp] theorem Run.claimVolume_frame (r : Run) (n : Nat) (f : Volume → Volume) :
    (r.claimVolume n f).frame = r.frame := by unfold Run.claimVolume Run.blankWatch; split <;> simp
@[simp] theorem Run.claimVolume_picker (r : Run) (n : Nat) (f : Volume → Volume) :
    (r.claimVolume n f).picker = r.picker := by unfold Run.claimVolume Run.blankWatch; split <;> simp
@[simp] theorem Run.claimVolume_drives (r : Run) (n : Nat) (f : Volume → Volume) :
    (r.claimVolume n f).drives = r.drives := by unfold Run.claimVolume Run.blankWatch; split <;> simp
@[simp] theorem Run.claimVolume_mover (r : Run) (n : Nat) (f : Volume → Volume) :
    (r.claimVolume n f).mover = r.mover := by unfold Run.claimVolume Run.blankWatch; split <;> simp
@[simp] theorem Run.claimVolume_restores (r : Run) (n : Nat) (f : Volume → Volume) :
    (r.claimVolume n f).restores = r.restores := by unfold Run.claimVolume Run.blankWatch; split <;> simp
@[simp] theorem Run.claimVolume_sched (r : Run) (n : Nat) (f : Volume → Volume) :
    (r.claimVolume n f).sched = r.sched := by unfold Run.claimVolume Run.blankWatch; split <;> simp
@[simp] theorem Run.claimVolume_retr (r : Run) (n : Nat) (f : Volume → Volume) :
    (r.claimVolume n f).retr = r.retr := by unfold Run.claimVolume Run.blankWatch; split <;> simp
@[simp] theorem Run.claimVolume_filing (r : Run) (n : Nat) (f : Volume → Volume) :
    (r.claimVolume n f).filing = r.filing := by unfold Run.claimVolume Run.blankWatch; split <;> simp
@[simp] theorem Run.claimVolume_media (r : Run) (n : Nat) (f : Volume → Volume) :
    (r.claimVolume n f).media = r.media := by unfold Run.claimVolume Run.blankWatch; split <;> simp
@[simp] theorem Run.claimVolume_fee (r : Run) (n : Nat) (f : Volume → Volume) :
    (r.claimVolume n f).fee = r.fee := by unfold Run.claimVolume Run.blankWatch; split <;> simp
@[simp] theorem Run.claimVolume_stmts (r : Run) (n : Nat) (f : Volume → Volume) :
    (r.claimVolume n f).stmts = r.stmts := by unfold Run.claimVolume Run.blankWatch; split <;> simp
@[simp] theorem Run.claimVolume_startup (r : Run) (n : Nat) (f : Volume → Volume) :
    (r.claimVolume n f).startup = r.startup := by unfold Run.claimVolume Run.blankWatch; split <;> simp
@[simp] theorem Run.claimVolume_settings (r : Run) (n : Nat) (f : Volume → Volume) :
    (r.claimVolume n f).settings = r.settings := by unfold Run.claimVolume Run.blankWatch; split <;> simp
@[simp] theorem Run.claimVolume_now (r : Run) (n : Nat) (f : Volume → Volume) :
    (r.claimVolume n f).now = r.now := by unfold Run.claimVolume Run.blankWatch; split <;> simp
@[simp] theorem Run.claimVolume_todo (r : Run) (n : Nat) (f : Volume → Volume) :
    (r.claimVolume n f).todo = r.todo := by unfold Run.claimVolume Run.blankWatch; split <;> simp
@[simp] theorem Run.claimVolume_pass (r : Run) (n : Nat) (f : Volume → Volume) :
    (r.claimVolume n f).pass = r.pass := by unfold Run.claimVolume Run.blankWatch; split <;> simp
@[simp] theorem Run.claimVolume_heldFirst (r : Run) (n : Nat) (f : Volume → Volume) :
    (r.claimVolume n f).heldFirst = r.heldFirst := by unfold Run.claimVolume Run.blankWatch; split <;> simp

/-- A notice in service is given the next position, or counted as lost (R57). -/
theorem Run.notice_inService (r : Run) (n : Notice) (h : r.startup.inService = true) :
    r.notice n = { r with slot := r.slot.takeNotice n } := by
  simp [Run.notice, h]

/-- A notice taken while no position is free changes the lost count only (R57). -/
theorem SlotUnit.takeNotice_full (u : SlotUnit) (n : Notice) (h : ¬ u.unread + u.reserved.length < 63) :
    u.takeNotice n = { u with lost := satInc Config.max16 u.lost } := by
  simp [SlotUnit.takeNotice, h]

/-- A notice taken with a position free reserves it and puts its write on the work list (R57). -/
theorem SlotUnit.takeNotice_free (u : SlotUnit) (n : Notice) (h : u.unread + u.reserved.length < 63) :
    u.takeNotice n =
      { u with reserved := u.reserved ++ [false],
               work := u.work ++ [.notice ((u.producer + u.reserved.length) % 64) n] } := by
  simp [SlotUnit.takeNotice, h]

/-- A notice changes no slot. -/
@[simp] theorem SlotUnit.takeNotice_slots (u : SlotUnit) (n : Notice) : (u.takeNotice n).slots = u.slots := by
  unfold SlotUnit.takeNotice; split <;> rfl

/-- A notice moves neither index of the ring (R57). -/
@[simp] theorem SlotUnit.takeNotice_producer (u : SlotUnit) (n : Notice) : (u.takeNotice n).producer = u.producer := by
  unfold SlotUnit.takeNotice; split <;> rfl

@[simp] theorem SlotUnit.takeNotice_consumer (u : SlotUnit) (n : Notice) : (u.takeNotice n).consumer = u.consumer := by
  unfold SlotUnit.takeNotice; split <;> rfl

/-- An end report of a request in hand records the outcome, makes the job reference absent and appends the write-back;
the state of the slot is not changed (R54). -/
theorem Run.endReport_inHand (r : Run) (n : Nat) (e : Ended) (w : List (Nat × List Byte)) (h : (r.slotAt n).inHand = true) :
    r.endReport n e w =
      { r with slot := { r.slot with
          slots := r.slot.slots.modify n (fun x => { x with outcome := some e, jobRef := none }),
          work := r.slot.work ++ [.writeBack n (writeBackWrites n e w)] } } := by
  simp [Run.endReport, h, Run.modSlot]

/-- An end report of a request that is no longer in hand changes nothing. -/
theorem Run.endReport_over (r : Run) (n : Nat) (e : Ended) (w : List (Nat × List Byte)) (h : (r.slotAt n).inHand = false) :
    r.endReport n e w = r := by
  simp [Run.endReport, h]

/-- What the Frame Mover's presentation can do: nothing, or the rotating pointer and the transfer presented (R88). -/
theorem Run.presentNext_cases (r : Run) :
    r.presentNext = r ∨
      ∃ i, r.nextStream = some i ∧
        r.presentNext = { r with mover := { r.mover with presented := some i, pointer := (i + 1) % 8 } } := by
  unfold Run.presentNext
  split
  · exact Or.inl rfl
  · cases h : r.nextStream with
    | none => exact Or.inl rfl
    | some i => exact Or.inr ⟨i, rfl, rfl⟩

/-- The record of a volume after a change of the record of one volume. -/
theorem Run.volume_modVolume (r : Run) (n m : Nat) (f : Volume → Volume) (hf : ∀ v, (f v).serial = v.serial) :
    (r.modVolume n f).volume m = if m = n then (r.volume n).map f else r.volume m := by
  unfold Run.volume Store.volume Run.modVolume
  dsimp only
  induction r.store.volumes with
  | nil => split <;> rfl
  | cons o os ih =>
    cases o with
    | none => simpa using ih
    | some v =>
      by_cases hv : v.serial = n
      · by_cases hm : m = n
        · subst hm
          simp [hv, hf]
        · simp [hv, hf, hm, Ne.symm hm] at ih ⊢
          exact ih
      · by_cases hm : m = n
        · subst hm
          simp [hv] at ih ⊢
          exact ih
        · by_cases hx : v.serial = m
          · simp [hx, hm]
          · simp [hv, hx, hm] at ih ⊢
            exact ih

/-! A new record changes the volume table, and the count of an audit in hand (R64, R82). -/

@[simp] theorem Run.putRecord_volumes (r : Run) (i n : Nat) (b : Bool) (l : Loc) :
    (r.putRecord i n b l).store.volumes = r.store.volumes.set i (some (Volume.fresh n b l)) := rfl
@[simp] theorem Run.putRecord_picker (r : Run) (i n : Nat) (b : Bool) (l : Loc) :
    (r.putRecord i n b l).picker = r.picker.countCreated := rfl
@[simp] theorem Run.putRecord_sched (r : Run) (i n : Nat) (b : Bool) (l : Loc) :
    (r.putRecord i n b l).sched = r.sched := rfl
@[simp] theorem Run.putRecord_drives (r : Run) (i n : Nat) (b : Bool) (l : Loc) :
    (r.putRecord i n b l).drives = r.drives := rfl
@[simp] theorem Picker.countCreated_none (p : Picker) (h : p.audit = none) : p.countCreated = p := by
  unfold Picker.countCreated; rw [h]; exact congrArg (fun a => ({ p with audit := a } : Picker)) h.symm

/-- After a frame is filled anew, no failure of its earlier fill is listed (R129). -/
theorem Run.fillFrame_fails (r : Run) (n slot : Nat) (tag : Location) (c : Code) :
    Todo.fillFail n c ∉ (r.fillFrame n tag slot).todo := by
  have h : (r.fillFrame n tag slot).todo = r.todo.filter (fun t => !t.failsFill n) := by
    unfold Run.fillFrame Run.setFrame; split <;> rfl
  rw [h]
  simp [Todo.failsFill]

/-- Without an inventory summary in hand the Slot Unit presents whatever work it has (R39, R49). -/
theorem Run.presentsSlotWork_closed (r : Run) (h : r.summaryOpen = false) :
    r.presentsSlotWork = !r.slot.work.isEmpty := by
  unfold Run.presentsSlotWork; simp [h]

end Sys2Proof.Machine
end

