-- ==== Sys2Proof/Laws/PerInstr.lean ====
section
/-! SUPPORT. Laws/PerInstr.lean: what the well-formedness of a command says of the numbers it carries, one lemma for
each constructor: a drive, a slot, a master and a copier port are ones that exist (R21, R41, R85, R172). -/

namespace Sys2Proof

/-- The drive a command names, if it names one. -/
def Instr.driveNamed : Instr → Option Nat
  | .loadComplete x _ => some x
  | .powerUpLoadComplete x _ => some x
  | .findWritePointComplete x _ => some x
  | .readComplete x _ => some x
  | .rereadComplete x _ => some x
  | .bufferLoaded x _ => some x
  | .burnComplete x _ => some x
  | .verifyComplete x _ => some x
  | .unloadComplete x _ => some x
  | .restoreComplete x _ => some x
  | .driveTimeout x => some x
  | _ => none

/-- The slot a command names, if it names one. -/
def Instr.slotNamed : Instr → Option Nat
  | .claimRead _ x => some x
  | .post _ x => some x
  | .releaseClaim _ x => some x
  | .releaseSlot _ x => some x
  | .cancel _ x => some x
  | .stateWordRefused _ x _ => some x
  | _ => none

/-- The master whose transfer a command is, if it is one. -/
def Instr.masterNamed : Instr → Option Nat
  | .systemTransfer t => some t.master
  | .claimRead x _ => some x
  | .post x _ => some x
  | .releaseClaim x _ => some x
  | .releaseSlot x _ => some x
  | .cancel x _ => some x
  | .stateWordRefused x _ _ => some x
  | .consumerIndexWrite x _ => some x
  | _ => none

/-- The copier port a command names, if it names one. -/
def Instr.portNamed : Instr → Option Nat
  | .sweepIdleExpiry x => some x
  | _ => none

namespace Laws.OperandsInRange

/-- A well-formed command names only drives 0 to 3, slots 0 to 63, masters 0 to 15 and copier ports 0 to 7. -/
def Statement (i : Instr) : Prop :=
  i.wf = true →
    (∀ d, i.driveNamed = some d → d < 4) ∧ (∀ n, i.slotNamed = some n → n < 64) ∧
    (∀ m, i.masterNamed = some m → m < 16) ∧ (∀ p, i.portNamed = some p → p < 8)

/-- A command that names none of them. -/
theorem nothingNamed (i : Instr) (hd : i.driveNamed = none) (hs : i.slotNamed = none) (hm : i.masterNamed = none)
    (hp : i.portNamed = none) : Statement i := by
  intro _
  rw [hd, hs, hm, hp]
  exact ⟨fun _ h => (Option.some_ne_none _ h.symm).elim, fun _ h => (Option.some_ne_none _ h.symm).elim,
    fun _ h => (Option.some_ne_none _ h.symm).elim, fun _ h => (Option.some_ne_none _ h.symm).elim⟩

/-- A command that names a drive and none of the others. -/
theorem driveOnly (i : Instr) (d : Nat) (hd : i.driveNamed = some d) (hs : i.slotNamed = none)
    (hm : i.masterNamed = none) (hp : i.portNamed = none) (h : i.wf = true → d < 4) : Statement i := by
  intro hw
  rw [hd, hs, hm, hp]
  exact ⟨fun e he => Option.some.inj he ▸ h hw, fun _ h => (Option.some_ne_none _ h.symm).elim,
    fun _ h => (Option.some_ne_none _ h.symm).elim, fun _ h => (Option.some_ne_none _ h.symm).elim⟩

theorem powerUp (delivered : Bool) : Statement (.powerUp delivered) := nothingNamed _ rfl rfl rfl rfl

theorem controlAreaCheckDone (result : CheckResult) : Statement (.controlAreaCheckDone result) :=
  nothingNamed _ rfl rfl rfl rfl

theorem initializationDone : Statement .initializationDone := nothingNamed _ rfl rfl rfl rfl

theorem systemReset : Statement .systemReset := nothingNamed _ rfl rfl rfl rfl

theorem systemTransfer (t : Transfer) : Statement (.systemTransfer t) := by
  intro h
  simp [Instr.wf, Transfer.wf, Instr.driveNamed, Instr.slotNamed, Instr.masterNamed, Instr.portNamed] at h ⊢
  omega

theorem claimRead (master slot : Nat) : Statement (.claimRead master slot) := by
  intro h
  simp [Instr.wf, Instr.driveNamed, Instr.slotNamed, Instr.masterNamed, Instr.portNamed] at h ⊢
  omega

theorem post (master slot : Nat) : Statement (.post master slot) := by
  intro h
  simp [Instr.wf, Instr.driveNamed, Instr.slotNamed, Instr.masterNamed, Instr.portNamed] at h ⊢
  omega

theorem releaseClaim (master slot : Nat) : Statement (.releaseClaim master slot) := by
  intro h
  simp [Instr.wf, Instr.driveNamed, Instr.slotNamed, Instr.masterNamed, Instr.portNamed] at h ⊢
  omega

theorem releaseSlot (master slot : Nat) : Statement (.releaseSlot master slot) := by
  intro h
  simp [Instr.wf, Instr.driveNamed, Instr.slotNamed, Instr.masterNamed, Instr.portNamed] at h ⊢
  omega

theorem cancel (master slot : Nat) : Statement (.cancel master slot) := by
  intro h
  simp [Instr.wf, Instr.driveNamed, Instr.slotNamed, Instr.masterNamed, Instr.portNamed] at h ⊢
  omega

theorem stateWordRefused (master slot value : Nat) : Statement (.stateWordRefused master slot value) := by
  intro h
  simp [Instr.wf, Instr.driveNamed, Instr.slotNamed, Instr.masterNamed, Instr.portNamed] at h ⊢
  omega

theorem consumerIndexWrite (master value : Nat) : Statement (.consumerIndexWrite master value) := by
  intro h
  simp [Instr.wf, Instr.driveNamed, Instr.slotNamed, Instr.masterNamed, Instr.portNamed] at h ⊢
  omega

theorem portGrant : Statement .portGrant := nothingNamed _ rfl rfl rfl rfl

theorem memoryAccessComplete (bad : List Nat) : Statement (.memoryAccessComplete bad) := nothingNamed _ rfl rfl rfl rfl

theorem acceptanceReadDone (bad : List Nat) : Statement (.acceptanceReadDone bad) := nothingNamed _ rfl rfl rfl rfl

theorem settingsWriteDone : Statement .settingsWriteDone := nothingNamed _ rfl rfl rfl rfl

theorem accountStatementRecord : Statement .accountStatementRecord := nothingNamed _ rfl rfl rfl rfl

theorem logStatementRecord : Statement .logStatementRecord := nothingNamed _ rfl rfl rfl rfl

theorem inventoryStatementRecord : Statement .inventoryStatementRecord := nothingNamed _ rfl rfl rfl rfl

theorem writeBackDone : Statement .writeBackDone := nothingNamed _ rfl rfl rfl rfl

theorem noticeWriteDone : Statement .noticeWriteDone := nothingNamed _ rfl rfl rfl rfl

theorem moveEnd : Statement .moveEnd := nothingNamed _ rfl rfl rfl rfl

theorem importProbeResult (probe : Probe) : Statement (.importProbeResult probe) := nothingNamed _ rfl rfl rfl rfl

theorem moveTimeout : Statement .moveTimeout := nothingNamed _ rfl rfl rfl rfl

theorem handoffPlaced (cell : Nat) : Statement (.handoffPlaced cell) := nothingNamed _ rfl rfl rfl rfl

theorem handoffTaken (cell : Nat) : Statement (.handoffTaken cell) := nothingNamed _ rfl rfl rfl rfl

theorem hatchButton : Statement .hatchButton := nothingNamed _ rfl rfl rfl rfl

theorem releaseWindowExpiry : Statement .releaseWindowExpiry := nothingNamed _ rfl rfl rfl rfl

theorem hatchOpened : Statement .hatchOpened := nothingNamed _ rfl rfl rfl rfl

theorem hatchClosed : Statement .hatchClosed := nothingNamed _ rfl rfl rfl rfl

theorem reHomeEnd (holdsPlatter : Bool) : Statement (.reHomeEnd holdsPlatter) := nothingNamed _ rfl rfl rfl rfl

theorem probeResult (probe : Probe) : Statement (.probeResult probe) := nothingNamed _ rfl rfl rfl rfl

theorem loadComplete (drive : Nat) (result : Option LoadResult) : Statement (.loadComplete drive result) :=
  driveOnly _ drive rfl rfl rfl rfl (fun h => by simp [Instr.wf] at h; omega)

theorem powerUpLoadComplete (drive : Nat) (result : Option LoadResult) : Statement (.powerUpLoadComplete drive result) :=
  driveOnly _ drive rfl rfl rfl rfl (fun h => by simp [Instr.wf] at h; omega)

theorem findWritePointComplete (drive : Nat) (result : Option Nat) : Statement (.findWritePointComplete drive result) :=
  driveOnly _ drive rfl rfl rfl rfl (fun h => by simp [Instr.wf] at h; omega)

theorem readComplete (drive : Nat) (result : Option (List SectorRead)) : Statement (.readComplete drive result) :=
  driveOnly _ drive rfl rfl rfl rfl (fun h => by simp [Instr.wf] at h; omega)

theorem rereadComplete (drive : Nat) (result : Option SectorRead) : Statement (.rereadComplete drive result) :=
  driveOnly _ drive rfl rfl rfl rfl (fun h => by simp [Instr.wf] at h; omega)

theorem sectorPlaced : Statement .sectorPlaced := nothingNamed _ rfl rfl rfl rfl

theorem relocationJobHit (frame : Nat) : Statement (.relocationJobHit frame) := nothingNamed _ rfl rfl rfl rfl

theorem bufferLoaded (drive : Nat) (bad : List Nat) : Statement (.bufferLoaded drive bad) :=
  driveOnly _ drive rfl rfl rfl rfl (fun h => by simp [Instr.wf] at h; omega)

theorem burnComplete (drive : Nat) (ok : Bool) : Statement (.burnComplete drive ok) :=
  driveOnly _ drive rfl rfl rfl rfl (fun h => by simp [Instr.wf] at h; omega)

theorem verifyComplete (drive : Nat) (result : VerifyResult) : Statement (.verifyComplete drive result) :=
  driveOnly _ drive rfl rfl rfl rfl (fun h => by simp [Instr.wf] at h; omega)

theorem unloadComplete (drive : Nat) (ok : Bool) : Statement (.unloadComplete drive ok) :=
  driveOnly _ drive rfl rfl rfl rfl (fun h => by simp [Instr.wf] at h; omega)

theorem restoreComplete (drive : Nat) (present : Option Bool) : Statement (.restoreComplete drive present) :=
  driveOnly _ drive rfl rfl rfl rfl (fun h => by simp [Instr.wf] at h; omega)

theorem driveTimeout (drive : Nat) : Statement (.driveTimeout drive) :=
  driveOnly _ drive rfl rfl rfl rfl (fun h => by simp [Instr.wf] at h; omega)

theorem sweepIdleExpiry (port : Nat) : Statement (.sweepIdleExpiry port) := by
  intro h
  simp [Instr.wf, Instr.driveNamed, Instr.slotNamed, Instr.masterNamed, Instr.portNamed] at h ⊢
  omega

theorem mainPowerLoss (fate : StoreFate) : Statement (.mainPowerLoss fate) := nothingNamed _ rfl rfl rfl rfl

end Laws.OperandsInRange

end Sys2Proof
end

