-- ==== Sys2Proof/Laws/Quiet.lean ====
section
/-! SUPPORT. Laws/Quiet.lean: in a part in which no work waits, most consequences do nothing, so that a command's effect
is its own change. -/

namespace Sys2Proof.Machine

open Sys2Proof.Config

/-! ### Consequences that find nothing to do -/

/-- A consequence that changes no block's record while no work waits. -/
def Todo.dull (p : Parts) : Todo → Prop
  | .arm => True
  | .depart _ => True
  | .placeTasks _ => True
  | .pump => True
  | .closes => True
  | .restores => True
  | .safePoint _ => True
  | .fetchEnd _ => True
  | .exportAct _ => True
  | .loadReport _ => True
  | .driveReady _ => p.startup.stage ≠ .drives
  | .startup =>
    (p.startup.stage = .done ∧ p.startup.started = true) ∨
      (p.startup.stage = .drives ∧ p.startup.driveReported.all id = false)
  | .hatch => p.picker.hatch ≠ .releasePending
  | .audit => p.picker.audit = none
  | .present => p.mover.streams = []
  | .orderEnded o code _ _ =>
    o.requester = .nobody ∧ (code = none ∨ o.kind = .mount ∨ o.kind = .importIn ∨ o.drive = none)
  | _ => False

/-- With no assignment of a drive every record is clear. -/
theorem Run.assignAt_calm (r : Run) (h : r.sched.assigns = List.replicate 4 Assign.clear) (d : Nat) :
    r.assignAt d = Assign.clear := by
  unfold Run.assignAt
  rw [h, List.getD_eq_getElem?_getD, List.getElem?_replicate]
  split <;> rfl

/-- A change of an assignment record that leaves a clear one clear changes nothing while all are. -/
theorem Run.modAssign_calm (r : Run) (h : r.sched.assigns = List.replicate 4 Assign.clear) (d : Nat)
    (f : Assign → Assign) (hf : f Assign.clear = Assign.clear) : r.modAssign d f = r := by
  unfold Run.modAssign
  have : r.sched.assigns.modify d f = r.sched.assigns := by
    rw [h]
    apply List.ext_getElem?
    intro i
    rw [List.getElem?_modify, List.getElem?_replicate]
    split
    · split <;> simp [hf]
    · simp
  rw [this]

/-- Pushing a consequence changes no block's record. -/
theorem Run.push_toParts (r : Run) (t : Todo) : (r.push t).toParts = r.toParts := rfl

/-- What the Scheduler lists when it looks again at every drive. -/
theorem Run.lookAtDrives_todo (r : Run) :
    (r.lookAtDrives).todo = r.todo ++ [.depart 0, .placeTasks 0, .depart 1, .placeTasks 1, .depart 2, .placeTasks 2,
      .depart 3, .placeTasks 3] := by
  simp [Run.lookAtDrives, Run.push]

/-- Looking again at every drive changes no record yet. -/
theorem Run.lookAtDrives_toParts (r : Run) : (r.lookAtDrives).wantPass.toParts = r.toParts := by
  simp [Run.lookAtDrives, Run.push, Run.wantPass]

/-- A picker order that nobody asked for ends without effect in a calm part, but for the drive that reloads. -/
theorem Run.orderEnded_calm (r : Run) (ha : r.sched.assigns = List.replicate 4 Assign.clear) (kind : OrderKind)
    (drive volume : Option Nat) (side : Option Side) (cell : Option Nat) (level number : Nat) (code : Option Code)
    (n c : Nat) (hk : code = none ∨ kind = .mount ∨ kind = .importIn ∨ drive = none) :
    r.orderEnded ⟨kind, drive, volume, side, cell, level, number, .nobody⟩ code n c = (r.lookAtDrives).wantPass := by
  have hasg := fun d => r.assignAt_calm ha d
  have tell := fun (x : Run) (h : x = r) => congrArg (fun y : Run => (y.lookAtDrives).wantPass) h
  have hin : ∀ d x, r.exchangeFails d x = r := by
    intro d x
    unfold Run.exchangeFails
    rw [hasg d]
    rfl
  have hout : ∀ o d, o.kind = .unmount → r.driveOrderEnded o d none = r := by
    intro o d h
    unfold Run.driveOrderEnded
    rw [h]
    dsimp only
    rw [hasg d]
    exact r.modAssign_calm ha d _ rfl
  have hflip : ∀ o d, o.kind = .flip → r.driveOrderEnded o d none = r := by
    intro o d h
    unfold Run.driveOrderEnded
    rw [h]
    dsimp only
    unfold Run.flipsToTasks
    rw [hasg d]
    dsimp only
    rw [r.modAssign_calm ha d _ rfl]
    rfl
  cases kind with
  | mount =>
    cases drive with
    | none => rfl
    | some d =>
      cases code with
      | none => rfl
      | some x => exact tell _ (hin d x)
  | unmount =>
    cases drive with
    | none => rfl
    | some d =>
      cases code with
      | none => exact tell _ (hout _ d rfl)
      | some x => exact absurd hk (by simp)
  | flip =>
    cases drive with
    | none => rfl
    | some d =>
      cases code with
      | none => exact tell _ (hflip _ d rfl)
      | some x => exact absurd hk (by simp)
  | importIn => rfl
  | exportOut =>
    cases drive with
    | none => rfl
    | some d =>
      cases code with
      | none => rfl
      | some x => exact absurd hk (by simp)
  | probe =>
    cases drive with
    | none => rfl
    | some d => cases code <;> rfl

/-- A dull consequence in a calm part changes no block's record and lists only dull ones. -/
theorem Run.consequence_dull (r : Run) (t : Todo) (hc : r.toParts.Calm) (ht : t.dull r.toParts)
    (hd : ∀ x ∈ r.todo, x.dull r.toParts) :
    (r.consequence t).toParts = r.toParts ∧ ∀ x ∈ (r.consequence t).todo, x.dull r.toParts := by
  obtain ⟨hj, hq, hs, ha, hw, hf, htk, ho, hfl, hco, hr⟩ := hc
  have one : ∀ (u : Run) (x : Todo), (∀ y ∈ u.todo, y.dull r.toParts) → x.dull r.toParts →
      ∀ y ∈ (u.push x).todo, y.dull r.toParts := by
    intro u x hu hx y hy
    rcases List.mem_append.1 hy with hy | hy
    · exact hu y hy
    · rw [List.mem_singleton.1 hy]; exact hx
  have hjob : ∀ i, r.jobAt i = none := fun i => by unfold Run.jobAt; rw [hj]; rfl
  have hasg := fun d => r.assignAt_calm ha d
  have hpump : r.pump = r := by
    unfold Run.pump
    have h1 : r.filing.flight.find? (fun f => f.settled) = none := by
      rw [List.find?_eq_none]
      intro f hm
      simp [hfl f hm]
    have h2 : r.inHand = none := by unfold Run.inHand; rw [hj]; rfl
    rw [h1, h2]
  cases t with
  | arm =>
    have : r.armStep = r := by unfold Run.armStep; rw [ho]; simp [bestOrder]
    exact ⟨congrArg Run.toParts this, by rw [show r.consequence .arm = r from this]; exact hd⟩
  | depart d =>
    have : r.depart d = r := by
      unfold Run.depart
      rw [hasg d]
      simp only [Assign.clear]
      exact ite_self r
    exact ⟨congrArg Run.toParts this, by rw [show r.consequence (.depart d) = r from this]; exact hd⟩
  | placeTasks d =>
    have : r.placeTasks d = r ∨ r.placeTasks d = r.push (.depart d) := by
      unfold Run.placeTasks
      rw [hasg d]
      simp only [Assign.clear, List.filterMap_nil, List.filter_nil, Run.nextTask, List.map_nil, List.min?_nil,
        List.isEmpty_nil, if_true]
      split
      · split
        · exact Or.inl rfl
        · exact Or.inr rfl
      · exact Or.inr rfl
    rcases this with h | h
    · exact ⟨congrArg Run.toParts h, by rw [show r.consequence (.placeTasks d) = r from h]; exact hd⟩
    · exact ⟨(congrArg Run.toParts h).trans rfl, by
        rw [show r.consequence (.placeTasks d) = r.push (.depart d) from h]; exact one r _ hd trivial⟩
  | pump => exact ⟨congrArg Run.toParts hpump, by rw [show r.consequence .pump = r from hpump]; exact hd⟩
  | closes =>
    have : r.closeStep = r := by unfold Run.closeStep; rw [hco]
    exact ⟨congrArg Run.toParts this, by rw [show r.consequence .closes = r from this]; exact hd⟩
  | restores =>
    have : r.restoreStep = r := by unfold Run.restoreStep; rw [hr]; simp
    exact ⟨congrArg Run.toParts this, by rw [show r.consequence .restores = r from this]; exact hd⟩
  | safePoint j =>
    have : r.safePoint j = r := by unfold Run.safePoint; rw [hjob]
    exact ⟨congrArg Run.toParts this, by rw [show r.consequence (.safePoint j) = r from this]; exact hd⟩
  | fetchEnd j =>
    have : r.fetchEnds j = r := by unfold Run.fetchEnds Run.fetchAt; rw [hf]; rfl
    exact ⟨congrArg Run.toParts this, by rw [show r.consequence (.fetchEnd j) = r from this]; exact hd⟩
  | exportAct j =>
    have : r.consequence (.exportAct j) = r := by
      show (if (r.jobAt j).isSome ∧ !r.exportPlaced j then _ else r) = r
      rw [hjob]; rfl
    exact ⟨congrArg Run.toParts this, by rw [this]; exact hd⟩
  | loadReport d =>
    have : r.loadReport d = r.push .pump := by
      unfold Run.loadReport
      have h1 : (r.push .pump).assignAt d = Assign.clear := (r.push .pump).assignAt_calm ha d
      simp only [h1, Assign.clear]
    exact ⟨(congrArg Run.toParts this).trans rfl, by
      rw [show r.consequence (.loadReport d) = r.push .pump from this]; exact one r _ hd trivial⟩
  | driveReady d =>
    have hs : r.startup.stage ≠ .drives := ht
    have : r.driveReady d = ((((r.push (.placeTasks d)).push (.depart d)).push .pump).wantPass) := by
      unfold Run.driveReady
      dsimp only
      rw [r.modAssign_calm ha d _ rfl]
      unfold Run.driveReports
      rw [if_neg (fun h => hs h.2)]
    refine ⟨(congrArg Run.toParts this).trans rfl, ?_⟩
    rw [show r.consequence (.driveReady d) = _ from this]
    exact one _ _ (one _ _ (one r _ hd trivial) trivial) trivial
  | startup =>
    have : r.startupStep = r := by
      unfold Run.startupStep
      rcases ht with ht | ht
      · rw [ht.1]
        simp [ht.2]
      · rw [ht.1]
        dsimp only
        rw [if_neg (fun h => by rw [ht.2] at h; exact Bool.false_ne_true h.2)]
    exact ⟨congrArg Run.toParts this, by rw [show r.consequence .startup = r from this]; exact hd⟩
  | hatch =>
    have : r.hatchStep = r := by
      unfold Run.hatchStep
      rw [if_neg (fun h => ht h.1)]
    exact ⟨congrArg Run.toParts this, by rw [show r.consequence .hatch = r from this]; exact hd⟩
  | audit =>
    have : r.auditStep = r := by
      unfold Run.auditStep
      have : r.picker.audit = none := ht
      rw [this]
    exact ⟨congrArg Run.toParts this, by rw [show r.consequence .audit = r from this]; exact hd⟩
  | present =>
    have : r.presentNext = r := by
      have h1 : r.nextStream = none := by
        have h2 : ∀ i, r.streamAt i = none := fun i => by
          unfold Run.streamAt
          rw [show r.mover.streams = [] from ht]; rfl
        unfold Run.nextStream
        rw [List.find?_eq_none]
        intro i _
        simp [h2]
      unfold Run.presentNext
      rw [h1]
      exact ite_self r
    exact ⟨congrArg Run.toParts this, by rw [show r.consequence .present = r from this]; exact hd⟩
  | orderEnded o code n c =>
    obtain ⟨hn, hk⟩ := ht
    obtain ⟨kind, drive, volume, side, cell, level, number, req⟩ := o
    simp only at hn hk
    subst hn
    have hend : r.consequence (.orderEnded ⟨kind, drive, volume, side, cell, level, number, .nobody⟩ code n c) =
        (r.lookAtDrives).wantPass := r.orderEnded_calm ha kind drive volume side cell level number code n c hk
    rw [hend]
    refine ⟨r.lookAtDrives_toParts, ?_⟩
    have look := r.lookAtDrives_todo
    show ∀ x ∈ (r.lookAtDrives).todo, x.dull r.toParts
    rw [look]
    intro x hx
    rcases List.mem_append.1 hx with hx | hx
    · exact hd x hx
    · simp only [List.mem_cons, List.not_mem_nil, or_false] at hx
      rcases hx with rfl | rfl | rfl | rfl | rfl | rfl | rfl | rfl <;> trivial
  | _ => exact absurd ht id

/-- A pass in a calm part finds no job. -/
theorem Run.dispatch_calm (r : Run) (hc : r.toParts.Calm) : (r.dispatch).toParts = r.toParts ∧ (r.dispatch).todo = r.todo := by
  obtain ⟨hj, hq, _⟩ := hc
  have hh : ∀ b, (if b = true then r.heldJobs else []) = [] := by
    intro b
    cases b
    · rfl
    · rw [if_pos rfl]; unfold Run.heldJobs; rw [hj]; rfl
  unfold Run.dispatch
  split
  · dsimp only
    rw [hh, hq]
    exact ⟨rfl, rfl⟩
  · exact ⟨rfl, rfl⟩

/-! ### Consequences one by one, where they find nothing to do -/

/-- A drive with no FLIP and no departure pending has none to place. -/
theorem Run.depart_idle (r : Run) (d : Nat) (hf : (r.assignAt d).flip = none) (hd : (r.assignAt d).departure = none) :
    r.depart d = r := by
  unfold Run.depart
  simp only [hf, hd]
  exact ite_self r

/-- A drive whose task list is empty has no task to place; at most its departure is looked at. -/
theorem Run.placeTasks_idle (r : Run) (d : Nat) (h : (r.assignAt d).tasks = []) :
    r.placeTasks d = r ∨ r.placeTasks d = r.push (.depart d) := by
  unfold Run.placeTasks
  simp only [h, List.filterMap_nil, List.filter_nil, Run.nextTask, List.map_nil, List.min?_nil, List.isEmpty_nil,
    if_true]
  split
  · split
    · exact Or.inl rfl
    · exact Or.inr rfl
  · exact Or.inr rfl

/-- With no CLOSE FILING PAIR waiting none is taken. -/
theorem Run.closeStep_idle (r : Run) (h : r.filing.closeOps = []) : r.closeStep = r := by
  unfold Run.closeStep; rw [h]

/-- With no item settled and no job in hand the Filing Unit waits. -/
theorem Run.pump_idle (r : Run) (h : r.filing.flight.find? (fun f => f.settled) = none) (hj : r.inHand = none) :
    r.pump = r := by
  unfold Run.pump; rw [h, hj]

/-- With no job waiting for frames none is served. -/
theorem Run.service_idle (r : Run) (h : r.frame.waitQueue = []) : r.service = r := by
  unfold Run.service Run.serveWait; rw [h]

/-- A job that is gone, or is not at a safe point, does not stop. -/
theorem Run.safePoint_idle (r : Run) (job : Nat)
    (h : ∀ j, r.jobAt job = some j → ¬(j.state = .stopping ∧ r.atSafePoint j = true)) : r.safePoint job = r := by
  unfold Run.safePoint
  split
  · rfl
  · rename_i j hj
    exact if_neg (h j hj)

/-- With no FETCH record there is none to end. -/
theorem Run.fetchEnds_idle (r : Run) (job : Nat) (h : r.fetchAt job = none) : r.fetchEnds job = r := by
  unfold Run.fetchEnds; rw [h]

/-- With no stream the Frame Mover has nothing to present. -/
theorem Run.presentNext_idle (r : Run) (h : r.mover.streams = []) : r.presentNext = r := by
  rcases r.presentNext_cases with e | ⟨i, hi, _⟩
  · exact e
  · have h2 : ∀ i, r.streamAt i = none := fun i => by unfold Run.streamAt; rw [h]; rfl
    have := List.find?_some hi
    simp [h2] at this

/-- A job in no level queue is passed over (R104). -/
theorem Run.passJob_unqueued (r : Run) (job : Nat) (h : r.sched.queues.flatten = []) : r.passJob job = r := by
  unfold Run.passJob
  split
  · rfl
  · have hq : (r.sched.queues.any fun q => q.contains job) = false := by
      rw [List.any_eq_false]
      intro q hq hc
      have := List.flatten_eq_nil_iff.1 h q hq
      rw [this] at hc
      exact Bool.false_ne_true hc
    dsimp only
    rw [hq]
    exact if_pos (Or.inl rfl)

/-- A pass over empty level queues starts and places nothing, and before STARTED no pass runs. -/
theorem Run.dispatch_idle (r : Run) (h : r.sched.queues.flatten = [] ∨ r.startup.started = false) :
    (r.dispatch).toParts = r.toParts ∧ (r.dispatch).todo = r.todo := by
  rcases h with h | h
  swap
  · unfold Run.dispatch Run.passAllowed
    rw [h]
    exact ⟨rfl, rfl⟩
  have pass : ∀ (l : List Nat) (u : Run), u.sched.queues.flatten = [] → l.foldl (fun r i => r.passJob i) u = u := by
    intro l
    induction l with
    | nil => exact fun _ _ => rfl
    | cons i l ih => exact fun u hu => by rw [List.foldl_cons, u.passJob_unqueued i hu]; exact ih u hu
  unfold Run.dispatch
  split
  · dsimp only
    have hq : ({ r with heldFirst := false } : Run).sched.queues.flatten = [] := h
    rw [pass _ _ hq]
    exact ⟨rfl, rfl⟩
  · exact ⟨rfl, rfl⟩

/-- Settling consequences of a kind that all find nothing to do, and list only consequences of that kind, changes no
block's record. -/
theorem Run.settle_still (S : Todo → Prop) (p : Parts)
    (hS : ∀ (r : Run) (t : Todo), r.toParts = p → S t → (∀ x ∈ r.todo, S x) →
      (r.consequence t).toParts = p ∧ ∀ x ∈ (r.consequence t).todo, S x)
    (hq : p.sched.queues.flatten = [] ∨ p.startup.started = false) (n : Nat) (r : Run) (hr : r.toParts = p) (ht : ∀ x ∈ r.todo, S x) :
    (Run.settle n r).toParts = p := by
  induction n generalizing r with
  | zero => exact hr
  | succ n ih =>
    cases h : r.todo with
    | cons t ts =>
      rw [Run.settle_cons n r t ts h]
      have hm := ht
      rw [h] at hm
      have k := hS { r with todo := ts } t hr (hm t (List.mem_cons_self ..)) (fun x hx => hm x (List.mem_cons_of_mem _ hx))
      exact ih _ k.1 k.2
    | nil =>
      unfold Run.settle
      rw [h]
      dsimp only
      split
      · have k := Run.dispatch_idle { r with pass := false, todo := [] } (by rw [← hr] at hq; exact hq)
        exact ih _ (k.1.trans hr) (by rw [k.2]; exact fun x hx => nomatch hx)
      · exact hr

/-- A command's effect is its own change, where what it causes finds nothing to do. -/
theorem State.act_still (s : State) (f : Run → Run) (r : Run) (h : f (Run.of s) = r) (S : Todo → Prop)
    (hS : ∀ (u : Run) (t : Todo), u.toParts = r.toParts → S t → (∀ x ∈ u.todo, S x) →
      (u.consequence t).toParts = r.toParts ∧ ∀ x ∈ (u.consequence t).todo, S x)
    (hq : r.sched.queues.flatten = [] ∨ r.startup.started = false) (ht : ∀ x ∈ r.todo, S x) :
    s.act f = s.withRun r := by
  subst h
  unfold State.act State.withRun
  rw [Run.settle_still S _ hS hq _ _ rfl ht]

/-- Settling consequences that change nothing, with no pass wanted, changes no block's record. -/
theorem Run.settle_fixed (p : Parts) (n : Nat) (r : Run) (hr : r.toParts = p) (hp : r.pass = false)
    (ht : ∀ t ∈ r.todo, ∀ u : Run, u.toParts = p → u.consequence t = u) : (Run.settle n r).toParts = p := by
  induction n generalizing r with
  | zero => exact hr
  | succ n ih =>
    cases h : r.todo with
    | cons t ts =>
      rw [Run.settle_cons n r t ts h]
      rw [h] at ht
      have e := ht t (List.mem_cons_self ..) { r with todo := ts } hr
      rw [e]
      exact ih _ hr hp (fun x hx => ht x (List.mem_cons_of_mem _ hx))
    | nil =>
      unfold Run.settle
      rw [h]
      dsimp only
      rw [hp]
      exact hr

/-- A command's effect is its own change, where each of its consequences changes nothing. -/
theorem State.act_fixed (s : State) (f : Run → Run) (r : Run) (h : f (Run.of s) = r) (hp : r.pass = false)
    (ht : ∀ t ∈ r.todo, ∀ u : Run, u.toParts = r.toParts → u.consequence t = u) : s.act f = s.withRun r := by
  subst h
  unfold State.act State.withRun
  rw [Run.settle_fixed _ _ _ rfl hp ht]

/-- In a calm part, settling dull consequences changes no block's record. -/
theorem Run.settle_dull (n : Nat) (r : Run) (hc : r.toParts.Calm) (hd : ∀ x ∈ r.todo, x.dull r.toParts) :
    (Run.settle n r).toParts = r.toParts := by
  induction n generalizing r with
  | zero => rfl
  | succ n ih =>
    cases ht : r.todo with
    | cons t ts =>
      rw [Run.settle_cons n r t ts ht]
      have hm : ∀ x ∈ r.todo, x.dull r.toParts := hd
      rw [ht] at hm
      have h := Run.consequence_dull { r with todo := ts } t hc (hm t (List.mem_cons_self ..))
        (fun x hx => hm x (List.mem_cons_of_mem _ hx))
      have e : (Run.consequence { r with todo := ts } t).toParts = r.toParts := h.1
      rw [ih _ (by rw [e]; exact hc) (by rw [e]; exact h.2), e]
    | nil =>
      unfold Run.settle
      rw [ht]
      dsimp only
      split
      · have h := Run.dispatch_calm { r with pass := false, todo := [] } hc
        have e : (Run.dispatch { r with pass := false, todo := [] }).toParts = r.toParts := h.1
        rw [ht] at *
        rw [ih _ (by rw [e]; exact hc) (by rw [h.2]; simp), e]
      · rfl

/-- A command's effect, where its own change leaves a calm part and causes only dull consequences, is its own
change. -/
theorem State.act_dull (s : State) (f : Run → Run) (r : Run) (h : f (Run.of s) = r) (hc : r.toParts.Calm)
    (hd : ∀ x ∈ r.todo, x.dull r.toParts) : s.act f = s.withRun r := by
  subst h
  unfold State.act State.withRun
  rw [Run.settle_dull _ _ hc hd]

/-- The same, where the first thing caused is not dull. -/
theorem State.act_then_dull (s : State) (f : Run → Run) (r r' : Run) (t : Todo) (ts : List Todo) (h : f (Run.of s) = r)
    (ht : r.todo = t :: ts) (hr : Run.consequence { r with todo := ts } t = r') (hc : r'.toParts.Calm)
    (hd : ∀ x ∈ r'.todo, x.dull r'.toParts) : s.act f = s.withRun r' := by
  subst h
  unfold State.act State.withRun
  have hf : fuel = 999999 + 1 := rfl
  rw [hf, Run.settle_cons 999999 _ t ts ht, hr, Run.settle_dull _ _ hc hd]

end Sys2Proof.Machine
end

