-- ==== Sys2Proof/Laws/Place.lean ====
section
/-! SUPPORT. Laws/Place.lean: what the placing of a burn job's pair need does to the claims for burning that stand on the
drives (R106), when an exchange leaves a running job's need unplaced (R106), and that the job then keeps every drive it
holds (R106, R111). -/

namespace Sys2Proof.Machine

/-! ### Claims for burning -/

/-- The assignment record of a drive is read from the Scheduler's state alone. -/
theorem Run.assignAt_of_sched (r r' : Run) (h : r'.sched = r.sched) (d : Nat) : r'.assignAt d = r.assignAt d := by
  unfold Run.assignAt; rw [h]

/-- A change of an assignment record that leaves its claim leaves every claim. -/
theorem Run.modAssign_claim (r : Run) (d : Nat) (f : Assign → Assign) (hf : ∀ a, (f a).claim = a.claim) (e : Nat) :
    ((r.modAssign d f).assignAt e).claim = (r.assignAt e).claim := by
  unfold Run.assignAt Run.modAssign
  dsimp only
  rw [List.getD_eq_getElem?_getD, List.getD_eq_getElem?_getD, List.getElem?_modify]
  cases r.sched.assigns[e]? with
  | none => split <;> rfl
  | some a =>
    split
    · exact hf a
    · rfl

/-- Placing an order changes nothing of the Scheduler. -/
@[simp] theorem Run.placeOrder_sched (r : Run) (kind : OrderKind) (drive volume : Option Nat) (side : Option Side)
    (cell : Option Nat) (level : Nat) (who : Requester) :
    (r.placeOrder kind drive volume side cell level who).sched = r.sched := by
  unfold Run.placeOrder; dsimp only; split <;> rfl

/-- Asking a drive to unload changes nothing of the Scheduler. -/
@[simp] theorem Run.askUnload_sched (r : Run) (d : Nat) : ((r.askUnload d).2).sched = r.sched := by
  unfold Run.askUnload; split <;> rfl

/-- An EXPORT that looks again at its volume changes nothing of the Scheduler yet. -/
@[simp] theorem Run.exportAgain_sched (r : Run) (d : Nat) : (r.exportAgain d).sched = r.sched := by
  unfold Run.exportAgain; split <;> [rfl; split <;> rfl]

/-- A FLIP of a held drive leaves every claim. -/
theorem Run.flipDrive_claim (r : Run) (job level d e : Nat) :
    ((r.flipDrive job level d).assignAt e).claim = (r.assignAt e).claim := by
  unfold Run.flipDrive
  dsimp only
  rw [Run.assignAt_of_sched _ _ ((Run.askUnload_sched _ _).trans (Run.placeOrder_sched ..))]
  exact r.modAssign_claim d (fun a => { a with flip := some true }) (fun _ => rfl) e

/-- An exchange that begins leaves every claim. -/
theorem Run.beginExchange_claim (r : Run) (d serial : Nat) (side : Side) (job level e : Nat) :
    ((r.beginExchange d serial side job level).assignAt e).claim = (r.assignAt e).claim := by
  have h : ∀ f : Assign → Assign, (∀ a, (f a).claim = a.claim) →
      (((r.exportAgain d).modAssign d f).assignAt e).claim = (r.assignAt e).claim := fun f hf => by
    rw [Run.modAssign_claim _ _ _ hf, Run.assignAt_of_sched _ _ (r.exportAgain_sched d)]
  unfold Run.beginExchange
  dsimp only
  split
  · rw [Run.assignAt_of_sched _ _ (Run.placeOrder_sched ..)]
    exact h _ (fun _ => rfl)
  · rw [Run.assignAt_of_sched _ _ ((Run.askUnload_sched _ _).trans (Run.placeOrder_sched ..))]
    exact h _ (fun _ => rfl)

/-- A burn job that takes a drive leaves every claim for burning that stands, its own and another job's (R106). -/
theorem Run.takePair_claim (r : Run) (j : Job) (serial : Nat) (side : Side) (spot : PairSpot) (d e : Nat) :
    ((r.takePair j serial side spot d).assignAt e).claim = (r.assignAt e).claim := by
  have held := r.modAssign_claim d (fun a => { a.placed j.id with holder := some j.id }) (fun _ => rfl) e
  unfold Run.takePair
  dsimp only
  cases spot with
  | take _ =>
    dsimp only
    split
    · exact held
    · exact (Run.flipDrive_claim ..).trans held
  | exchange => exact (Run.beginExchange_claim ..).trans held
  | cannot => exact held
  | claim _ => exact held
  | fails _ => exact held

/-- Looking again at every drive changes nothing of the Scheduler. -/
@[simp] theorem Run.lookAtDrives_sched (r : Run) : (r.lookAtDrives).sched = r.sched :=
  congrArg (fun p : Parts => p.sched) r.lookAtDrives_toParts

/-- A job's claims end with the placing of its need, and no other job's does (R106). -/
theorem Run.dropClaims_claim (r : Run) (job e : Nat) :
    ((r.dropClaims job).assignAt e).claim =
      if (r.assignAt e).claim = some job then none else (r.assignAt e).claim := by
  unfold Run.dropClaims
  rw [Run.assignAt_of_sched _ _ (Run.lookAtDrives_sched _)]
  unfold Run.assignAt
  dsimp only
  rw [List.getD_eq_getElem?_getD, List.getD_eq_getElem?_getD, List.getElem?_map]
  cases r.sched.assigns[e]? <;> rfl

/-! ### A running job's new need that waits -/

/-- A new pair volume that an exchange made for another need is bringing to a drive leaves the need unplaced (R106). -/
theorem Run.exchangePair_incoming (r : Run) (j : Job) (swaps : List (Nat × Nat)) (x : Nat × Nat) (hx : x ∈ swaps)
    (d : Nat) (hd : r.incomingTo x.2 = some d) : r.exchangePair j swaps = r.unplacePair j swaps := by
  have h : swaps.all (fun x => r.exchangeable x.2) = false := by
    rw [List.all_eq_false]
    exact ⟨x, hx, by simp [Run.exchangeable, hd]⟩
  unfold Run.exchangePair
  dsimp only
  rw [if_neg (fun k => by rw [h] at k; exact Bool.false_ne_true k.1)]

/-- Entering a level queue changes no assignment record. -/
@[simp] theorem Run.enqueueByAge_assigns (r : Run) (job : Nat) : (r.enqueueByAge job).sched.assigns = r.sched.assigns := by
  unfold Run.enqueueByAge
  split
  · rfl
  · dsimp only; split <;> rfl

/-- A job whose state follows its needs keeps every drive it holds. -/
@[simp] theorem Run.refreshJob_assigns (r : Run) (job : Nat) : (r.refreshJob job).sched.assigns = r.sched.assigns := by
  unfold Run.refreshJob
  split
  · rfl
  · dsimp only
    repeat' split
    all_goals first | rfl | exact Run.enqueueByAge_assigns ..

/-- Taking the pair need from the record changes no assignment record. -/
@[simp] theorem Run.needFromRecord_assigns (r : Run) (job : Nat) (placed : Bool) :
    (r.needFromRecord job placed).sched.assigns = r.sched.assigns := by
  unfold Run.needFromRecord; split <;> rfl

/-- A running job whose new need has to wait gives up none of its drives: every assignment record is as it was (R106,
R111). -/
theorem Run.unplacePair_assigns (r : Run) (j : Job) (swaps : List (Nat × Nat)) :
    (r.unplacePair j swaps).sched.assigns = r.sched.assigns := by
  unfold Run.unplacePair
  exact (Run.refreshJob_assigns ..).trans (r.needFromRecord_assigns j.id false)

end Sys2Proof.Machine
end

