-- ==== Sys2Proof/Laws/Records.lean ====
section
/-! SUPPORT. Laws/Records.lean: what the operations that write the frame lists, the ring, the volume records and the
relocation table do to `Parts.RecordsSound`; one lemma for each operation. -/

namespace Sys2Proof.Machine

/-- `Parts.RecordsSound` of the working state of a command. -/
def Run.RecordsSound (r : Run) : Prop := r.toParts.RecordsSound

/-- A working state that agrees with a sound one in every field the invariant reads is sound. -/
theorem Run.sound_of_agrees (r r' : Run) (h : r.RecordsSound) (h1 : r'.path.fairness = r.path.fairness)
    (h2 : r'.slot.producer = r.slot.producer) (h3 : r'.slot.consumer = r.slot.consumer)
    (h4 : r'.slot.reserved = r.slot.reserved) (h5 : r'.sched.suspended = r.sched.suspended)
    (h6 : serialsOf r'.store.volumes = serialsOf r.store.volumes)
    (h7 : oldLocationsOf r'.store.relocs = oldLocationsOf r.store.relocs) (h8 : r'.frame.frames = r.frame.frames)
    (h9 : r'.frame.emptyList = r.frame.emptyList) (h10 : r'.frame.reclaim = r.frame.reclaim) : r'.RecordsSound := by
  unfold Run.RecordsSound Parts.RecordsSound SlotUnit.unread FrameUnit.ListsSound at *
  rw [h1, h2, h3, h4, h5, h6, h7, h8, h9, h10]; exact h

/-- A fold keeps the records sound when each of its steps does. -/
theorem foldl_sound {α} (g : Run → α → Run) (l : List α) (r : Run) (h : r.RecordsSound)
    (k : ∀ r a, Run.RecordsSound r → Run.RecordsSound (g r a)) : (l.foldl g r).RecordsSound := by
  induction l generalizing r with
  | nil => exact h
  | cons a l ih => exact ih _ (k _ _ h)

/-- Changing a volume record keeps the records sound when it keeps the serial. -/
theorem Run.modVolume_sound (r : Run) (serial : Nat) (f : Volume → Volume) (h : r.RecordsSound)
    (hf : ∀ v, (f v).serial = v.serial) : (r.modVolume serial f).RecordsSound := by
  refine Run.sound_of_agrees r _ h rfl rfl rfl rfl rfl ?_ rfl rfl rfl rfl
  unfold Run.modVolume serialsOf
  simp only
  induction r.store.volumes with
  | nil => rfl
  | cons o l ih =>
    cases o with
    | none => simpa using ih
    | some v =>
      by_cases hv : v.serial = serial
      · simp only [List.map_cons, hv, if_true, List.filterMap_cons, Option.map_some, hf]
        rw [← hv]; rw [hv]; simpa [hv] using ih
      · simp only [List.map_cons, hv, if_false, List.filterMap_cons, Option.map_some]
        simpa using ih

/-- Taking a notice keeps the records sound: it takes a position only where one is left (R57). -/
theorem Run.notice_sound (r : Run) (n : Notice) (h : r.RecordsSound) : (r.notice n).RecordsSound := by
  unfold Run.notice
  split
  · unfold SlotUnit.takeNotice
    split
    · rename_i hl
      obtain ⟨a, b, c, d, e, f⟩ := h
      refine ⟨a, b, c, ?_, e, f⟩
      show r.slot.unread + (r.slot.reserved ++ [false]).length ≤ 63
      simp only [List.length_append, List.length_singleton]
      omega
    · exact h
  · split <;> exact h

/-- Counting a violation keeps the records sound. -/
theorem Run.violation_sound (r : Run) (m a : Nat) (x : Reason) (h : r.RecordsSound) :
    (r.violation m a x).RecordsSound := by
  unfold Run.violation
  apply Run.notice_sound
  refine Run.sound_of_agrees r _ h ?_ rfl rfl rfl rfl rfl rfl rfl rfl rfl
  show (r.path.countViolation _).fairness = _
  cases (r.settings.agent m).cls <;> rfl

/-- A new serial in one place leaves the serials distinct. -/
theorem serials_set (l : List (Option Volume)) (i : Nat) (n : Nat) (v : Volume) (hv : v.serial = n)
    (hn : n ∉ serialsOf l) (h : (serialsOf l).Nodup) : (serialsOf (l.set i (some v))).Nodup := by
  induction l generalizing i with
  | nil => exact h
  | cons o l ih =>
    have hsub : (serialsOf l).Nodup ∧ n ∉ serialsOf l := by
      unfold serialsOf at *
      cases o with
      | none => exact ⟨by simpa using h, by simpa using hn⟩
      | some w => simp at h hn; exact ⟨h.2, by simpa using hn.2⟩
    cases i with
    | zero =>
      show (serialsOf (some v :: l)).Nodup
      unfold serialsOf at *
      rw [List.filterMap_cons]
      simp only [Option.map_some, List.nodup_cons]
      exact ⟨by rw [hv]; exact hsub.2, hsub.1⟩
    | succ i =>
      show (serialsOf (o :: l.set i (some v))).Nodup
      have hi := ih i hsub.2 hsub.1
      have hm : ∀ x, x ∈ serialsOf (l.set i (some v)) → x = n ∨ x ∈ serialsOf l := by
        intro x hx
        unfold serialsOf at hx ⊢
        rw [List.mem_filterMap] at hx ⊢
        obtain ⟨o', ho', hox⟩ := hx
        rcases List.mem_or_eq_of_mem_set ho' with h1 | h1
        · exact Or.inr ⟨o', h1, hox⟩
        · subst h1; simp at hox; exact Or.inl (hox.symm.trans hv)
      unfold serialsOf at *
      cases o with
      | none => simpa using hi
      | some w =>
        simp only [List.filterMap_cons, Option.map_some, List.nodup_cons] at h hn ⊢
        refine ⟨fun hw => ?_, hi⟩
        rcases hm _ hw with h1 | h1
        · exact hn (by rw [h1]; simp)
        · exact h.1 h1

/-- A serial that no record answers to is not among the serials. -/
theorem serials_not_recorded (r : Run) (n : Nat) (h : r.volume n = none) : n ∉ serialsOf r.store.volumes := by
  unfold Run.volume Store.volume at h
  unfold serialsOf
  rw [List.mem_filterMap]
  rintro ⟨o, ho, hm⟩
  cases o with
  | none => cases hm
  | some v =>
    have : v.serial = n := Option.some.inj hm
    have h2 : (r.store.volumes.find? (fun o => match o with | some v => v.serial == n | none => false)) = none ∨
        (r.store.volumes.find? (fun o => match o with | some v => v.serial == n | none => false)) = some none := by
      cases hx : r.store.volumes.find? (fun o => match o with | some v => v.serial == n | none => false) with
      | none => exact Or.inl rfl
      | some y => cases y with
        | none => exact Or.inr rfl
        | some z => exfalso; erw [hx] at h; cases h
    rcases h2 with h2 | h2
    · have := List.find?_eq_none.1 h2 _ ho
      simp_all
    · have := List.find?_some h2
      simp at this

/-- A serial that has no location is not among the serials. -/
theorem serials_not_located (r : Run) (n : Nat) (h : r.locOf n = none) : n ∉ serialsOf r.store.volumes := by
  apply serials_not_recorded
  unfold Run.locOf at h
  cases hv : r.volume n with
  | none => rfl
  | some v => rw [hv] at h; cases h

/-- A record made for a serial not yet recorded keeps the records sound. -/
theorem Run.createVolume_sound (r : Run) (n : Nat) (b : Bool) (l : Loc) (h : r.RecordsSound)
    (hn : n ∉ serialsOf r.store.volumes) : (r.createVolume n b l).RecordsSound := by
  have key : ∀ i, Run.RecordsSound { r with
      store := { r.store with volumes := r.store.volumes.set i (some (Volume.fresh n b l)) } } := by
    intro i
    obtain ⟨a1, a2, a3, a4, a5, a6⟩ := h
    exact ⟨a1, a2, a3, a4, a5, serials_set _ _ _ _ rfl hn a6.1, a6.2⟩
  unfold Run.createVolume
  split
  · exact key _
  · split
    · exact h
    · split
      · exact h
      · exact key _

/-- Removing entries of the suspension list keeps the records sound. -/
theorem Run.keepEntries_sound (r : Run) (p) (h : r.RecordsSound) : (r.keepEntries p).RecordsSound := by
  obtain ⟨a1, a2, a3, a4, a5, a6⟩ := h
  refine ⟨a1, a2, a3, a4, ?_, a6⟩
  exact Nat.le_trans (List.length_filter_le _ _) a5

/-- The watch over the BLANK count keeps the records sound: it only takes a notice. -/
theorem Run.blankWatch_sound (r : Run) (n : Nat) (h : r.RecordsSound) : (Run.blankWatch n r).RecordsSound := by
  unfold Run.blankWatch
  split
  · exact Run.notice_sound _ _ h
  · exact h

/-- Removing a volume record keeps the records sound. -/
theorem Run.removeVolume_sound (r : Run) (n : Nat) (h : r.RecordsSound) : (r.removeVolume n).RecordsSound := by
  obtain ⟨a1, a2, a3, a4, a5, a6⟩ := h
  unfold Run.removeVolume
  show Run.RecordsSound (Run.blankWatch _ _)
  apply Run.blankWatch_sound
  refine ⟨a1, a2, a3, a4, a5, ?_, a6.2⟩
  refine List.Nodup.sublist ?_ a6.1
  unfold serialsOf
  simp only
  induction r.store.volumes with
  | nil => exact .slnil
  | cons o l ih =>
    cases o with
    | none => simpa using ih
    | some v =>
      by_cases hv : v.serial = n
      · simp only [List.map_cons, hv, if_true, List.filterMap_cons, Option.map_some, Option.map_none]
        exact List.Sublist.cons _ (by simpa [hv] using ih)
      · simp only [List.map_cons, hv, if_false, List.filterMap_cons, Option.map_some]
        exact List.Sublist.cons_cons _ (by simpa [hv] using ih)

/-- A change of a volume record that keeps the serial, with the watch over the BLANK count, keeps the records
sound. -/
theorem Run.claimVolume_sound (r : Run) (n : Nat) (f : Volume → Volume) (h : r.RecordsSound)
    (hf : ∀ v, (f v).serial = v.serial) : (r.claimVolume n f).RecordsSound :=
  Run.blankWatch_sound _ _
    (Run.modVolume_sound _ _ _ h hf)

/-- A change of a side keeps the serial. -/
theorem Volume.modSide_serial (v : Volume) (s : Side) (f) : (v.modSide s f).serial = v.serial := by cases s <;> rfl

/-- An entry with an old location not yet recorded, or with that of the entry it replaces, leaves the old locations
distinct. -/
theorem oldLocations_set (l : List RelocEntry) (i : Nat) (e : RelocEntry) (h : (oldLocationsOf l).Nodup)
    (he : ∀ o, e.oldLocation = some o → o ∉ oldLocationsOf l ∨ (l[i]?).bind RelocEntry.oldLocation = some o) :
    (oldLocationsOf (l.set i e)).Nodup := by
  induction l generalizing i with
  | nil => exact h
  | cons a l ih =>
    have hl : (oldLocationsOf l).Nodup := by
      refine List.Nodup.sublist ?_ h
      unfold oldLocationsOf
      exact List.Sublist.filterMap _ (List.sublist_cons_self _ _)
    cases i with
    | zero =>
      show (oldLocationsOf (e :: l)).Nodup
      unfold oldLocationsOf at *
      rw [List.filterMap_cons]
      cases ho : e.oldLocation with
      | none => exact hl
      | some o =>
        simp only [List.nodup_cons]
        refine ⟨?_, hl⟩
        rcases he o ho with h1 | h1
        · intro hm; apply h1; rw [List.filterMap_cons]; split
          · exact hm
          · exact List.mem_cons_of_mem _ hm
        · have : a.oldLocation = some o := by simpa using h1
          rw [List.filterMap_cons, this, List.nodup_cons] at h
          exact h.1
    | succ i =>
      show (oldLocationsOf (a :: l.set i e)).Nodup
      have hi : (oldLocationsOf (l.set i e)).Nodup := by
        apply ih i hl
        intro o ho
        rcases he o ho with h1 | h1
        · left; intro hm; apply h1
          unfold oldLocationsOf at *
          rw [List.filterMap_cons]; split
          · exact hm
          · exact List.mem_cons_of_mem _ hm
        · right; simpa using h1
      unfold oldLocationsOf at *
      rw [List.filterMap_cons] at h ⊢
      cases hao : a.oldLocation with
      | none => simp only; exact hi
      | some x =>
        rw [hao] at h
        simp only [List.nodup_cons] at h ⊢
        refine ⟨?_, hi⟩
        intro hm
        rw [List.mem_filterMap] at hm
        obtain ⟨y, hy, hyx⟩ := hm
        rcases List.mem_or_eq_of_mem_set hy with h2 | h2
        · exact h.1 (List.mem_filterMap.2 ⟨y, h2, hyx⟩)
        · subst h2
          rcases he x hyx with h3 | h3
          · apply h3; rw [List.filterMap_cons, hao]; exact List.mem_cons_self
          · have h3' : (l[i]?).bind RelocEntry.oldLocation = some x := by simpa using h3
            cases hg : l[i]? with
            | none => rw [hg] at h3'; cases h3'
            | some z =>
              rw [hg] at h3'
              exact h.1 (List.mem_filterMap.2 ⟨z, List.mem_of_getElem? hg, h3'⟩)

/-- Such an entry keeps the records sound. -/
theorem Run.setReloc_sound (r : Run) (i : Nat) (e : RelocEntry) (h : r.RecordsSound)
    (he : ∀ o, e.oldLocation = some o → o ∉ oldLocationsOf r.store.relocs ∨
      (r.store.relocs[i]?).bind RelocEntry.oldLocation = some o)
    : (r.setReloc i e).RecordsSound := by
  obtain ⟨a1, a2, a3, a4, a5, a6, a7, a8⟩ := h
  exact ⟨a1, a2, a3, a4, a5, a6, oldLocations_set _ _ _ a7 he, a8⟩

/-- An entry made FREE keeps the records sound. -/
theorem Run.setReloc_free_sound (r : Run) (i) (h : r.RecordsSound) : (r.setReloc i .free).RecordsSound :=
    Run.setReloc_sound _ _ _ h (by intro o ho; cases ho)

/-- A frame that is not EMPTY has a record and a number above 0. -/
theorem Run.frameAt_pos (r : Run) (n : Nat) (h : r.frameAt n ≠ .empty) : 0 < n ∧ r.frame.frames[n-1]? = some
    (r.frameAt n) := by
  unfold Run.frameAt at h ⊢
  split at h
  · exact absurd rfl h
  · rename_i hn
    refine ⟨Nat.pos_of_ne_zero hn, ?_⟩
    rw [if_neg hn]
    rw [List.getD_eq_getElem?_getD] at h ⊢
    cases hg : r.frame.frames[n-1]? with
    | none => rw [hg] at h; exact absurd rfl h
    | some f => rfl

/-- A frame that is not SEALED without holds is not in the reclaim list. -/
theorem Run.not_reclaimed (r : Run) (n : Nat) (h : r.RecordsSound) (hi : ¬ (r.frameAt n).SealedUnheld) : n ∉
    r.frame.reclaim := by
  intro hm
  obtain ⟨h0, f, hf, hid⟩ := h.2.2.2.2.2.2.2.2.2.2 n hm
  apply hi
  unfold Run.frameAt
  rw [if_neg (by omega), List.getD_eq_getElem?_getD, hf]
  exact hid

/-- A change of a frame that is not EMPTY to one that is not EMPTY keeps the frame lists sound, when the frame
is not in the reclaim list or stays SEALED without holds. -/
theorem listsSound_set (u : FrameUnit) (n : Nat) (f g : Frame) (h : u.ListsSound) (h0 : 0 < n)
    (hg : u.frames[n-1]? = some g) (hge : g ≠ .empty) (hf : f ≠ .empty) (hi : n ∉ u.reclaim ∨ f.SealedUnheld) :
    FrameUnit.ListsSound { u with frames := u.frames.set (n - 1) f } := by
  obtain ⟨a, b, c, d⟩ := h
  have hl : n - 1 < u.frames.length := (List.getElem?_eq_some_iff.1 hg).1
  refine ⟨a, ?_, c, ?_⟩
  · intro m
    show m ∈ u.emptyList ↔ 0 < m ∧ (u.frames.set (n-1) f)[m-1]? = _
    rw [b m, List.getElem?_set]
    by_cases hm : n - 1 = m - 1
    · rw [if_pos hm, if_pos hl, ← hm, hg]
      simp [hge, hf]
    · rw [if_neg hm]
  · intro m hm
    obtain ⟨h1, x, hx, hid⟩ := d m hm
    refine ⟨h1, ?_⟩
    show ∃ y, (u.frames.set (n-1) f)[m-1]? = some y ∧ _
    rw [List.getElem?_set]
    by_cases hnm : n - 1 = m - 1
    · rw [if_pos hnm, if_pos hl]
      have : n = m := by omega
      subst this
      rcases hi with hi | hi
      · exact absurd hm hi
      · exact ⟨f, rfl, hi⟩
    · rw [if_neg hnm]; exact ⟨x, hx, hid⟩

/-- The same for the working state. -/
theorem Run.setFrame_sound (r : Run) (n : Nat) (f : Frame) (h : r.RecordsSound) (he : r.frameAt n ≠ .empty)
    (hf : f ≠ .empty) (hi : ¬ (r.frameAt n).SealedUnheld ∨ f.SealedUnheld) : (r.setFrame n f).RecordsSound := by
  obtain ⟨h0, hg⟩ := Run.frameAt_pos r n he
  have hr : n ∉ r.frame.reclaim ∨ f.SealedUnheld := hi.imp (Run.not_reclaimed r n h) id
  obtain ⟨a1, a2, a3, a4, a5, a6, a7, a8⟩ := h
  unfold Run.setFrame
  rw [if_neg (by omega)]
  exact ⟨a1, a2, a3, a4, a5, a6, a7, listsSound_set _ _ _ _ a8 h0 hg he hf hr⟩

/-- An ascending insertion keeps a list ascending. -/
theorem sorted_insertUp (a : Nat) (l : List Nat) (h : l.Pairwise (· < ·)) : (insertUp a l).Pairwise (· < ·) := by
  induction l with
  | nil => simp [insertUp]
  | cons b l ih =>
    rw [List.pairwise_cons] at h
    unfold insertUp
    split
    · rename_i hab
      rw [List.pairwise_cons]
      refine ⟨?_, List.pairwise_cons.2 h⟩
      intro x hx
      rcases List.mem_cons.1 hx with rfl | hx
      · exact hab
      · exact Nat.lt_trans hab (h.1 x hx)
    · split
      · exact List.pairwise_cons.2 h
      · rw [List.pairwise_cons]
        refine ⟨?_, ih h.2⟩
        intro x hx
        rcases (mem_insertUp a x l).1 hx with rfl | hx
        · omega
        · exact h.1 x hx

/-- A frame that becomes EMPTY joins the empty list, and the records stay sound. -/
theorem Run.emptyFrame_sound (r : Run) (n : Nat) (h : r.RecordsSound) (he : r.frameAt n ≠ .empty)
    (hi : ¬ (r.frameAt n).SealedUnheld) : (r.emptyFrame n).RecordsSound := by
  obtain ⟨h0, hg⟩ := Run.frameAt_pos r n he
  have hr := Run.not_reclaimed r n h hi
  obtain ⟨a1, a2, a3, a4, a5, a6, a7, a, b, c, d⟩ := h
  have hl : n - 1 < r.frame.frames.length := (List.getElem?_eq_some_iff.1 hg).1
  unfold Run.emptyFrame Run.setFrame
  rw [if_neg (by omega)]
  refine ⟨a1, a2, a3, a4, a5, a6, a7, sorted_insertUp _ _ a, ?_, c, ?_⟩
  · intro m
    show m ∈ insertUp n r.frame.emptyList ↔ 0 < m ∧ (r.frame.frames.set (n-1) .empty)[m-1]? = _
    rw [mem_insertUp, b m, List.getElem?_set]
    by_cases hm : n - 1 = m - 1
    · rw [if_pos hm, if_pos hl]
      constructor
      · rintro (rfl | ⟨h1, _⟩)
        · exact ⟨h0, rfl⟩
        · exact ⟨h1, rfl⟩
      · rintro ⟨h1, _⟩; left; omega
    · rw [if_neg hm]
      constructor
      · rintro (rfl | h1)
        · exact absurd rfl hm
        · exact h1
      · exact Or.inr
  · intro m hm
    obtain ⟨h1, x, hx, hid⟩ := d m hm
    refine ⟨h1, ?_⟩
    show ∃ y, (r.frame.frames.set (n-1) .empty)[m-1]? = some y ∧ _
    rw [List.getElem?_set, if_neg]
    · exact ⟨x, hx, hid⟩
    · intro hnm
      have : n = m := by omega
      subst this
      exact hr hm

/-- The reclaim test keeps the records sound. -/
theorem Run.checkReclaim_sound (r : Run) (n : Nat) (h : r.RecordsSound) : (r.checkReclaim n).RecordsSound := by
  unfold Run.checkReclaim
  split
  · rename_i t i d c heq
    split
    · rename_i hn
      obtain ⟨h0, hg⟩ := Run.frameAt_pos r n (by rw [heq]; intro h; cases h)
      obtain ⟨a1, a2, a3, a4, a5, a6, a7, a, b, cc, dd⟩ := h
      refine ⟨a1, a2, a3, a4, a5, a6, a7, a, b, ?_, ?_⟩
      · exact List.Nodup.append cc (by simp) (by simp [List.disjoint_singleton]; exact hn.2)
      · intro m hm
        rcases List.mem_append.1 hm with hm | hm
        · exact dd m hm
        · have : m = n := by simpa using hm
          subst this
          exact ⟨h0, _, hg, by rw [heq]; exact ⟨_, _, _, _, rfl⟩⟩
    · exact h
  · exact h

/-- A hold taken keeps the records sound: the frame leaves the reclaim list. -/
theorem Run.addHold_sound (r : Run) (n : Nat) (x : Holder) (h : r.RecordsSound) : (r.addHold n x).RecordsSound := by
  have key : ∀ u : Run, u.RecordsSound → n ∉ u.frame.reclaim → u.RecordsSound := fun _ h _ => h
  unfold Run.addHold
  dsimp only
  have hfilt : ∀ u : Run, u.RecordsSound → Run.RecordsSound { u with
      frame := { u.frame with reclaim := u.frame.reclaim.filter (fun m => m != n) } } := by
    intro u h
    obtain ⟨a1, a2, a3, a4, a5, a6, a7, a, b, cc, dd⟩ := h
    exact ⟨a1, a2, a3, a4, a5, a6, a7, a, b, cc.filter _, fun m hm => dd m (List.mem_of_mem_filter hm)⟩
  split
  · exact hfilt _ h
  · by_cases he : r.frameAt n = .empty
    · have : r.setFrame n ((r.frameAt n).withHolders ((r.frameAt n).holders ++ [x])) = r := by
        rw [he]
        show r.setFrame n .empty = r
        unfold Run.setFrame
        split
        · rfl
        · rename_i hn
          unfold Run.frameAt at he
          rw [if_neg hn, List.getD_eq_getElem?_getD] at he
          have : r.frame.frames.set (n-1) .empty = r.frame.frames := by
            apply List.ext_getElem?
            intro k
            rw [List.getElem?_set]
            by_cases hk : n - 1 = k
            · rw [if_pos hk, ← hk]
              split
              · rename_i hl
                rw [List.getElem?_eq_getElem hl] at he ⊢
                exact congrArg some he.symm
              · rename_i hl
                rw [List.getElem?_eq_none (by omega)]
            · rw [if_neg hk]
          rw [this]
      rw [this]
      exact hfilt _ h
    · obtain ⟨h0, hg⟩ := Run.frameAt_pos r n he
      have hne : (r.frameAt n).withHolders ((r.frameAt n).holders ++ [x]) ≠ .empty := by
        cases hq : r.frameAt n <;> simp_all [Frame.withHolders]
      obtain ⟨a1, a2, a3, a4, a5, a6, a7, a8⟩ := h
      have hs : FrameUnit.ListsSound { r.frame with reclaim := r.frame.reclaim.filter (fun m => m != n) } := by
        obtain ⟨a, b, cc, dd⟩ := a8
        exact ⟨a, b, cc.filter _, fun m hm => dd m (List.mem_of_mem_filter hm)⟩
      have := listsSound_set _ n _ _ hs h0 hg he hne (Or.inl (by simp))
      unfold Run.setFrame
      rw [if_neg (by omega)]
      exact ⟨a1, a2, a3, a4, a5, a6, a7, this⟩

end Sys2Proof.Machine
end

