-- ==== Sys2Proof/Tests/Slice0.lean ====
section
/-! SUPPORT. Tests/Slice0.lean: an ill-formed command for each check of WellFormed, and, for each statement of
Certificates/Slice0/Obligations.lean that has premises, a state and operands that meet them all. -/

namespace Sys2Proof.Tests

open Sys2Proof.Machine Sys2Proof.Config

/-! ### Commands that WellFormed refuses -/

/-- A transfer of one word of frame 0. -/
def oneWord : Transfer := { master := 0, write := false, addr := 512, len := 4, data := [] }

theorem test_wf_transfer : (Instr.systemTransfer oneWord).wf = true := by decide
theorem test_ill_master : (Instr.systemTransfer { oneWord with master := 16 }).wf = false := by decide
theorem test_ill_alignment : (Instr.systemTransfer { oneWord with addr := 514 }).wf = false := by decide
theorem test_ill_partWord : (Instr.systemTransfer { oneWord with len := 6 }).wf = false := by decide
theorem test_ill_empty : (Instr.systemTransfer { oneWord with len := 0 }).wf = false := by decide
theorem test_ill_block : (Instr.systemTransfer { oneWord with addr := 540, len := 8 }).wf = false := by decide
theorem test_ill_window : (Instr.systemTransfer { oneWord with addr := 67108864 }).wf = false := by decide
theorem test_ill_writeData : (Instr.systemTransfer { oneWord with write := true }).wf = false := by decide
theorem test_ill_readData : (Instr.systemTransfer { oneWord with data := [1, 2, 3, 4] }).wf = false := by decide
theorem test_ill_checkResults :
    (Instr.controlAreaCheckDone (.mismatch 131072)).wf = false ∧
      (Instr.controlAreaCheckDone (.parity 131072)).wf = false := by decide
theorem test_ill_claimRead : (Instr.claimRead 16 0).wf = false ∧ (Instr.claimRead 0 64).wf = false := by decide
theorem test_ill_post : (Instr.post 16 0).wf = false ∧ (Instr.post 0 64).wf = false := by decide
theorem test_ill_releaseClaim : (Instr.releaseClaim 16 0).wf = false ∧ (Instr.releaseClaim 0 64).wf = false := by decide
theorem test_ill_releaseSlot : (Instr.releaseSlot 16 0).wf = false ∧ (Instr.releaseSlot 0 64).wf = false := by decide
theorem test_ill_cancel : (Instr.cancel 16 0).wf = false ∧ (Instr.cancel 0 64).wf = false := by decide
theorem test_ill_stateWordRefused :
    (Instr.stateWordRefused 16 0 0).wf = false ∧ (Instr.stateWordRefused 0 64 0).wf = false ∧
      (Instr.stateWordRefused 0 0 4294967296).wf = false := by decide
theorem test_ill_consumerIndexWrite :
    (Instr.consumerIndexWrite 16 0).wf = false ∧ (Instr.consumerIndexWrite 0 4294967296).wf = false := by decide
theorem test_ill_probes :
    (Instr.importProbeResult (.strip 0 false)).wf = false ∧
      (Instr.probeResult (.strip 4294967296 false)).wf = false := by decide
theorem test_ill_handOffCells : (Instr.handoffPlaced 2).wf = false ∧ (Instr.handoffTaken 2).wf = false := by decide
theorem test_ill_loads :
    (Instr.loadComplete 4 none).wf = false ∧ (Instr.powerUpLoadComplete 4 none).wf = false ∧
      (Instr.loadComplete 0 (some (.platter 0 false .a .unwritten))).wf = false := by decide
theorem test_ill_labelSector :
    (Instr.powerUpLoadComplete 0 (some (.platter 1 false .a (.bytes false (List.replicate 1025 0))))).wf = false := by
  decide +kernel
theorem test_ill_findWritePoint :
    (Instr.findWritePointComplete 4 none).wf = false ∧
      (Instr.findWritePointComplete 0 (some 524289)).wf = false := by decide
theorem test_ill_readComplete :
    (Instr.readComplete 4 none).wf = false ∧
      (Instr.readComplete 0 (some (List.replicate 130 { report := .clean, data := [] }))).wf = false ∧
      (Instr.readComplete 0 (some [{ report := .syndrome 0, data := [] }])).wf = false := by decide +kernel
theorem test_ill_rereadComplete :
    (Instr.rereadComplete 4 none).wf = false ∧
      (Instr.rereadComplete 0 (some { report := .syndrome 4294967296, data := [] })).wf = false ∧
      (Instr.rereadComplete 0 (some { report := .clean, data := List.replicate 1025 0 })).wf = false := by
  decide +kernel
theorem test_ill_relocationJobHit :
    (Instr.relocationJobHit 0).wf = false ∧ (Instr.relocationJobHit 512).wf = false := by decide
theorem test_ill_drives :
    (Instr.bufferLoaded 4 []).wf = false ∧ (Instr.burnComplete 4 true).wf = false ∧
      (Instr.verifyComplete 4 .pass).wf = false ∧ (Instr.unloadComplete 4 true).wf = false ∧
      (Instr.restoreComplete 4 none).wf = false ∧ (Instr.driveTimeout 4).wf = false := by decide
theorem test_ill_port : (Instr.sweepIdleExpiry 8).wf = false := by decide

/-- No row of the table gives bits, so no word spells a command. -/
theorem test_noWordSpellsACommand : decodeTableWord 32 0xFFFFFFFF = none := rfl

/-! ### The states the witnesses are made from -/

/-- A volume in a place. -/
def vol (n : Nat) (role : Role) (loc : Loc) : Volume :=
  { serial := n, role := role, partner := none, pairClosed := none, loc := loc, home := none, missingOrder := none,
    sideA := { writePoint := 0, confirmed := false, full := false, corrected := 0 },
    sideB := { writePoint := 0, confirmed := false, full := false, corrected := 0 } }

/-- The part past its start-up sequence with nothing to do. -/
def up : State :=
  { State.reset with
    startup := { StartUp.start false with stage := .done, started := true, loadsIssued := true },
    drives := List.replicate 4 { Drive.start with state := .empty, loadFor := .mount } }

/-- The part without main power. -/
def off : State := { State.reset with startup := { StartUp.start false with stage := .off } }

/-- `up` with the volumes of a list. -/
def upVols (vs : List Volume) : State := { up with store := { up.store with volumes := vs.map some } }

/-- `up` with a slot record. -/
def upSlot (n : Nat) (x : SlotRec) : State := up.withSlot n (fun _ => x)

/-- `up` with a frame record. -/
def upFrame (n : Nat) (f : Frame) : State :=
  { up with frame := { up.frame with frames := up.frame.frames.set (n - 1) f } }

/-- A move that begins at the present. -/
def move (what : MoveFor) (dest : Option Place) (c : Carried) : Move :=
  { what := what, startedAt := 0, src := none, dest := dest, carried := c, probed := false, strip := none }

/-- A state with a move in progress. -/
def moved (s : State) (m : Move) : State := { s with picker := { s.picker with state := .moving, move := some m } }

/-- An order that nobody waits for. -/
def order (kind : OrderKind) (drive volume : Option Nat) (side : Option Side) (cell : Option Nat) : Order :=
  { kind := kind, drive := drive, volume := volume, side := side, cell := cell, level := 3, number := 1,
    requester := .nobody }

/-- A link command issued at the present. -/
def issued (c : Command) : Issued :=
  { command := c, buf := 0, start := 0, count := 1, pos := 0, issuedAt := 0, discard := false }

theorem up_calm : up.toParts.Calm :=
  ⟨rfl, rfl, rfl, rfl, rfl, rfl, rfl, rfl, fun _ h => (List.not_mem_nil h).elim, rfl, rfl⟩

theorem up_quiet : up.Quiet := ⟨up_calm, rfl, rfl, rfl, rfl, fun h => HatchState.noConfusion h⟩

/-! ### Premises of the statements on the queue, the clock, power and reset -/

theorem test_stepRunsTheCommandInFront_met :
    ({ up with pending := [.portGrant] } : State).pending = .portGrant :: [] ∧ up.pending = [] := ⟨rfl, rfl⟩

theorem test_everyStep_met : State.reset.Canonical ∧ ∃ t, step State.reset = .next t := ⟨rfl, _, rfl⟩

/-- One image frame, EMPTY and in the empty list. -/
def oneFrame : Parts :=
  { up.toParts with frame := { frames := [.empty], emptyList := [1], reclaim := [], waitQueue := [] } }

theorem test_recordsSound_met : oneFrame.RecordsSound :=
  ⟨by decide, by decide, by decide, by decide, by decide, by decide, by decide, by decide, fun n =>
    match n with
    | 0 => by decide
    | 1 => by decide
    | n + 2 => ⟨fun h => absurd (List.mem_singleton.1 h) (by omega), fun h => nomatch h.2⟩,
    List.nodup_nil, fun n h => (List.not_mem_nil h).elim⟩

theorem test_anyCommand_met :
    (∃ t, exec .hatchButton up = .next t) ∧ (∃ t, exec (.mainPowerLoss .kept) up = .next t) ∧
      (∃ t, exec .systemReset up = .next t) ∧ up.recordInPort = false ∧
      Instr.hatchButton ≠ .settingsWriteDone :=
  ⟨⟨_, rfl⟩, ⟨_, rfl⟩, ⟨_, rfl⟩, rfl, by decide⟩

theorem test_withoutMainPower_met : off.Unpowered ∧ Instr.hatchButton.wf = true ∧ off.startup.stage = .off :=
  ⟨rfl, rfl, rfl⟩

/-- A settings record with threshold 4 and an idle limit of 30 s. -/
def settingsRecord : List Byte :=
  [0, 0, 0, 4, 44, 1, 0, 0] ++ List.replicate 128 0 ++ [212, 254, 255, 251]

theorem test_powerUp_met :
    settingsGood settingsRecord = true ∧ (settingsOf settingsRecord).idleLimit = 300 ∧
      settingsGood (settingsRecord.set 3 17) = false := by decide +kernel

/-- The check in hand, over a GOOD store with a filing pair record. -/
def checking (p : PairRec) : State := { State.reset with store := { State.reset.store with retention := true, pair := p } }

theorem test_controlAreaCheck_met :
    State.reset.startup.stage = .checking ∧ (Instr.controlAreaCheckDone (.mismatch 131071)).wf = true ∧
      State.reset.store.good = false ∧ (checking .absent).store.good = true ∧
      (checking (.active 7 8 .b)).store.good = true ∧ (checking (.active 7 8 .b)).store.pair = .active 7 8 .b ∧
      (checking (.establishing 7 8 .a true false)).store.pair = .establishing 7 8 .a true false ∧
      (checking (.closing 7 8 .a .request)).store.pair = .closing 7 8 .a .request ∧
      (checking .absent).startup.stage = .checking := by decide

theorem test_failedMode_met :
    ({ State.reset with startup := { StartUp.start false with stage := .failed } } : State).startup.stage = .failed ∧
      (Instr.handoffPlaced 1).wf = true ∧ Instr.moveEnd.wf = true := by decide

/-- The last start-up write of a power-up holds the port. -/
def lastWrite : State :=
  { State.reset with
    path := { PathUnit.start with port := .mover .startUp .startWrite },
    startup := { StartUp.start false with stage := .drives, initNext := some 72 } }

theorem test_initialization_met :
    lastWrite.startup.stage = .drives ∧ lastWrite.startup.initNext = some 72 ∧
      lastWrite.path.port = .mover .startUp .startWrite ∧ lastWrite.startup.loadsIssued = false ∧
      lastWrite.startup.driveReported = [false, false, false, false] ∧ lastWrite.slot.held = [] ∧
      lastWrite.drives[3]? = some Drive.start := by decide

/-- The last start-up write of a system reset past the start-up sequence. -/
def lastResetWrite : State :=
  { up with
    path := { PathUnit.start with port := .mover .startUp .startWrite },
    startup := { up.startup with initNext := some 72, started := false, cause := .systemReset, settleReported := true } }

theorem test_reinitialization_met :
    lastResetWrite.startup.stage = .done ∧ lastResetWrite.startup.initNext = some 72 ∧
      lastResetWrite.path.port = .mover .startUp .startWrite ∧ lastResetWrite.startup.loadsIssued = true ∧
      lastResetWrite.startup.started = false ∧ lastResetWrite.startup.cause = .systemReset ∧
      lastResetWrite.startup.settleReported = true ∧ lastResetWrite.slot.held = [] ∧ lastResetWrite.toParts.Calm ∧
      (∀ v, some v ∈ (upVols [vol 7 .primary .hand]).store.volumes → v.role ≠ .unverified) := by
  refine ⟨rfl, rfl, rfl, rfl, rfl, rfl, rfl, rfl, up_calm, fun v h => ?_⟩
  have h : v = vol 7 .primary .hand := Option.some.inj (List.mem_singleton.1 h)
  rw [h]
  decide

theorem test_systemReset_met :
    up.startup.stage = .done ∧ lastWrite.startup.stage = .drives ∧ lastWrite.recordInPort = false ∧
      State.reset.startup.stage ≠ .off ∧
      (moved up (move .reHome none .nothing)).picker.move = some (move .reHome none .nothing) := by decide

/-! ### Premises of the statements on the bus -/

theorem up_ready : up.Ready := ⟨rfl, rfl⟩

/-- A slot claimed by master 3, and one whose request has ended. -/
def claimed : SlotRec := { SlotRec.blank with state := .claimed, claimer := some 3 }
def ended : SlotRec := { SlotRec.blank with state := .failed, claimer := some 3 }

/-- A slot whose request is carried out by an operation, and by a job. -/
def operating : SlotRec := { SlotRec.blank with state := .active, claimer := some 3, jobRef := some .operation }
def importing : SlotRec := { SlotRec.blank with state := .accepted, claimer := some 3, jobRef := some (.job 1) }

/-- `up` with master 15 out of the agent table. -/
def unlisted : State := { up with settings := { up.settings with agents := up.settings.agents.set 15 .unlisted } }

theorem test_agents_met :
    up.settings.agent 3 = .processor ∧ up.settings.agent 7 = .scanner 3 ∧ up.settings.agent 15 = .copier 7 ∧
      unlisted.settings.agent 15 = .unlisted := by decide

theorem test_claimRead_met :
    (upSlot 63 claimed).Ready ∧ (up.slotRec 63).state = .free ∧ ((upSlot 63 claimed).slotRec 63).state ≠ .free :=
  ⟨⟨rfl, rfl⟩, by decide, by decide⟩

theorem test_postAndReleaseClaim_met :
    (upSlot 63 claimed).Ready ∧ ((upSlot 63 claimed).slotRec 63).state = .claimed ∧
      ((upSlot 63 claimed).slotRec 63).claimer = some 3 :=
  ⟨⟨rfl, rfl⟩, by decide, by decide⟩

/-- Frame 1 SEALED and held by the request of slot 63. -/
def page : PageInfo := { deedClass := 1, deedSeq := 9, pageIndex := 0, imageLen := 2000 }
def place : Location := { serial := 7, side := .a, sector := 16 }
def held : State :=
  { upFrame 1 (.sealed place page false false [.slot 63]) with
    slot := { up.slot with slots := up.slot.slots.set 63 ended } }

theorem test_releaseSlot_met :
    held.Ready ∧ (held.slotRec 63).state = .failed ∧ held.frame.waitQueue = [] ∧
      (∀ f ∈ held.frame.frames, Holder.slot 63 ∈ f.holders → ∃ tag info d c hs, f = .sealed tag info d c hs) ∧
      (∀ g, some g ∈ held.fee.grants → g.frame.isSome = true → g.slot ≠ 63) := by
  refine ⟨⟨rfl, rfl⟩, by decide, rfl, fun f hf hh => ?_, fun g hg => ?_⟩
  · rcases List.mem_or_eq_of_mem_set hf with h | h
    · rw [List.eq_of_mem_replicate h] at hh
      exact (List.not_mem_nil hh).elim
    · exact ⟨_, _, _, _, _, h⟩
  · have h : some g ∈ List.replicate 512 (none : Option Grant) := hg
    exact (Option.some_ne_none g (List.eq_of_mem_replicate h)).elim

/-- An IMPORT job whose order is in progress, for the request of slot 63. -/
def importJob : Job :=
  { id := 1, kind := .importIn 88, level := 3, age := 1, slot := some 63, state := .running, started := true,
    needs := [], pair := none, pendingPreempt := false, awaited := [], cancelTaken := false }
def importMove : State :=
  { moved (upSlot 63 importing)
      (move (.order { order .importIn none none none (some 88) with requester := .job 1 }) none .nothing) with
    sched := { up.sched with jobs := [importJob] } }

theorem test_cancel_met :
    ((upSlot 63 operating).slotRec 63).state = .active ∧
      ((upSlot 63 operating).slotRec 63).jobRef = some .operation ∧
      ((upSlot 63 { operating with jobRef := none }).slotRec 63).jobRef = none ∧ importMove.Ready ∧
      (importMove.slotRec 63).state = .accepted ∧ (importMove.slotRec 63).jobRef = some (.job 1) ∧
      importMove.sched.jobs.find? (fun j => j.id == 1) = some importJob ∧ importMove.picker.jobMoving 1 = true :=
  ⟨by decide, by decide, by decide, ⟨rfl, rfl⟩, by decide, by decide, by decide, by decide⟩

/-- The request of slot 63 has a job that waits in its level's queue. -/
def queued (j : Job) : State :=
  { upSlot 63 importing with sched := { up.sched with jobs := [j], queues := [[], [], [], [1]] } }
def waitingImport : Job := { importJob with state := .queued }

/-- A FILE of one page, its frame FILING, and a FETCH of one page, with one grant set aside. -/
def fileRecord : BurnJob :=
  { job := 1, slot := some 63, entry := none, deedClass := 1, deedSeq := 9, pageIndex := 0, stamp := [], origin := none,
    pages := [{ frame := 1, imageLen := 2000, attempts := 0, placed := none }], waiting := [.page 0], failing := none }
def waitingFile : State :=
  { queued { waitingImport with kind := .file } with
    filing := { up.filing with burns := [fileRecord] }, frame := (upFrame 1 (.filing none page 3 [.slot 63])).frame }
def fetchRecord : FetchJob :=
  { job := 1, slot := 63, serial := 7, side := .a, specs := [], resolved := true,
    pages := [{ requested := place, candidates := [], way := some .miss, chosen := some place, share := none,
                frame := none, refused := false, code := none }] }
def asideGrant : Grant :=
  { number := 1, order := 1, state := .setAside, slot := 63, page := 0, port := 7, account := 127, kind := .plain,
    copies := 2, charged := 0 }
def waitingFetch : State :=
  { queued { waitingImport with kind := .fetch, state := .waitingMedia } with
    retr := { up.retr with fetches := [fetchRecord] }, fee := { up.fee with grants := [some asideGrant] } }

theorem test_noGrants (g : Grant) : some g ∉ up.fee.grants := fun h =>
  Option.some_ne_none g (List.eq_of_mem_replicate (show some g ∈ List.replicate 512 none from h))

theorem test_cancelWaiting_met :
    (queued waitingImport).Ready ∧ ((queued waitingImport).slotRec 63).jobRef = some (.job waitingImport.id) ∧
      ((queued waitingImport).slotRec 63).outcome = none ∧ 63 < (queued waitingImport).slot.slots.length ∧
      (queued waitingImport).sched.jobs = [waitingImport] ∧ (queued waitingImport).sched.suspended = [] ∧
      (queued waitingImport).sched.assigns = List.replicate 4 Assign.clear ∧
      (queued waitingImport).picker.jobMoving waitingImport.id = false ∧ waitingImport.slot = some 63 ∧
      (queued waitingImport).sched.queues.map (List.filter (· ≠ waitingImport.id)) = [[], [], [], []] ∧
      waitingFile.filing.burns = [fileRecord] ∧
      (∀ p ∈ fileRecord.pages, p.placed = none ∧ waitingFile.frameAt p.frame = .filing none page 3 [.slot 63]) ∧
      waitingFetch.retr.fetches = [fetchRecord] ∧ (∀ p ∈ fetchRecord.pages, p.code = none) ∧
      (∀ x ∈ waitingFetch.frame.frames, Holder.slot 63 ∉ x.holders) :=
  ⟨⟨rfl, rfl⟩, by decide, by decide, by decide, by decide, by decide, by decide, by decide, by decide, by decide,
    by decide, by decide +kernel, by decide, by decide, by decide +kernel⟩

theorem test_cancelGrants_met (g : Grant) (h : some g ∈ waitingFetch.fee.grants) : g.frame = none := by
  have h : g = asideGrant := Option.some.inj (List.mem_singleton.1 h)
  rw [h]
  decide

/-- A FETCH that runs, its page task placed on drive 3. -/
def readTask : Machine.Task :=
  { frame := 1, loc := place, carrier := some 1, phase := .header, drive := some 3, origin := false }
def runningFetch : State :=
  { queued { importJob with kind := .fetch } with
    sched := { up.sched with jobs := [{ importJob with kind := .fetch }] },
    retr := { fetches := [fetchRecord], tasks := [readTask] } }

theorem test_cancelRunning_met :
    runningFetch.sched.jobs = [{ importJob with kind := .fetch }] ∧ runningFetch.sched.queues = [[], [], [], []] ∧
      runningFetch.retr.tasks = [readTask] ∧ readTask.phase ≠ .unplaced ∧
      (runningFetch.slotRec 63).jobRef = some (.job importJob.id) ∧ runningFetch.Ready ∧
      (runningFetch.slotRec 63).state = .accepted :=
  ⟨by decide, by decide, by decide, by decide, by decide, ⟨rfl, rfl⟩, by decide⟩

theorem test_stateWordRefused_met :
    (up.slotRec 63).state = .free ∧ ((upSlot 0 claimed).slotRec 0).claimer ≠ some 2 ∧
      ((upSlot 0 operating).slotRec 0).state = .active ∧ ((upSlot 0 ended).slotRec 0).state = .failed := by decide

theorem test_consumerIndex_met :
    ((63 + 64 - ({ up.slot with producer := 63 } : SlotUnit).consumer) % 64 ≤ (63 + 64 - 0) % 64) ∧
      ¬ (1 ≤ 63 ∧ (1 + 64 - up.slot.consumer) % 64 ≤ (up.slot.producer + 64 - up.slot.consumer) % 64) ∧
      ¬ (64 ≤ 63 ∧ (64 + 64 - up.slot.consumer) % 64 ≤ (up.slot.producer + 64 - up.slot.consumer) % 64) := by decide

/-- Transfers of the last word of the configured memory, and of the first one beyond it. -/
def lastWord : Transfer := { master := 15, write := false, addr := 33554428, len := 4, data := [] }
def beyond : Transfer := { lastWord with addr := 33554432 }
def written (t : Transfer) : Transfer := { t with write := true, data := List.replicate t.len 1 }

theorem test_arrivals_met :
    lastWord.wf = true ∧ beyond.wf = true ∧ (written lastWord).wf = true ∧ (written beyond).wf = true ∧
      lastWord.addr < up.settings.memBytes ∧ up.settings.memBytes ≤ beyond.addr ∧ unlisted.path.busFree = true ∧
      unlisted.startup.inService = true ∧ ({ oneWord with master := 15, addr := 131068 } : Transfer).wf = true := by
  decide

/-- The control-area check has failed; the control area is being initialized at a power-up, and at a system reset. -/
def failedCheck : State := { up with startup := { up.startup with stage := .failed } }
def initializing (cause : StartCause) : State :=
  { unlisted with startup := { up.startup with stage := .drives, initNext := some 0, cause := cause } }

theorem test_retried_met :
    State.reset.path.busFree = true ∧ State.reset.startup.stage = .checking ∧ State.reset.startup.inService = false ∧
      (initializing .powerUp).path.busFree = true ∧ (initializing .powerUp).startup.inService = false ∧
      (initializing .powerUp).startup.stage ≠ .checking ∧ lastWord.addr < (initializing .powerUp).settings.memBytes ∧
      (initializing .powerUp).settings.memBytes ≤ beyond.addr ∧
      (initializing .powerUp).settings.agent 3 ≠ .unlisted ∧ (initializing .powerUp).settings.agent 15 = .unlisted ∧
      (initializing .systemReset).startup.cause = .systemReset ∧ (initializing .systemReset).startup.inService = false ∧
      failedCheck.path.busFree = true ∧ failedCheck.startup.stage = .failed := by decide

/-! ### Premises of the statements on the memory-side port -/

/-- A transfer waits on the bus, the fairness count standing at a value. -/
def waits (s : State) (x : Transfer) (n : Nat) : State :=
  { s with path := { s.path with waiting := some x, fairness := n } }

/-- An acceptance read waits for the port. -/
def busy : State := { up with slot := { up.slot with work := [.acceptance 0] } }

/-- A stream that loads buffer B of drive 3 waits for the port. -/
def streaming : State :=
  { up with mover := { up.mover with streams :=
    [{ idx := 7, frame := 1, loading := true, pos := 1, done := 0, total := 1, acc := [] }], presented := some 7 } }

theorem test_grants_met :
    up.startup.stage ≠ .off ∧ up.path.port = .free ∧ (Run.of up).internal = none ∧ up.path.waiting = none ∧
      (waits busy oneWord 7).path.fairness < 8 ∧ (Run.of (waits busy oneWord 7)).internal = some (.slotUnit, .slotWork) ∧
      8 ≤ (waits busy oneWord 8).path.fairness ∧ (Run.of streaming).internal = some (.frameMover, .stream 7) := by
  decide

theorem test_cycle_met :
    [Mover.frameMover, .slotUnit, .feeMeter, .mediaCheck, .inventory, .startUp][0]? = some up.path.turn ∧
      (waits busy oneWord 7).mover.presented = none ∧ (waits busy oneWord 7).slot.work ≠ [] ∧
      streaming.mover.presented = some 7 ∧ oneWord.addr < 131072 ∧
      (waits failedCheck lastWord 0).startup.stage = .failed ∧ (waits failedCheck lastWord 0).path.waiting = some lastWord ∧
      (waits failedCheck lastWord 0).path.port = .free := by decide

/-- The stream is ready and nothing is presented. -/
def unpresented : State := { streaming with mover := { streaming.mover with presented := none } }

theorem test_presenting_met :
    unpresented.path.port = .free ∧
      ((Run.of unpresented).streamAt ((unpresented.mover.pointer + 7) % 8)).any
        (fun st => (Run.of unpresented).streamReady st) = true ∧
      (∀ j < 7, ((Run.of unpresented).streamAt ((unpresented.mover.pointer + j) % 8)).any
        (fun st => (Run.of unpresented).streamReady st) = false) ∧
      (∀ j < 8, ((Run.of up).streamAt ((up.mover.pointer + j) % 8)).any
        (fun st => (Run.of up).streamReady st) = false) := by decide

/-- A read of the first block of frame 1, and a word past a fill mark of 4. -/
def readFrame (m len : Nat) : Transfer := { master := m, write := false, addr := 131072, len := len, data := [] }

theorem test_imageJudgement_met :
    (waits up (readFrame 3 8) 0).startup.inService = true ∧ (waits up (readFrame 3 8) 0).path.port = .free ∧
      (Run.of (waits up (readFrame 3 8) 0)).internal = none ∧
      (upFrame 1 (.filling place .started (some page) 4 false false [])).frameAt ((readFrame 3 8).addr / 131072) =
        .filling place .started (some page) 4 false false [] ∧
      (readFrame 3 8).addr % 131072 + (readFrame 3 4).len ≤ 4 ∧
      4 < (readFrame 3 8).addr % 131072 + (readFrame 3 8).len ∧
      up.frameAt ((written (readFrame 7 8)).addr / 131072) = .empty ∧
      (upFrame 1 (.scan 7)).frameAt ((written (readFrame 7 8)).addr / 131072) = .scan 7 ∧
      (upFrame 1 (.scan 6)).frameAt ((written (readFrame 7 8)).addr / 131072) = .scan 6 ∧
      held.frameAt ((written (readFrame 3 8)).addr / 131072) = .sealed place page false false [.slot 63] := by
  decide

/-- Master 15 (copier port 7) is about to sweep the last block of frame 1 under one grant of two copies. -/
def grant : Grant :=
  { number := 1, order := 1, state := .opened 1 40 0 false, slot := 63, page := 0, port := 7, account := 127, kind := .plain,
    copies := 2, charged := 0 }
def lastBlock : Transfer := { master := 15, write := false, addr := 131072 + 1984, len := 32, data := [] }
def cursor : Cursor := { frame := 1, next := 1984, timerAt := 0 }
def sweeping : State :=
  { waits (upFrame 1 (.sealed place page false false [])) lastBlock 0 with
    fee := { up.fee with grants := [some grant], cursors := (List.replicate 7 none) ++ [some cursor] } }

theorem test_sweep_met :
    sweeping.startup.inService = true ∧ sweeping.path.port = .free ∧ sweeping.path.waiting = some lastBlock ∧
      (Run.of sweeping).internal = none ∧ sweeping.settings.agent 15 = .copier 7 ∧
      sweeping.frameAt 1 = .sealed place page false false [] ∧ sweeping.fee.cursor 7 = some cursor ∧
      lastBlock.addr % 131072 < page.imageLen ∧ page.imageLen ≤ lastBlock.addr % 131072 + lastBlock.len ∧
      sweeping.fee.grants[0]? = some (some grant) ∧ grant.charged + 1 < grant.copies ∧
      (sweeping.store.accounts.getD 127 Account.closed).total + 40 ≤ 4294967295 ∧
      127 < sweeping.store.accounts.length := by decide +kernel

theorem test_sweepGrant_met (j : Nat) (h : Grant) (e : sweeping.fee.grants[j]? = some (some h)) : j = 0 := by
  cases j with
  | zero => rfl
  | succ j => cases e

/-- The request of slot 63 has ended, with the frames 1 and 2 and a sweep of frame 1 by port 7 on its grant; the FETCH of
slot 62 waits for a frame, its page by now under frame 1. -/
def releasing : State :=
  let other := upFrame 2 (.sealed { place with sector := 40 } page false false [.slot 63])
  { other with
    frame := { other.frame with frames := other.frame.frames.set 0 (.sealed place page false false [.slot 63]),
                                waitQueue := [{ job := 1, level := 3, age := 1 }] },
    slot := { up.slot with slots := up.slot.slots.set 63 ended },
    sched := { up.sched with jobs := [{ importJob with kind := .fetch, slot := some 62, state := .waitingFrames }] },
    retr := { up.retr with fetches := [{ fetchRecord with
      slot := 62, pages := fetchRecord.pages.map (fun p => { p with candidates := [place] }) }] },
    fee := { up.fee with grants := [some grant, some { asideGrant with slot := 62 }],
                         cursors := up.fee.cursors.set 7 (some cursor) } }

/-- R46: a release serves the frame-wait queue within its claim, and withdraws the grants only after it: the hit of the
waiting FETCH opens its grant on frame 1 first, so the sweep of its port goes on. -/
theorem test_releaseServesFirst :
    let r := (Run.of releasing).releaseEnded 63
    r.fee.cursor 7 = some cursor ∧ r.frame.waitQueue = [] ∧ r.frame.reclaim = [2] ∧ (r.frameAt 1).holders = [.slot 62] ∧
      r.fee.grants.map (fun o => o.map (fun g => (g.slot, g.frame))) = [none, some (62, some 1)] := by decide +kernel

/-- The grant's last copy. -/
def lastCopy : Grant := { grant with copies := 1 }
def lastSweep : State := { sweeping with fee := { sweeping.fee with grants := [some lastCopy] } }

theorem test_lastSweep_met :
    lastSweep.fee.grants[0]? = some (some lastCopy) ∧ lastCopy.copies ≤ lastCopy.charged + 1 ∧
      lastSweep.frame.waitQueue = [] ∧ lastSweep.fee.cursor 7 = some cursor := by decide

/-- A COPIER's read of the last block, the frame in another state or without a grant. -/
def sweptFrame (f : Frame) (gs : List (Option Grant)) : State :=
  { waits (upFrame 1 f) lastBlock 0 with fee := { up.fee with grants := gs } }

theorem test_copierJudgement_met :
    (waits up (written lastBlock) 0).settings.agent 15 = .copier 7 ∧ (written lastBlock).write = true ∧
      (sweptFrame (.filling place .started (some page) 2015 false false []) [some grant]).frameAt 1 =
        .filling place .started (some page) 2015 false false [] ∧
      2015 < 1984 + 32 ∧ (1984 + 32 ≤ 2016) ∧ some grant ∈ sweeping.fee.grants ∧ grant.port = 7 ∧ grant.frame = some 1 ∧
      (sweptFrame (.sealed place { page with imageLen := 2017 } false false []) [some grant]).frameAt 1 =
        .sealed place { page with imageLen := 2017 } false false [] ∧ 1984 + 32 < 2017 ∧
      lastBlock.addr % 131072 ≠ 0 ∧ page.imageLen ≤ 1984 + 32 ∧
      (sweptFrame (.sealed place page false false []) [some grant]).fee.cursor 7 = none ∧
      (sweptFrame (.sealed place page false false []) []).fee.grants = [] ∧
      (sweptFrame (.scan 4) [some grant]).frameAt 1 = .scan 4 := by decide

/-- The port holds a transfer of frame 1. -/
def porting (x : Transfer) : State := { up with path := { up.path with port := .system x true } }

theorem test_accesses_met :
    (porting (readFrame 3 32)).path.port = .system (readFrame 3 32) true ∧ up.startup.stage ≠ .failed ∧
      up.mem.faults 131072 32 = false ∧ (up.mem.learnFaults 131072 32 [131103]).faults 131072 32 = true ∧
      (written (readFrame 3 32)).wf = true ∧ up.mem.wf = true := by decide

/-- R23: in the failed-check mode a word of frame 0 is in the port, to be read or written as it is. -/
def failedPort (x : Transfer) : State := { failedCheck with path := (porting x).path }

theorem test_failedAccesses_met :
    (failedPort oneWord).path.port = .system oneWord true ∧ (failedPort oneWord).startup.stage = .failed ∧
      ((failedPort oneWord).mem.learnFaults oneWord.addr oneWord.len []).faults oneWord.addr oneWord.len = false ∧
      ((failedPort oneWord).mem.learnFaults oneWord.addr oneWord.len [oneWord.addr]).faults oneWord.addr oneWord.len =
        true ∧ (written oneWord).wf = true := by decide

/-- The port holds a transfer of the first 32 bytes of slot 63. -/
def slotBlock (write : Bool) (data : List Byte) : Transfer :=
  { master := 3, write := write, addr := slotBase 63, len := 32, data := data }
def claiming (x : SlotRec) (t : Transfer) : State :=
  { upSlot 63 x with path := { up.path with port := .system t true } }

theorem test_slotRead_met :
    (claiming SlotRec.blank (slotBlock false [])).path.port =
        .system { master := 3, write := false, addr := slotBase 63, len := 32, data := [] } true ∧
      63 < (claiming SlotRec.blank (slotBlock false [])).slot.slots.length ∧
      (claiming SlotRec.blank (slotBlock false [])).startup.inService = true ∧
      ((claiming SlotRec.blank (slotBlock false [])).slotRec 63).state = .free ∧
      ((claiming claimed (slotBlock false [])).slotRec 63).state ≠ .free ∧
      up.mem.faults (slotBase 63 + 8) 24 = false ∧ (slotBase 63 + 8 ≤ slotBase 63 + 31) ∧
      (porting { oneWord with addr := 131068 }).path.port = .system { oneWord with addr := 131068 } true ∧
      ({ oneWord with addr := 131068 } : Transfer).wf = true ∧ up.mem.faults 131068 4 = false := by decide

/-- POSTED in the state word, and fields behind it. -/
def postData : List Byte := leBytes 4 2 ++ List.replicate 28 1

theorem test_slotWrite_met :
    postData.length = 32 ∧ word postData 0 = 2 ∧
      (claiming claimed (slotBlock true postData)).path.port =
        .system { master := 3, write := true, addr := slotBase 63, len := 32, data := postData } true ∧
      ((claiming claimed (slotBlock true postData)).slotRec 63).state = .claimed ∧
      ((claiming claimed (slotBlock true postData)).slotRec 63).claimer = some 3 ∧
      (written { oneWord with master := 3, addr := slotBase 63 + 508 }).wf = true ∧
      (written { oneWord with master := 7, addr := slotBase 63 + 508 }).wf = true ∧
      (written { oneWord with addr := 36864 }).wf = true := by decide

/-! ### Premises of the statements on the Slot Unit's memory work -/

/-- A request of 480 bytes read so far, with its kind, its level and its first body bytes. -/
def req (kind level : Byte) (body : List Byte) : List Byte :=
  List.replicate 8 0 ++ [kind, level] ++ List.replicate 6 0 ++ body ++ List.replicate (464 - body.length) 0

/-- A slot whose request is POSTED. -/
def posted : SlotRec := { SlotRec.blank with state := .posted }

/-- The sixteenth acceptance read of slot 63 holds the port. -/
def accepting (q : List Byte) : State :=
  { up with
    path := { up.path with port := .mover .slotUnit .slotWork },
    slot := { up.slot with slots := up.slot.slots.set 63 posted,
                           work := [.acceptance 63], workDone := 15, acceptData := q } }

/-- What a request's 512 bytes are when the last read brings zeros. -/
def whole (q : List Byte) : List Byte := q ++ up.mem.readBytes (slotBase 63 + 480) 32

theorem accepts (s : State) (q : List Byte) (hp : s.path = (accepting q).path) (hs : s.slot = (accepting q).slot)
    (hm : s.mem = up.mem) : s.Accepts 63 posted [] ∧ s.request 63 = whole q := by
  unfold State.Accepts State.request
  rw [hp, hs, hm]
  exact ⟨⟨rfl, rfl, rfl, (by decide : (up.slot.slots.set 63 posted)[63]? = some posted), rfl, rfl, rfl, by decide⟩, rfl⟩

/-- A read of the acceptance before the last, and an acceptance that has met a fault. -/
def midway : State := { accepting [] with slot := { (accepting []).slot with workDone := 14 } }
def faulty : State := { accepting (req 1 4 []) with slot := { (accepting (req 1 4 [])).slot with acceptFault := true } }

theorem test_acceptance_met :
    midway.path.port = .mover .slotUnit .slotWork ∧ midway.slot.work = .acceptance 63 :: [] ∧
      midway.slot.workDone < 15 ∧ faulty.slot.workDone = 15 ∧ faulty.slot.slots[63]? = some posted ∧
      faulty.slot.acceptFault = true ∧ (accepting (req 0 0 [])).slot.acceptFault = false ∧
      up.mem.faults (slotBase 63 + 480) 32 = false ∧ byteAt (whole (req 1 4 [])) 9 = 4 ∧
      byteAt (whole (req 2 0 [])) 9 = 0 ∧ byteAt (whole (req 4 2 [])) 9 = 2 := by decide +kernel

theorem test_badKind_met : ∀ k : Kind, none = some k ↔ k.value = byteAt (whole (req 0 0 [])) 8 := by
  have h : byteAt (whole (req 0 0 [])) 8 = 0 := by decide +kernel
  intro k
  rw [h]
  cases k <;> decide

theorem test_badLevel_met : ∀ k : Kind, some .fetch = some k ↔ k.value = byteAt (whole (req 1 4 [])) 8 := by
  have h : byteAt (whole (req 1 4 [])) 8 = 1 := by decide +kernel
  intro k
  rw [h]
  cases k <;> decide

/-- Account 127 OPEN, with a total. -/
def openAccount (s : State) (total : Nat) : State :=
  { s with store := { s.store with
      accounts := s.store.accounts.set 127 { Account.closed with isOpen := true, total := total } } }

theorem test_accounts_met :
    byteAt (whole (req 19 0 [127])) 8 = 19 ∧ byteAt (whole (req 20 0 [127])) 8 = 20 ∧
      byteAt (whole (req 20 0 [127])) 16 = 127 ∧ byteAt (whole (req 19 0 [128])) 16 = 128 ∧
      (up.store.accounts.getD 127 Account.closed).isOpen = false ∧
      ((openAccount up 0).store.accounts.getD 127 Account.closed).isOpen = true ∧
      ((openAccount up 1).store.accounts.getD 127 Account.closed).total ≠ 0 ∧ up.fee.accountCount 127 = 0 ∧
      ({ up with fee := { up.fee with grants := [some asideGrant] } } : State).fee.accountCount 127 ≠ 0 := by
  decide +kernel

theorem test_feesAndSequence_met :
    byteAt (whole (req 22 0 [])) 8 = 22 ∧ byteAt (whole (req 28 0 [])) 8 = 28 ∧ word (whole (req 28 0 [])) 16 = 0 ∧
      word (whole (req 28 0 [1])) 16 = 1 ∧ up.sched.jobs = [] := by decide +kernel

theorem test_openScan_met :
    let q := whole (req 16 0 [7, 16])
    byteAt q 8 = 16 ∧ byteAt q 16 = 7 ∧ (up.settings.agent 7).cls = .scanner ∧ byteAt q 17 = 16 ∧
      byteAt (whole (req 16 0 [7, 17])) 17 = 17 ∧ up.frame.waitQueue = [] ∧
      16 ≤ (up.frame.emptyList ++ up.frame.reclaim).length ∧
      ([1] ++ [] : List Nat).length < 16 ∧ (16 ∈ (up.frame.emptyList ++ up.frame.reclaim).take 16) := by decide +kernel

theorem test_discardScan_met :
    let q := whole (req 17 0 [1, 0, 1, 0])
    let frames := (List.range (byteAt q 16)).map (fun i => half q (18 + 2 * i))
    byteAt q 8 = 17 ∧ byteAt q 16 = 1 ∧ frames = [1] ∧ frames.Nodup ∧ up.frameAt 1 = .empty ∧
      (upFrame 1 (.scan 4)).frameAt 1 = .scan 4 ∧ 1 ≤ (upFrame 1 (.scan 4)).frame.frames.length ∧
      byteAt (whole (req 17 0 [17])) 16 = 17 := by decide +kernel

/-- An entry of the relocation table that waits for its acknowledgement. -/
def moved16 : RelocEntry := .awaitingAck place { place with sector := 17 }

theorem test_acknowledge_met :
    let q := whole (req 25 0 [7, 0, 0, 0, 16, 0, 0, 0])
    byteAt q 8 = 25 ∧ locationAt q 16 = place ∧ 1 ≤ place.sector ∧ place.sector ≤ 524286 ∧
      (up.store.relocs.set 63 moved16)[63]? = some moved16 ∧
      (∀ j < 63, (up.store.relocs.set 63 moved16)[j]? = some .free) ∧
      (locationAt (whole (req 25 0 [])) 16).serial = 0 := by decide +kernel

theorem test_statementRequests_met :
    byteAt (whole (req 21 0 [1])) 8 = 21 ∧ byteAt (whole (req 23 0 [255])) 8 = 23 ∧
      byteAt (whole (req 24 0 [0, 1])) 8 = 24 ∧ byteAt (whole (req 29 0 [1])) 8 = 29 ∧
      half (whole (req 21 0 [1])) 16 = 1 ∧ half (whole (req 23 0 [255])) 16 = 255 ∧
      up.frame.frames.length < half (whole (req 24 0 [0, 1])) 16 ∧ half (whole (req 29 0 [])) 16 < 1 ∧
      up.frameAt 255 = .empty ∧ (upFrame 1 (.scan 4)).frameAt 1 = .scan 4 := by decide +kernel

/-- The hatch in a state. -/
def hatched (h : HatchState) : State := { up with picker := { up.picker with hatch := h } }

theorem test_openHatch_met :
    byteAt (whole (req 18 0 [])) 8 = 18 ∧ up.picker.hatch = .locked ∧ up.picker.audit = none ∧
      up.startup.stage = .done ∧ up.startup.initNext = none ∧ up.picker.state ≠ .moving ∧ up.picker.hatchOps = [] ∧
      (moved up (move .reHome none .nothing)).picker.state = .moving ∧ lastWrite.startup.stage = .drives ∧
      lastWrite.picker.hatch = .locked := by decide +kernel

/-- OPEN HATCH is accepted whatever the hatch does: on a release pending, on a released or an open hatch, and in an audit. -/
theorem test_hatchRequest_met :
    [HatchState.releasePending, .released, .opened, .auditing].all (fun h =>
      let s : State := { accepting (req 18 0 []) with picker := (hatched h).picker }
      s.picker.hatch == h && s.slot.acceptData == req 18 0 [] && s.path.port == .mover .slotUnit .slotWork) = true := by
  decide +kernel

/-- Drive 3 in FAULT, with the UNLOAD that a RESTORE DRIVE finds there or without it. -/
def faultedDrive (c : Option Issued) : State :=
  { up with drives := up.drives.set 3 { Drive.start with state := .fault, command := c } }

theorem test_restoreDrive_met :
    byteAt (whole (req 26 0 [3])) 8 = 26 ∧ byteAt (whole (req 26 0 [3])) 16 = 3 ∧
      byteAt (whole (req 26 0 [4])) 16 = 4 ∧ ((faultedDrive none).driveRec 3).state = .fault ∧
      ((faultedDrive none).driveRec 3).command = none ∧
      ((faultedDrive (some (issued .restore))).driveRec 3).command ≠ none ∧ (up.driveRec 3).state ≠ .fault ∧
      up.restores = [] ∧ 3 < up.drives.length ∧ State.reset.restores = [] ∧
      ({ up with startup := { up.startup with stage := .audit } } : State).startup.stage = .audit := by decide +kernel

theorem test_closePair_met :
    byteAt (whole (req 27 0 [])) 8 = 27 ∧ up.filing.closeOps = [] ∧ up.sched.jobs = [] ∧ up.filing.flight = [] ∧
      up.store.pair = .absent ∧
      ({ up with store := { up.store with pair := .active 7 8 .b } } : State).store.pair = .active 7 8 .b ∧
      ({ up with store := { up.store with pair := .closing 7 8 .b .full } } : State).store.pair =
        .closing 7 8 .b .full ∧
      ({ importJob with kind := .file } : Job).kind.isBurn = true ∧ importJob.state = .running ∧
      importJob.kind.isBurn = false := by decide +kernel

/-- A FETCH of sector 524286 of volume 7, with one grant. -/
def fetchBody : List Byte :=
  [7, 0, 0, 0, 0, 1, 1, 0, 254, 255, 7, 0] ++ List.replicate 60 0 ++ [7, 0, 1, 127]
def fetchSpec7 : GrantSpec := { port := 7, kind := .plain, copies := 1, account := 127 }

theorem test_fetch_met :
    let q := whole (req 1 3 fetchBody)
    byteAt q 8 = 1 ∧ byteAt q 9 = 3 ∧ byteAt q 21 = 1 ∧ byteAt q 20 = 0 ∧ word q 24 = 524286 ∧ word q 16 = 7 ∧
      byteAt q 22 = 1 ∧ fetchSpecs q = some [fetchSpec7] ∧ fetchSpec7.kind ≠ .statutory ∧
      (Run.of up).locOf 7 = none ∧ (Run.of (upVols [vol 7 .primary .missing])).locOf 7 = some .missing ∧
      (Run.of (upVols [vol 7 .primary (.cell 0)])).locOf 7 = some (.cell 0) ∧
      (wantedGrants 63 1 [fetchSpec7]).length = 1 ∧
      ({ up.fee with grants := [] } : FeeMeter).freeEntries < 1 ∧ 1 ≤ up.fee.freeEntries ∧
      ((openAccount up 0).store.accounts.getD 127 Account.closed).isOpen = true ∧
      (up.store.accounts.getD 127 Account.closed).isOpen = false ∧ byteAt (whole (req 1 3 [])) 21 = 0 := by
  decide +kernel

theorem test_file_met :
    let q := whole (req 2 1 ([15, 1, 0, 0, 0, 0, 0, 0] ++ List.replicate 8 0 ++ [1, 0, 0, 0, 0, 0, 2, 0]))
    byteAt q 8 = 2 ∧ byteAt q 9 = 1 ∧ byteAt q 16 = 15 ∧ byteAt q 17 = 1 ∧ half q 32 = 1 ∧ word q 36 = 131072 ∧
      1 ≤ up.frame.frames.length ∧ (upFrame 1 (.scan 3)).frameAt 1 = .scan 3 ∧ up.frameAt 1 = .empty ∧
      up.store.deedSeq = 0 ∧ ({ up.store with deedSeq := 4294967295 } : Store).deedSeq ≠ 0 ∧
      byteAt (whole (req 2 3 [16, 1])) 16 = 16 := by decide +kernel

theorem test_importAndExport_met :
    byteAt (whole (req 3 3 [1])) 8 = 3 ∧ byteAt (whole (req 3 3 [1])) 9 = 3 ∧ byteAt (whole (req 3 3 [1])) 16 = 1 ∧
      (Run.of (upVols [vol 7 .primary (.cell 89)])).cellOccupied 89 = true ∧ (Run.of up).cellOccupied 89 = false ∧
      byteAt (whole (req 4 3 [7])) 8 = 4 ∧ word (whole (req 4 3 [7])) 16 = 7 ∧ word (whole (req 4 3 [])) 16 = 0 ∧
      (PairRec.active 7 8 .a).claims 7 = true ∧ PairRec.absent.claims 7 = false := by decide +kernel

/-- The job of an IMPORT waits, STARTED taken, for the pass that starts it. -/
def freshImport : Job := { importJob with state := .queued, started := false }

theorem test_dispatch_met :
    (queued freshImport).startup.started = true ∧ (queued freshImport).startup.acting = true ∧
      (queued freshImport).sched.queues = [[], [], [], [freshImport.id]] ∧
      (queued freshImport).sched.jobs.find? (fun k => k.id == freshImport.id) = some freshImport ∧
      freshImport.slot = some 63 ∧ (queued freshImport).slot.slots[63]? = some importing ∧
      (queued freshImport).picker.state ≠ .fault ∧ State.reset.startup.started = false := by decide

/-- The state that the acceptance of an IMPORT leaves to the pass, the arm in a move: what the dispatch of it asks for. -/
def importAccepted : State :=
  moved ((accepting (req 3 3 [1])).acceptQueued 63 posted [] .importVol (.importIn 1) 3) (move .reHome none .nothing)

theorem test_dispatchAfterAcceptance_met :
    ∃ j ∈ importAccepted.sched.jobs, importAccepted.startup.started = true ∧ importAccepted.startup.acting = true ∧
      importAccepted.sched.queues = [[], [], [], [j.id]] ∧
      importAccepted.sched.jobs.find? (fun k => k.id == j.id) = some j ∧ j.kind = .importIn 1 ∧ j.state = .queued ∧
      j.started = false ∧ j.slot = some 63 ∧
      (importAccepted.slot.slots[63]?).map (fun y => y.state) = some .accepted ∧
      importAccepted.picker.state = .moving ∧ importAccepted.path.port = .free := by decide +kernel

/-- The last write of a write-back of slot 63 holds the port. -/
def answered : SlotRec :=
  { SlotRec.blank with state := .active, notify := some true, outcome := some { done := true, code := .ok, count := 1 } }
def writingBack : State :=
  { accepting [] with slot := { up.slot with slots := up.slot.slots.set 63 answered,
                                             work := [.writeBack 63 [{ addr := slotBase 63 + 12, bytes := [0] }]] } }

theorem test_writeBack_met :
    writingBack.startup.inService = true ∧ writingBack.path.port = .mover .slotUnit .slotWork ∧
      writingBack.slot.work = .writeBack 63 [{ addr := slotBase 63 + 12, bytes := [0] }] :: [] ∧
      writingBack.slot.workDone = 0 ∧ writingBack.slot.slots[63]? = some answered := by decide

/-- A notice record holds the port: at the producer index with a written record behind it, and one behind it. -/
def noticing (pos : Nat) (marks : List Bool) : State :=
  { accepting [] with slot := { up.slot with producer := 63, reserved := marks,
                                             work := [.notice pos (.started .powerUp true true)] } }

theorem test_noticeWrite_met :
    (noticing 63 [false, true]).slot.reserved = false :: (List.replicate 1 true ++ []) ∧
      (noticing 63 [false, true]).slot.producer = 63 ∧ ([] : List Bool).head? ≠ some true ∧
      (noticing 0 [false, false]).slot.reserved.head? = some false ∧ (63 + (0 + 1)) % 64 = 0 ∧
      0 + 1 < (noticing 0 [false, false]).slot.reserved.length := by decide

/-- The write of the configuration memory for the request of slot 63. -/
def savingSettings : State :=
  { upSlot 63 { SlotRec.blank with state := .active, jobRef := some .operation } with
    startup := { up.startup with configWriting := some [],
                                 settingsOps := [{ slot := 63, frame := 1, got := [], writing := true }] } }

theorem test_settingsWrite_met :
    savingSettings.startup.configWriting = some [] ∧
      savingSettings.startup.settingsOps = { slot := 63, frame := 1, got := [], writing := true } :: [] ∧
      (savingSettings.slot.slots[63]?.map SlotRec.inHand) = some true := by decide

/-- A statement of record `n` and of its piece `k`, into frame 1, whose record's transfer holds the port. -/
def statement (n k : Nat) : Statement :=
  { slot := 63, frame := 1, clear := true, next := n, piece := k, taken := if k = 0 then [] else [[1]] }
def stating (f : Frame) (m : Mover) (p : Purpose) (x : Statement) : State :=
  { upFrame 1 f with
    path := { up.path with port := .mover m p },
    slot := (upSlot 63 operating).slot, stmts := { account := [x], log := [x], inventory := [x] } }

theorem test_statements_met :
    (stating (.scan 4) .feeMeter .accountRecord (statement 126 0)).slot.slots[63]? = some operating ∧
      operating.inHand = true ∧ (stating .empty .feeMeter .accountRecord (statement 126 0)).frameAt 1 = .empty ∧
      (stating (.scan 4) .feeMeter .accountRecord (statement 126 0)).frameAt 1 = .scan 4 ∧
      (stating (.scan 4) .feeMeter .accountRecord (statement 127 0)).stmts.account = [statement 127 0] ∧
      (stating (.scan 4) .mediaCheck .logRecord (statement 95 0)).path.port = .mover .mediaCheck .logRecord ∧
      (stating (.scan 4) .mediaCheck .logRecord (statement 96 0)).stmts.log = [statement 96 0] ∧
      (stating (.scan 4) .inventory .inventoryRecord (statement 127 0)).stmts.inventory = [statement 127 0] ∧
      (stating (.scan 4) .inventory .inventoryRecord (statement 128 0)).frameAt 1 = .scan 4 ∧
      (statement 128 0).piece = 0 ∧ (statement 128 1).piece = 1 ∧ (statement 128 2).piece = 2 ∧
      (statement 128 2).taken = [[1]] := by decide

/-- The last write of sector `pos` of frame 1's page, or one before it, holds the port. -/
def emptying (pos done : Nat) : Stream :=
  { idx := 0, frame := 1, loading := false, pos := pos, done := done, total := 32, acc := [] }
def judged : Judging :=
  { frame := 1, loc := place, positions := [(1, .clean)], tally := 0, uncorrectable := false, entries := [] }
def emptyingTask : Machine.Task :=
  { frame := 1, loc := place, carrier := some 1, phase := .emptying, drive := some 0, origin := false }
/-- A FETCH that runs with one need placed on drive 0 and another for which a preemption is held. -/
def twoNeeds : Job :=
  { importJob with
    kind := .fetch, pendingPreempt := true,
    needs := [{ serial := place.serial, side := place.side, place := .tasks 0, held := false },
              { serial := 4294967295, side := .b, place := .unplaced, held := true }] }
def placing (st : Stream) : State :=
  { upFrame 1 (.filling place .started (some page) 0 false false []) with
    path := { up.path with port := .mover .frameMover (.stream 0) },
    mover := { up.mover with streams := [st] },
    retr := { up.retr with tasks := [emptyingTask] }, sched := { up.sched with jobs := [twoNeeds] },
    media := { up.media with judging := [judged] } }

theorem test_placedSector_met :
    (placing (emptying 1 31)).path.port = .mover .frameMover (.stream (emptying 1 31).idx) ∧
      (placing (emptying 1 31)).mover.streams.find? (fun y => y.idx == (emptying 1 31).idx) = some (emptying 1 31) ∧
      1 ≤ (placing (emptying 1 31)).frame.frames.length ∧
      (placing (emptying 1 31)).frameAt 1 = .filling place .started (some page) 0 false false [] ∧
      (emptying 1 30).done < 31 ∧ 1024 * (emptying 1 31).pos < page.imageLen ∧
      (placing (emptying 1 31)).media.judging.find? (fun y => y.frame == 1) = some judged := by
  decide +kernel

theorem test_sealingSector_met :
    page.imageLen ≤ 1024 * (emptying 2 31).pos ∧ (placing (emptying 2 31)).mover.presented = none ∧
      (false || judged.get 2 == some .uncorrectable) = false ∧
      (placing (emptying 2 31)).retr.tasks.find? (fun y => y.frame == 1) = some emptyingTask ∧
      emptyingTask.carrier = some twoNeeds.id ∧ twoNeeds ∈ (placing (emptying 2 31)).sched.jobs ∧
      (∀ y ∈ (placing (emptying 2 31)).sched.jobs, y.id = twoNeeds.id → y = twoNeeds) ∧ twoNeeds.kind = .fetch ∧
      twoNeeds.pair = none ∧ judged.tally < up.settings.threshold := by decide

/-- R113: the mark of a held preemption stands while its need is unplaced, and goes when it is placed. -/
theorem test_heldNeed :
    (((Run.of (placing (emptying 2 31))).setPlace 1 place.serial place.side .unplaced).jobAt 1).map
        (fun j => j.pendingPreempt) = some true ∧
      (((Run.of (placing (emptying 2 31))).setPlace 1 4294967295 .b (.flips 3)).jobAt 1).map
        (fun j => j.pendingPreempt) = some false := by decide

/-- R114: a chosen drive is not clear while a job that worked on it is STOPPING, though it has left the drive's lists. -/
theorem test_victimsHold :
    let r : Run :=
      { Run.of (placing (emptying 2 31)) with
        sched := { up.sched with
          jobs := [{ twoNeeds with state := .stopping }],
          assigns := up.sched.assigns.set 3 { Assign.clear with victims := [1] } } }
    r.driveClear 3 = false ∧ (r.setJobState 1 .suspended).driveClear 3 = true := by decide

/-- R52: the slot of a FETCH is told that it has started while a page of it is open, and not once all are FINAL. -/
theorem test_startTold :
    ((Run.of runningFetch).tellStarted { waitingImport with kind := .fetch, started := false }).slot.slots[63]?.map (fun x => x.state) =
        some .active ∧
      (((Run.of runningFetch).modFetch 1 (fun f =>
        { f with pages := f.pages.map (fun p => { p with code := some .ok }) })).tellStarted
          { waitingImport with kind := .fetch }).slot.slots[63]?.map (fun x => x.state) = some .accepted := by decide

/-- R9: the frame-wait queue is served right after the claim that empties a frame, before what is listed already. -/
theorem test_serviceFirst :
    (((Run.of (upFrame 3 (.scan 4))).push .arm).emptyFrame 3).todo = [.service, .arm] := by decide +kernel

/-- R69: while the summary has writes to come, the read that would take a request is not presented. -/
theorem test_summaryTakenAsOne :
    let summary := fun (k n : Nat) =>
      { Run.of (stating (.scan 4) .inventory .inventoryRecord (statement 128 k)) with
        slot := { (accepting []).slot with workDone := n } }
    (summary 0 15).presentsSlotWork = true ∧ (summary 1 14).presentsSlotWork = true ∧
      (summary 1 15).presentsSlotWork = false ∧ (summary 2 15).presentsSlotWork = false := by decide

/-- R82: a record created by any unit while an audit is in hand is counted. -/
theorem test_createdInAudit :
    let r : Run := { Run.of up with picker := { up.picker with
      audit := some { phase := .waiting, created := 3, missingBefore := [] } } }
    ((r.createVolume 7 true (.drive 3)).picker.audit.map (fun a => a.created)) = some 4 := by decide +kernel

/-- R129: a failure still listed for a frame that is filled anew was of the fill that has ended. -/
theorem test_oneFailureForAFill :
    ((((Run.of up).push (.fillFail 1 .volumeMissing)).push (.fillFail 2 .volumeMissing)).fillFrame 1 place 63).todo =
      [.fillFail 2 .volumeMissing] := by decide +kernel

/-- R113: an exchange that stands for nobody is no job's work. -/
theorem test_workOfNobody :
    let a : Assign := { Assign.clear with incoming := some { serial := 7, side := .a, job := 0, level := 3 } }
    let r : Run := { Run.of up with sched := { up.sched with assigns := up.sched.assigns.set 3 a } }
    r.workers 3 = [] := by decide

/-- R106: a BUSY drive whose FLIP is placed, with a group in its flip list, is claimed; one with an UNMOUNT listed is not. -/
def flipping (os : List Order) : Run :=
  { Run.of (upVols [vol 7 .primary (.drive 3)]) with
    drives := up.drives.set 3 { Drive.start with state := .busy, volume := some (.serial 7), unloadAsked := true },
    picker := { up.picker with orders := os },
    sched := { up.sched with assigns := up.sched.assigns.set 3 { Assign.clear with flips := [1], flip := some true } } }
theorem test_claimUnderAFlip :
    (flipping [order .flip (some 3) (some 7) none none]).pairSpot 9 7 = .claim 3 ∧
      (flipping [order .unmount (some 3) (some 7) none none]).pairSpot 9 7 = .cannot := by decide

/-- R106: a job that takes a drive leaves another job's claim on it, and its own claims end with the placing of its need. -/
theorem test_claimStands :
    let asg := fun (c : Nat) => up.sched.assigns.set 3 { Assign.clear with claim := some c }
    let r := fun (c : Nat) => { Run.of up with sched := { up.sched with assigns := asg c } }
    (((r 2).takePair importJob 7 .a (.take 3) 3).dropClaims 1).assignAt 3 =
        { Assign.clear with holder := some 1, claim := some 2 } ∧
      (((r 1).takePair importJob 7 .a (.take 3) 3).dropClaims 1).assignAt 3 = { Assign.clear with holder := some 1 } := by
  decide

/-- A running burn job with its old pair in the drives 3 and 2, whose new pair lies in cells, one volume of it coming into
drive 0 for another job or not; an EXPORT departure is pending on drive 3. -/
def newPairComing (i : Option Incoming) : Run :=
  let s := upVols [vol 5 .primary (.drive 3), vol 6 .safety (.drive 2), vol 7 .blank (.cell 0), vol 8 .blank (.cell 1)]
  let ready := fun (n : Nat) => { Drive.start with state := .ready, volume := some (.serial n) }
  { Run.of s with
    store := { s.store with pair := .establishing 7 8 .a false false },
    drives := (up.drives.set 3 (ready 5)).set 2 (ready 6),
    sched := { up.sched with
      jobs := [{ importJob with kind := .file, pair := some { primary := 5, safety := 6, side := .a, placed := true } }],
      assigns := [{ Assign.clear with incoming := i }, Assign.clear, { Assign.clear with holder := some 1 },
        { Assign.clear with holder := some 1, departure := some { kind := .exportOut 9, placed := false } }] } }
def swapped (i : Option Incoming) : Run := (newPairComing i).exchangePair importJob [(5, 7), (6, 8)]
def otherNeed : Option Incoming := some { serial := 7, side := .a, job := 4, level := 1 }

/-- R106, R111: a new volume that is coming in for another need is not exchanged a second time: the need waits for a later
pass, the job stays RUNNING with both its drives, and no departure goes. -/
theorem test_newVolumeComingIn :
    let r := swapped otherNeed
    (swapped none).picker.orders.length = 2 ∧ r.picker.orders = [] ∧ r.pass = true ∧ r.sched.queues.flatten = [1] ∧
      r.sched.assigns = (newPairComing otherNeed).sched.assigns ∧ (r.depart 3).picker.orders = [] ∧
      (r.jobAt 1).map (fun j => (j.state, j.pair)) = some (.running, some
        { primary := 7, safety := 8, side := .a, placed := false, primarySeat := some 3, safetySeat := some 2 }) := by
  decide +kernel

/-- R106: a later pass places the waiting need on the drives the job holds, by an exchange into each. -/
theorem test_waitingNeedPlaced :
    let r := swapped otherNeed
    let free : Run := { r with sched := { r.sched with assigns := r.sched.assigns.set 0 Assign.clear } }
    (((free.jobAt 1).bind (fun j => j.pair.map (free.placePair j))).map (fun t =>
      t.picker.orders.map (fun o => (o.kind, o.drive)))) = some [(.unmount, some 3), (.unmount, some 2)] := by
  decide +kernel

/-- R114: the exchange of a job that stops stands when its waiting MOUNT is removed. -/
theorem test_exchangeUntilSafePoint :
    let a : Assign := { Assign.clear with incoming := some { serial := 7, side := .a, job := 1, level := 3 } }
    let r : Run :=
      { Run.of up with
        picker := { up.picker with orders := [{ order .mount (some 3) (some 7) (some .a) none with requester := .job 1 }] },
        sched := { up.sched with assigns := up.sched.assigns.set 3 a } }
    (r.dropOrders 1).picker.orders = [] ∧ (r.dropOrders 1).assignAt 3 = a ∧
      ((r.releaseDrives 1).assignAt 3).incoming = none := by decide

/-- R126, R133: a task kept at the stop passes at the safe point to a holder of its frame that can carry it by then. -/
theorem test_passedAtTheSafePoint :
    let r : Run :=
      { Run.of (upFrame 1 (.filling place .pending none 0 false false [.slot 63, .slot 62])) with
        sched := { up.sched with jobs := [{ twoNeeds with state := .stopping, pendingPreempt := false },
                                          { twoNeeds with id := 2, slot := some 62, needs := [] }] },
        retr := { up.retr with tasks := [{ emptyingTask with phase := .unplaced, drive := none }] } }
    ((r.safePoint 1).taskAt 1).bind (fun t => t.carrier) = some 2 := by decide +kernel

/-- R112: an unplaced pair need ends with the volume it names, a placed one does not. -/
theorem test_pairNeedLosesItsVolume :
    let need := fun (placed : Bool) =>
      { importJob with kind := .file, pair := some { primary := 7, safety := 8, side := .a, placed := placed } }
    (need false).lacksPairVolume 8 = true ∧ (need false).lacksPairVolume 9 = false ∧
      (need true).lacksPairVolume 8 = false := by decide

/-- R196: an absent home cell is FFh, in the record of a free position too. -/
theorem test_freePosition : (volumeRecord 127 none).getD 28 0 = 255 ∧ (volumeRecord 127 none).getD 0 0 = 127 := by decide

/-! ### Premises of the statements on the picker arm, the hand-off cells, the hatch and the audit -/

/-- A move of an order that nobody waits for. -/
def mounting : Move :=
  move (.order (order .mount (some 3) (some 7) (some .b) none)) (some (.drive 3)) (.volume 7)
def unmounting : Move := move (.order (order .unmount (some 3) (some 7) none none)) (some (.cell 89)) (.volume 7)
def importing0 : Move := move (.order (order .importIn none (some 7) none (some 88))) (some (.cell 0)) .nothing

theorem test_moves_met :
    (moved up mounting).Quiet ∧ (moved up unmounting).Quiet ∧ (moved up importing0).Quiet ∧
      importing0.probed = false ∧ (Run.of (moved up importing0)).locOf 4294967295 = none ∧
      (Run.of (moved (upVols [vol 7 .primary .missing]) importing0)).locOf 7 = some .missing :=
  ⟨up_quiet, up_quiet, up_quiet, rfl, by decide, by decide⟩

theorem test_handOff_met :
    up.startup.acting = true ∧ up.picker.gateOpen 89 = true ∧ (Run.of up).cellOccupied 89 = false ∧
      up.volumeIn (.cell 89) = none ∧ up.picker.orders = [] ∧
      ({ up.picker with hatch := .opened } : Picker).gateOpen 89 = false := by decide

theorem test_taken_met :
    (upVols [vol 7 .primary (.cell 89)]).Quiet ∧
      (upVols [vol 7 .primary (.cell 89)]).volumeIn (.cell 89) = some (vol 7 .primary (.cell 89)) ∧
      (upVols [vol 7 .primary (.cell 89)]).store.pair.claims 7 = false ∧
      (upVols [vol 7 .primary (.cell 89)]).store.pair.names 7 = false ∧
      (∀ x, some x ∈ (upVols [vol 7 .primary (.cell 89)]).store.volumes → x.serial = 7 → x.role ≠ .blank) := by
  refine ⟨up_quiet, by decide, rfl, rfl, fun x hx _ => ?_⟩
  have h : x = vol 7 .primary (.cell 89) := Option.some.inj (List.mem_singleton.1 hx)
  rw [h]
  decide

/-- An audit in hand. -/
def audit : Audit := { phase := .running, created := 0, missingBefore := [] }
def auditing (m : MoveFor) (dest : Option Place) (c : Carried) (vs : List Volume) : State :=
  { moved (upVols vs) (move m dest c) with
    picker := { up.picker with hatch := .auditing, audit := some audit, state := .moving,
                               move := some (move m dest c) } }

theorem test_hatch_met :
    up.startup.stage = .done ∧ up.startup.initNext = none ∧ up.picker.hatch = .locked ∧ up.picker.audit = none ∧
      up.picker.state ≠ .moving ∧ up.picker.hatchOps = [] ∧ (moved up mounting).picker.state = .moving ∧
      (auditing .reHome none .nothing []).picker.audit.isSome = true ∧ (hatched .opened).picker.hatch = .opened ∧
      (hatched .releasePending).picker.hatch = .releasePending ∧ (hatched .released).picker.hatch = .released := by
  decide

theorem test_window_met :
    ({ (hatched .released).picker with windowStart := some 0 } : Picker).windowStart = some 0 ∧
      (hatched .released).picker.hatch ≠ .opened ∧ (hatched .opened).picker.move = none ∧
      (moved (hatched .opened) mounting).picker.hatch = .opened ∧
      (moved (hatched .opened) mounting).picker.move.isSome = true := by decide

theorem test_audit_met :
    (auditing .reHome none .nothing []).volumeIn .hand = none ∧
      (auditing .reHome none .nothing [vol 7 .primary .hand]).volumeIn .hand = some (vol 7 .primary .hand) ∧
      (Run.of (auditing .reHome none .nothing [vol 7 .primary .hand])).putAwayCell (some 7) = some 0 ∧
      (auditing .putAway (some (.cell 89)) (.volume 7) []).picker.audit = some audit ∧ audit.phase = .running ∧
      (auditing (.probe 88) none .nothing []).volumeIn (.cell 88) = none ∧
      (auditing (.probe 0) none .nothing [vol 4294967295 .primary (.cell 0)]).volumeIn (.cell 0) =
        some (vol 4294967295 .primary (.cell 0)) := by decide

theorem test_auditEnd_met :
    (auditing (.probe 89) none .nothing []).toParts.Calm ∧
      (auditing (.probe 89) none .nothing []).volumeIn (.cell 89) = none ∧
      (auditing (.probe 89) none .nothing []).startup.started = true ∧
      (auditing (.probe 89) none .nothing []).picker.pendingRelease = none ∧
      (∀ v, some v ∈ (auditing (.probe 89) none .nothing []).store.volumes → v.role ≠ .unverified) :=
  ⟨up_calm, by decide, rfl, rfl, fun _ h => (List.not_mem_nil h).elim⟩

/-- The last probe of the power-up audit. -/
def lastProbe : State :=
  { auditing (.probe 89) none .nothing [] with
    startup := { StartUp.start false with stage := .audit, loadsIssued := true } }

theorem test_startUpEnd_met :
    lastProbe.startup.acting = true ∧ lastProbe.picker.move = some (move (.probe 89) none .nothing) ∧
      lastProbe.picker.audit = some audit ∧ lastProbe.toParts.Calm ∧ lastProbe.volumeIn (.cell 89) = none ∧
      lastProbe.startup.initNext = none ∧ lastProbe.picker.pendingRelease = none ∧ lastProbe.startup.stage = .audit ∧
      lastProbe.startup.started = false ∧ lastProbe.startup.cause = .powerUp :=
  ⟨rfl, rfl, rfl, up_calm, by decide, rfl, rfl, rfl, rfl, rfl⟩

/-! ### Premises of the statements on the drives -/

/-- A drive with volume 7, in a state, with a command. -/
def drive (st : DriveState) (c : Command) : Drive :=
  { Drive.start with state := st, loadFor := .mount, volume := some (.serial 7), command := some (issued c) }

/-- `up` with volume 7 in drive 3. -/
def driving (v : Drive) : State := { up with drives := up.drives.set 3 v }

theorem test_loads_met :
    (driving (drive .loading .load)).Quiet ∧ 3 < (driving (drive .loading .load)).drives.length ∧
      ((driving (drive .loading .load)).driveRec 3).volume = some (.serial 7) ∧
      ((driving (drive .loading .load)).driveRec 3).unloadAsked = false ∧
      ((driving (drive .loading .load)).driveRec 3).command = some (issued .load) ∧
      (LabelSector.bytes true []).wf = true ∧ (Run.of (driving (drive .loading .load))).confirmed 7 .a = false ∧
      ((driving (drive .loading .findWritePoint)).driveRec 3).command = some (issued .findWritePoint) ∧
      (driving (drive .loading .load)).store.pair = .absent :=
  ⟨up_quiet, by decide, by decide, by decide, by decide, by decide, by decide, by decide, rfl⟩

/-- Volume 7 with a confirmed side A. -/
def known : Volume :=
  { vol 7 .primary (.drive 3) with sideA := { writePoint := 20, confirmed := true, full := false, corrected := 0 } }

theorem test_confirmed_met :
    (Run.of { driving (drive .loading .load) with store := (upVols [known]).store }).confirmed 7 .a = true := by decide

theorem test_loadMismatch_met :
    ((driving (drive .loading .load)).driveRec 3).bufA = Buffer.blank ∧
      ((driving (drive .loading .load)).driveRec 3).bufB = Buffer.blank ∧
      (driving (drive .loading .load)).mover.streams = [] ∧ (driving (drive .loading .load)).mover.presented = none ∧
      (driving (drive .loading .load)).path.port = .free ∧ (8 : Nat) ≠ 7 ∧ Side.b ≠ .a ∧
      ((driving (drive .loading .load)).driveRec 3).loadFor = .mount := by decide

/-- Step 5 of the power-up, the LOAD of drive 3 in progress. -/
def powering : State :=
  { upVols [vol 7 .primary (.cell 0)] with
    startup := { StartUp.start false with stage := .drives, loadsIssued := true },
    drives := List.replicate 4 { Drive.start with command := some (issued .load) } }

theorem test_powerUpLoad_met :
    powering.toParts.Calm ∧ powering.startup.driveReported[2]? = some false ∧ (2 : Nat) ≠ 3 ∧
      (powering.driveRec 3).command = some (issued .load) ∧ (powering.driveRec 3).loadFor = .powerUp ∧
      powering.volumeIn (.drive 3) = none ∧ (∀ x ∈ powering.drives, x.volume ≠ some (.serial 7)) ∧
      (Run.of powering).volume 7 = some (vol 7 .primary (.cell 0)) ∧
      ((vol 7 .primary (.cell 0)).sideRec .a).confirmed = false :=
  ⟨up_calm, by decide, by decide, by decide, by decide, by decide, by decide, by decide, by decide⟩

/-- The Inventory records the volume in that same drive. -/
def poweringHere : State := { powering with store := (upVols [vol 7 .primary (.drive 3)]).store }

theorem test_powerUpLoadHere_met :
    poweringHere.toParts.Calm ∧ poweringHere.volumeIn (.drive 3) = some (vol 7 .primary (.drive 3)) ∧
      (Run.of poweringHere).volume 7 = some (vol 7 .primary (.drive 3)) ∧
      ((vol 7 .primary (.drive 3)).sideRec .a).confirmed = false := ⟨up_calm, by decide, by decide, by decide⟩

/-- A header READ, and a REREAD of position 0, for the page task of frame 1 on drive 3. -/
def headerTask : Machine.Task :=
  { frame := 1, loc := place, carrier := none, phase := .header, drive := some 3, origin := false }
def headerBuffer : Buffer :=
  { Buffer.blank with state := .reading, serves := some (.task 1), start := 16, count := 1 }
def reading (c : Command) : State :=
  { driving { drive .busy c with bufA := headerBuffer } with
    retr := { up.retr with tasks := [headerTask] },
    media := { up.media with judging := [{ judged with positions := [(0, .pending 1 5)] }] } }

theorem test_rereads_met :
    (reading .read).sched.assigns = List.replicate 4 Assign.clear ∧ ((reading .read).driveRec 3).state = .busy ∧
      ((reading .read).driveRec 3).command = some (issued .read) ∧ ((reading .read).driveRec 3).rereads = [] ∧
      ((reading .read).driveRec 3).bufA = headerBuffer ∧ ((reading .read).driveRec 3).bufB = Buffer.blank ∧
      headerBuffer.start = headerTask.loc.sector ∧
      (reading .read).retr.tasks.find? (fun x => x.frame == 1) = some headerTask ∧ 0 < up.settings.retry ∧
      ((reading .reread).media.judging.find? (fun j => j.frame == 1)).bind (fun j => j.get 0) = some (.pending 1 5) ∧
      (4294967295 : Nat) ≠ 5 ∧ 1 < up.settings.retry := by decide

/-- A data READ's buffer whose position 2 is pending, and its REREAD. -/
def dataReread (reads latest : Nat) : State :=
  { driving { drive .busy .reread with
      command := some { issued .reread with start := 18, pos := 2 },
      bufA := { headerBuffer with state := .held, count := 2,
                                  positions := List.replicate 3 { report := .clean, data := [] } } } with
    retr := { up.retr with tasks := [headerTask] },
    media := { up.media with judging := [{ judged with positions := [(2, .pending reads latest)] }] } }

theorem test_dataRereads_met :
    ((dataReread 1 65537).driveRec 3).command = some { issued .reread with start := 18, pos := 2 } ∧
      ((dataReread 1 65537).media.judging.find? (fun j => j.frame == 1)).bind (fun j => j.get 2) =
        some (.pending 1 65537) ∧
      (dataReread 1 65537).settings.correction = true ∧ decodable 65537 = true ∧
      2 < ((dataReread 1 65537).driveRec 3).bufA.positions.length ∧ (dataReread 1 65537).media.log.length < 32 ∧
      (dataReread 1 65537).media.counter < 4294967295 ∧ (65537 : Nat) ≠ 65538 ∧
      (dataReread 2 65538).settings.retry ≤ 2 ∧
      ((dataReread 2 65538).media.judging.find? (fun j => j.frame == 1)).bind (fun j => j.get 2) =
        some (.pending 2 65538) := by decide

/-- A header sector of the page, and the READs of frame 1's page: its header, and its two data sectors. -/
def goodHeader : List Byte :=
  pageMark ++ leBytes 4 7 ++ leBytes 4 16 ++ leBytes 4 2000 ++ [1, 0, 0, 0] ++ leBytes 4 9
def fillingFrame : Frame := .filling place .started none 0 false false []
def cleanHeader : State := { reading .read with frame := (upFrame 1 fillingFrame).frame }
def dataReading : State :=
  { driving { drive .busy .read with
      command := some { issued .read with start := 17, count := 2, pos := 1 },
      bufA := { headerBuffer with start := 17, count := 2, positions := [{ report := .clean, data := goodHeader }] } } with
    frame := (upFrame 1 (.filling place .started (some page) 0 false false [])).frame,
    retr := { up.retr with tasks := [{ headerTask with phase := .data }] },
    media := { up.media with judging := [judged] } }

/-- The REREAD of position 0, pending after one read. -/
def headerReread : State :=
  { driving { drive .busy .reread with
      bufA := { headerBuffer with state := .held, positions := [{ report := .syndrome 5, data := [] }] } } with
    frame := cleanHeader.frame, retr := cleanHeader.retr, media := cleanHeader.media }

theorem test_cleanReads_met :
    acceptHeader place goodHeader = some (page, false) ∧ acceptHeader place [] = none ∧
      cleanHeader.mover.streams = [] ∧ cleanHeader.frameAt 1 = fillingFrame ∧
      (cleanHeader.driveRec 3).command = some (issued .read) ∧ (cleanHeader.driveRec 3).bufA.count = 1 ∧
      (dataReading.driveRec 3).command = some { issued .read with start := 17, count := 2, pos := 1 } ∧
      (dataReading.driveRec 3).bufA.count = 2 ∧
      (headerReread.driveRec 3).command = some (issued .reread) ∧ (headerReread.driveRec 3).bufA.positions.length = 1 ∧
      (headerReread.media.judging.find? (fun j => j.frame == 1)).bind (fun j => j.get 0) = some (.pending 1 5) ∧
      2 < ((dataReread 1 65537).driveRec 3).bufA.positions.length := by decide +kernel

/-- An item whose two copies are in drives 3 and 2. -/
def item (a b : CopyState) : Flight :=
  { id := 1, item := .page 0, job := some 1, start := 0, length := 2, side := .a,
    primary := some { serial := 7, drive := 3, buf := 0, state := a },
    safety := some { serial := 8, drive := 2, buf := 0, state := b } }

/-- The BURN of a buffer on drive 3, and its VERIFY while the other copy has no result. -/
def burning : State := driving { drive .busy .burn with bufA := { Buffer.blank with state := .burning } }
def verifying : State :=
  { driving { drive .busy .verify with bufA := { Buffer.blank with state := .verifying, serves := some (.item 1) } } with
    filing := { up.filing with flight := [item .handed .handed] } }

theorem test_burn_met :
    (burning.driveRec 3).state = .busy ∧ (burning.driveRec 3).command = some (issued .burn) ∧
      ((burning.driveRec 3).buf 0).state = .burning ∧ ((burning.driveRec 3).buf 1).burned = false := by decide

/-- A BURN of buffer B on drive 3, of an item in flight. -/
def burningB : State :=
  { driving { drive .busy .burn with
      command := some { issued .burn with buf := 1 },
      bufB := { Buffer.blank with state := .burning, serves := some (.item 1) } } with
    filing := { up.filing with flight := [item .handed .handed] },
    sched := { up.sched with assigns := up.sched.assigns.set 3 { Assign.clear with holder := some 1 } } }

theorem test_burnFault_met :
    (burningB.driveRec 3).command = some { issued .burn with buf := 1 } ∧
      ((burningB.driveRec 3).buf 1).state = .burning ∧ ((burningB.driveRec 3).buf 1).serves = some (.item 1) ∧
      (burningB.driveRec 3).buf (1 - 1) = Buffer.blank ∧ burningB.startup.inService = true ∧ burningB.restores = [] ∧
      burningB.mover.streams = [] ∧ burningB.mover.presented = none ∧
      ((Run.of burningB).assignAt 3).holder = some 1 := by decide

theorem test_verify_met :
    3 < verifying.drives.length ∧ (verifying.driveRec 3).command = some (issued .verify) ∧ (issued .verify).buf < 2 ∧
      ((verifying.driveRec 3).buf 0).serves = some (.item 1) ∧
      verifying.mover.streams.find? (fun y => y.idx == 2 * 3 + 0) = none ∧
      verifying.mover.presented ≠ some (2 * 3 + 0) := by decide

/-- The last read of the stream that loads buffer A of drive 3 with frame 1's page, for the job in hand. -/
def burnJob : Job := { importJob with kind := .file, pair := some { primary := 7, safety := 8, side := .a, placed := true } }
def burnRecord : BurnJob :=
  { job := 1, slot := some 63, entry := none, deedClass := 1, deedSeq := 9, pageIndex := 0, stamp := [], origin := none,
    pages := [], waiting := [], failing := none }
def pageStream : Stream := { idx := 6, frame := 1, loading := true, pos := 2, done := 62, total := 63, acc := [] }
def loading : State :=
  { driving { drive .busy .load with
      command := none, bufA := { Buffer.blank with state := .loading, serves := some (.item 1) } } with
    frame := (upFrame 1 (.filing none page 1 [])).frame,
    path := { up.path with port := .mover .frameMover (.stream 6) },
    mover := { up.mover with streams := [pageStream] },
    filing := { up.filing with flight := [item .loading .loading], burns := [burnRecord] },
    store := { up.store with pair := .active 7 8 .a },
    sched := { up.sched with jobs := [burnJob] } }

theorem test_loaded_met :
    loading.path.port = .mover .frameMover (.stream pageStream.idx) ∧
      loading.mover.streams.find? (fun y => y.idx == pageStream.idx) = some pageStream ∧
      loading.mover.presented = none ∧ pageStream.loading = true ∧ 0 < pageStream.frame ∧
      pageStream.idx = 2 * 3 ∧ pageStream.done + 1 = pageStream.total ∧
      (loading.driveRec 3).bufA.serves = some (.item (item .loading .loading).id) ∧
      loading.filing.flight = [item .loading .loading] ∧
      ({ serial := 8, drive := 2, buf := 0, state := .loading } : Copy) ∈ (item .loading .loading).copies ∧
      loading.store.pair = .active 7 8 .a ∧ (Run.of loading).inHand = some burnJob ∧
      (Run.of loading).burnAt burnJob.id = some burnRecord ∧ (loading.frameAt 1).imageLen = 2000 ∧
      loading.mem.faults (131072 * 1 + 32 * 62) (min 32 (4 * ceilDiv 2000 4 - 32 * 62)) = false := by decide

/-- The VERIFY of one copy with the burn job in hand and the other copy still in its drive. -/
def burningJob : State :=
  { verifying with
    filing := { up.filing with flight := [item .handed .handed], burns := [burnRecord] },
    store := { up.store with pair := .active 7 8 .a },
    sched := { up.sched with jobs := [burnJob] } }

theorem test_verifyInHand_met :
    burningJob.startup.stage ≠ .drives ∧ burningJob.sched.queues.flatten = [] ∧
      burningJob.store.pair = .active 7 8 .a ∧ (Run.of burningJob).inHand = some burnJob ∧ burnJob.state = .running ∧
      (Run.of burningJob).burnAt burnJob.id = some burnRecord ∧ burnRecord.waiting = [] ∧ burnRecord.failing = none ∧
      burningJob.filing.flight ≠ [] ∧
      (∀ f ∈ burningJob.filing.flight, ∃ y ∈ f.copies, y.drive ≠ 3 ∧ y.state = .handed) ∧
      (∀ x ∈ burningJob.sched.assigns, x.tasks = [] ∧ x.flip = none ∧ x.departure = none ∧ x.incoming = none ∧
        x.label = none) ∧
      (burningJob.driveRec 3).state = .busy ∧ (burningJob.driveRec 3).buf 1 = Buffer.blank ∧
      (burningJob.driveRec 3).rereads = [] ∧ (burningJob.driveRec 3).asks = [] ∧
      (burningJob.driveRec 3).unloadAsked = false := by decide

theorem test_unload_met :
    ((driving (drive .unloading .unload)).driveRec 3).command = some (issued .unload) ∧
      ((driving (drive .unloading .unload)).driveRec 3).reloadNext = false ∧
      (driving (drive .unloading .unload)).restores = [] ∧ (driving (drive .unloading .unload)).picker.orders = [] ∧
      ((driving { drive .unloading .unload with reloadNext := true }).driveRec 3).reloadNext = true ∧
      ((driving (drive .fault .restore)).driveRec 3).command = some (issued .restore) ∧
      (issued .restore).discard = false := by decide

theorem test_driveTimeout_met :
    (driving (drive .unloading .unload)).Quiet ∧ (driving (drive .loading .findWritePoint)).Quiet ∧
      (driving (drive .loading .load)).Quiet ∧ (driving (drive .loading .load)).mover.presented = none ∧
      ((driving (drive .loading .load)).driveRec 3).loadFor = .mount ∧
      ((driving (drive .loading .load)).driveRec 3).bufA = Buffer.blank ∧
      ((driving (drive .loading .load)).driveRec 3).bufB = Buffer.blank :=
  ⟨up_quiet, up_quiet, up_quiet, rfl, by decide, by decide, by decide⟩

/-! ### Premises of the statements on copier ports and relocation -/

theorem test_sweepIdle_met : sweeping.startup.inService = true ∧ sweeping.fee.cursor 7 = some cursor := by decide

/-- A relocation job of frame 255 that has not taken its hold, while another burn job runs. -/
def relocation : RelocJob := { frame := 255, old := place, entry := 63, entries := [], job := none }
def relocating : State :=
  { upFrame 255 (.sealed place page false false []) with
    media := { up.media with relocJobs := [relocation] },
    sched := { up.sched with jobs := [burnJob], nextJob := 2 } }

theorem test_relocation_met :
    relocating.media.relocJobs.find? (fun q => q.frame == 255 && q.job.isNone) = some relocation ∧
      255 ≤ relocating.frame.frames.length ∧ relocating.frameAt 255 = .sealed place page false false [] ∧
      place = relocation.old ∧ { place with sector := 17 } ≠ relocation.old ∧ relocating.startup.acting = true ∧
      relocating.sched.queues = [[], [], [], []] ∧ (∀ j ∈ relocating.sched.jobs, j.id ≠ relocating.sched.nextJob) ∧
      (∃ j ∈ relocating.sched.jobs, j.kind = .file ∧ j.state = .running) := by decide +kernel

/-- The relocation job of frame 255 in hand, its page passed on drive 2 and in its VERIFY on drive 3. -/
def settlingEntry : RelocJob := { relocation with job := some 1 }
def settlingJob : Job := { burnJob with kind := .relocation 63, slot := none }
def settlingPage : BurnPage := { frame := 255, imageLen := 2000, attempts := 0, placed := none }
def settlingBurn : BurnJob := { burnRecord with slot := none, entry := some 63, origin := some place, pages := [settlingPage] }
def settling : State :=
  { verifying with
    frame := (upFrame 255 (.sealed place page false false [.relocation 63])).frame,
    media := { up.media with relocJobs := [settlingEntry] },
    store := { up.store with volumes := [some (vol 7 .primary (.drive 3)), some (vol 8 .safety (.drive 2))],
                             relocs := up.store.relocs.set 63 (.reserved place), pair := .active 7 8 .a },
    filing := { up.filing with flight := [item .handed .passed], burns := [settlingBurn] },
    sched := { up.sched with
      jobs := [settlingJob],
      assigns := [Assign.clear, Assign.clear, { Assign.clear with holder := some 1 }, { Assign.clear with holder := some 1 }] } }

theorem test_relocated_met :
    settling.startup.inService = true ∧ settling.startup.stage ≠ .drives ∧
      (settling.driveRec 3).command = some (issued .verify) ∧
      ((settling.driveRec 3).buf 0).serves = some (.item (item .handed .passed).id) ∧
      (settling.driveRec 3).buf 1 = Buffer.blank ∧ (settling.driveRec 3).state = .busy ∧
      (settling.driveRec 3).rereads = [] ∧ (settling.driveRec 3).asks = [] ∧
      (settling.driveRec 3).unloadAsked = false ∧ settling.mover.streams = [] ∧ settling.mover.presented = none ∧
      settling.filing.closeOps = [] ∧ settling.sched.queues = [[], [], [], []] ∧ settling.sched.suspended = [] ∧
      (∀ a ∈ settling.sched.assigns, a = Assign.clear ∨ a = { Assign.clear with holder := some settlingJob.id }) ∧
      settling.retr.tasks = [] ∧ settling.retr.fetches = [] ∧ settling.picker.orders = [] ∧ settling.restores = [] ∧
      settling.store.relocs[settlingEntry.entry]? = some (.reserved settlingEntry.old) ∧
      settling.frameAt 255 = .sealed place page false false [.relocation 63] ∧ settling.fee.grantCount 255 = 0 ∧
      255 ∉ settling.frame.reclaim := by decide +kernel

/-- R167: the settled relocation fills its entry, drops its hold and ends its job. -/
theorem test_relocationSettles :
    (match exec (.verifyComplete 3 .pass) settling with
     | .next t => decide (t.store.relocs[63]? = some (.awaitingAck place { serial := 7, side := .a, sector := 0 }) ∧
         t.frame.reclaim = [255] ∧ t.sched.jobs = [] ∧ t.media.relocJobs = [])
     | _ => false) = true := by decide +kernel

end Sys2Proof.Tests
end

namespace Sys2Proof.Machine

open Sys2Proof.Config

/-! ### Power-up and the control-area check (R19, R190) -/

/-- A frame of an empty grant table has no grants. -/
theorem FeeMeter.grantCount_start (fees : List FeeRow) (n : Nat) : (FeeMeter.start fees).grantCount n = 0 := by
  unfold FeeMeter.grantCount FeeMeter.start
  rw [List.filter_replicate, if_neg Bool.false_ne_true, List.length_nil]

/-- The cells outside frame 0 read the same once the cells of frame 0 are gone. -/
theorem cellAt_filter_outside (cs : List Host.Cell) (a : Nat) (h : frameBytes ≤ a) :
    cellAt (cs.filter (fun c => frameBytes ≤ c.1)) a = cellAt cs a := by
  induction cs with
  | nil => rfl
  | cons c cs ih =>
    by_cases hc : frameBytes ≤ c.1
    · simp [hc, cellAt, ih]
    · have hne : c.1 ≠ a := by omega
      simp [hc, cellAt, ih, hne]

/-- The control-area check writes only frame 0 (R190). -/
theorem Memory.read_checked_outside (m : Memory) (result : CheckResult) (a : Nat) (h : frameBytes ≤ a) :
    (m.checked result).read a = m.read a := by
  have hn : ¬ a < frameBytes := by omega
  simp [Memory.read, Memory.checked, Memory.unlisted, cellAt_filter_outside _ _ h, hn]

/-- Settles O12: the power-up's records are those of `Parts.start`, and the check touches frame 0 alone. -/
theorem powerUpMakesEveryFrameEmpty : Obligations.PowerUpMakesEveryFrameEmpty := by
  unfold Obligations.PowerUpMakesEveryFrameEmpty
  refine ⟨fun s delivered hoff => ⟨s.poweredUp delivered, ?_, rfl, rfl, rfl, rfl, ?_, rfl⟩, fun s result hwf hstage => ?_⟩
  · show execPowerUp delivered s = _
    unfold execPowerUp
    rw [if_pos hoff, outcome_wf _ _ rfl]
  · exact fun n => FeeMeter.grantCount_start _ n
  · refine ⟨State.act { s with mem := s.mem.checked result } (fun r => r.checkEnds result), ?_, fun a ha => ?_⟩
    · show execControlAreaCheckDone result s = _
      unfold execControlAreaCheckDone
      rw [if_pos hstage, outcome_wf _ _ hwf]
    · rw [State.act_mem]
      exact Memory.read_checked_outside s.mem result a ha

end Sys2Proof.Machine

namespace Sys2Proof.Machine

open Sys2Proof.Config

/-! ### One write of a slot's state word (R26, R48) -/

/-- The state word of a slot lies in the slot's block (R24). -/
theorem regionOf_slotBase (n : Nat) (hn : n < 64) : regionOf (slotBase n) = .stateWord n := by
  have h1 : (4096 + 512 * n - 4096) / 512 = n := by omega
  have h2 : (4096 + 512 * n - 4096) % 512 = 0 := by omega
  have h3 : 4096 + 512 * n < 36864 := by omega
  have h4 : ¬ 4096 + 512 * n < 4096 := by omega
  have h5 : 4096 + 512 * n ≠ 256 ∧ 4096 + 512 * n ≠ 260 ∧ 4096 + 512 * n ≠ 264 ∧ 4096 + 512 * n ≠ 268 := by omega
  simp only [regionOf, slotBase, h1, h2, h3, h4, h5, if_true, if_false]

/-- A 4-byte write is a transfer of one word. -/
theorem writeOf_words (m a v : Nat) : (writeOf m a v).words = [a] := by
  simp [Transfer.words, writeOf]

/-- The value of the one word of a 4-byte write. -/
theorem writeOf_wordValue (m a v : Nat) (hv : v < 4294967296) : (writeOf m a v).wordValue a = v := by
  simp only [Transfer.wordValue, Transfer.wordBytes, writeOf, leBytes, fromLe, Nat.sub_self, List.drop_zero, List.take,
    BitVec.toNat_ofNat]
  omega

/-- The Slot Unit judges a PROCESSOR's write of a state word (R26, R48). -/
theorem Run.arriveControl_stateWord (r : Run) (m n v : Nat) (hn : n < 64) (hv : v < 4294967296)
    (hm : r.settings.agent m = .processor) :
    r.arriveControl (writeOf m (slotBase n) v) =
      (if (r.writeState m n v).1 = .refused then
          (r.writeState m n v).2.violation m (slotBase n) .slotProtocol
        else (r.writeState m n v).2).answer m .written := by
  have hp : r.isProcessor m = true := by simp [Run.isProcessor, hm, Agent.cls]
  have hw : r.writeWord true m (slotBase n) = .state n := by simp [Run.writeWord, regionOf_slotBase n hn]
  have hpass : r.passedWords (writeOf m (slotBase n) v) = [] := by
    simp only [Run.passedWords, writeOf_words]
    simp [writeOf, hp, hw]
  have hmaster : (writeOf m (slotBase n) v).master = m := rfl
  have hwrite : (writeOf m (slotBase n) v).write = true := rfl
  simp only [Run.arriveControl, hpass, hmaster, hm, hwrite, List.isEmpty_nil, if_true, Run.composeWrite, writeOf_words,
    hp, hw, List.map_cons, List.map_nil, List.foldl_cons, List.foldl_nil, writeOf_wordValue _ _ _ hv, Run.takeWord,
    Option.orElse]
  by_cases href : (r.writeState m n v).1 = .refused <;> simp [href]

/-- A transfer to frame 0 that finds the part in service and the bus free arrives in the control area (R23, R37). -/
theorem State.busTransfer_control (s : State) (t : Transfer) (hs : s.Ready) (ht : t.addr < frameBytes) :
    s.busTransfer t = s.act (fun r => r.arriveControl t) := by
  obtain ⟨hin, hbus⟩ := hs
  have hoff : s.startup.stage ≠ .off := by intro h; simp [StartUp.inService, h] at hin
  have hfail : s.startup.stage ≠ .failed := by intro h; simp [StartUp.inService, h] at hin
  have harr : (Run.of s).arrive t = (Run.of s).arriveControl t := by simp [Run.arrive, hfail, ht, hin]
  simp only [State.busTransfer, hoff, hbus, State.act, harr, ne_eq, not_false_eq_true, and_self, if_true]

/-! ### Dropping the holds of one holder (R2, R6, R15) -/

/-- A frame after a holder has gone. -/
def Frame.without (f : Frame) (h : Holder) : Frame := f.withHolders (f.holders.filter (fun x => x != h))

/-- A frame without the holder stays as it was. -/
theorem Frame.without_of_notMem (f : Frame) (h : Holder) (hf : h ∉ f.holders) : f.without h = f := by
  have hfil : f.holders.filter (fun x => x != h) = f.holders := by
    rw [List.filter_eq_self]
    intro x hx
    simpa using fun e : x = h => hf (e ▸ hx)
  rw [Frame.without, hfil]
  cases f <;> rfl

/-- The record of image frame `i + 1` is entry `i` of the frame records. -/
theorem Run.frameAt_succ (r : Run) (i : Nat) (f : Frame) (h : r.frame.frames[i]? = some f) : r.frameAt (i + 1) = f := by
  simp [Run.frameAt, h]

/-- The record of an image frame that has just been written. -/
theorem Run.setFrame_frameAt (r : Run) (n : Nat) (f : Frame) (h0 : 0 < n) (hn : n ≤ r.frame.frames.length) :
    (r.setFrame n f).frameAt n = f := by
  have hlt : n - 1 < r.frame.frames.length := by omega
  simp [Run.setFrame, Run.frameAt, Nat.ne_of_gt h0, hlt]

/-- The going of a holder leaves a frame with no holder and no grant: it joins the reclaim list (R6, R15). -/
def Run.reclaimable (r : Run) (h : Holder) (k : Nat) : Prop :=
  h ∈ (r.frameAt k).holders ∧ (∀ x ∈ (r.frameAt k).holders, x = h) ∧ r.fee.grantCount k = 0

/-- What the dropping of a holder from the first `k` image frames leaves, where each of them that it holds is
SEALED: the frames without it, and the frames it leaves free of holders and grants on the reclaim list. -/
structure Run.DroppedTo (r : Run) (h : Holder) (k : Nat) (r' : Run) : Prop where
  other : r' = { r with frame := r'.frame, todo := r'.todo }
  frames : ∀ i, r'.frame.frames[i]? = (r.frame.frames[i]?).map (fun f => if i < k then f.without h else f)
  emptyList : r'.frame.emptyList = r.frame.emptyList
  waitQueue : r'.frame.waitQueue = r.frame.waitQueue
  reclaim : ∀ m, m ∈ r'.frame.reclaim ↔ m ∈ r.frame.reclaim ∨ (0 < m ∧ m ≤ k ∧ r.reclaimable h m)
  todo : r'.todo = [] ∨ r'.todo = [.service]

/-- Two changes of the Frame Unit and of what is listed, one after the other. -/
theorem Run.onlyFrames_trans {r r' u : Run} (h : r' = { r with frame := r'.frame, todo := r'.todo })
    (hu : u = { r' with frame := u.frame, todo := u.todo }) : u = { r with frame := u.frame, todo := u.todo } :=
  hu.trans (congrArg (fun x : Run => { x with frame := u.frame, todo := u.todo }) h)

/-- A frame that the holder does not hold is passed over. -/
theorem Run.dropHold_of_notMem (r : Run) (n : Nat) (h : Holder) (hn : h ∉ (r.frameAt n).holders) : r.dropHold n h = r := by
  simp [Run.dropHold, hn]

/-- The reclaim test of a SEALED frame (R6, R15). -/
theorem Run.checkReclaim_sealed (r : Run) (n : Nat) (tag : Location) (info : PageInfo) (d c : Bool) (hs : List Holder)
    (hf : r.frameAt n = .sealed tag info d c hs) :
    r.checkReclaim n =
      if hs = [] ∧ r.fee.grantCount n = 0 ∧ n ∉ r.frame.reclaim then
        Run.serveFirst { r with frame := { r.frame with reclaim := r.frame.reclaim ++ [n] } }
      else r := by
  unfold Run.checkReclaim
  rw [hf]
  cases hs with
  | nil => simp
  | cons x xs => simp

/-- Dropping a hold on a SEALED frame is followed by the reclaim test (R15). -/
theorem Run.dropHold_sealed (r : Run) (n : Nat) (h : Holder) (tag : Location) (info : PageInfo) (d c : Bool)
    (hs : List Holder) (hf : r.frameAt n = .sealed tag info d c hs) (hm : h ∈ hs) :
    r.dropHold n h = (r.setFrame n (.sealed tag info d c (hs.filter (fun x => x != h)))).checkReclaim n := by
  simp [Run.dropHold, hf, Frame.holders, Frame.withHolders, hm]


/-- Among the first `k + 1` numbers is `k + 1` besides the first `k`. -/
theorem Run.reclaimable_succ (r : Run) (h : Holder) (k m : Nat) :
    (0 < m ∧ m ≤ k + 1 ∧ r.reclaimable h m) ↔
      (0 < m ∧ m ≤ k ∧ r.reclaimable h m) ∨ (m = k + 1 ∧ r.reclaimable h (k + 1)) := by
  constructor
  · rintro ⟨h0, hle, hm⟩
    rcases Nat.lt_or_eq_of_le hle with hlt | rfl
    · exact .inl ⟨h0, by omega, hm⟩
    · exact .inr ⟨rfl, hm⟩
  · rintro (⟨h0, hle, hm⟩ | ⟨rfl, hm⟩)
    · exact ⟨h0, by omega, hm⟩
    · exact ⟨by omega, by omega, hm⟩

/-- The frame to be looked at next is as it was. -/
theorem Run.DroppedTo.next {r r' : Run} {h : Holder} {k : Nat} (d : r.DroppedTo h k r') (f : Frame)
    (hk : r.frame.frames[k]? = some f) : r'.frame.frames[k]? = some f := by
  rw [d.frames, hk]; simp

/-- The frame records once frame `k + 1` has lost the holder. -/
theorem Run.DroppedTo.frames_succ {r r' : Run} {h : Holder} {k : Nat} (d : r.DroppedTo h k r') (f : Frame)
    (hk : r.frame.frames[k]? = some f) (i : Nat) :
    (r'.frame.frames.set k (f.without h))[i]? =
      (r.frame.frames[i]?).map (fun f => if i < k + 1 then f.without h else f) := by
  have hlt := (List.getElem?_eq_some_iff.1 (d.next f hk)).1
  rw [List.getElem?_set]
  by_cases hik : k = i
  · subst hik
    simp [hlt, hk]
  · have hsame : i < k + 1 ↔ i < k := by omega
    simp only [hik, if_false, d.frames, hsame]

/-- The next frame in the dropping of a holder (R46). -/
theorem Run.DroppedTo.step {r r' : Run} {h : Holder} {k : Nat} (d : r.DroppedTo h k r') (f : Frame)
    (hk : r.frame.frames[k]? = some f) (hf : h ∈ f.holders → ∃ tag info d c hs, f = .sealed tag info d c hs) :
    r.DroppedTo h (k + 1) (r'.dropHold (k + 1) h) := by
  have hat' : r'.frameAt (k + 1) = f := r'.frameAt_succ k f (d.next f hk)
  have hat : r.frameAt (k + 1) = f := r.frameAt_succ k f hk
  have hnew := d.frames_succ f hk
  by_cases hh : h ∈ f.holders
  · obtain ⟨tag, info, dm, co, hs, rfl⟩ := hf hh
    have hwithout : (Frame.sealed tag info dm co hs).without h =
        .sealed tag info dm co (hs.filter (fun x => x != h)) := rfl
    rw [hwithout] at hnew
    rw [r'.dropHold_sealed _ h tag info dm co hs hat' hh]
    have hlt := (List.getElem?_eq_some_iff.1 (d.next _ hk)).1
    have hset := r'.setFrame_frameAt (k + 1) (.sealed tag info dm co (hs.filter (fun x => x != h))) (by omega) (by omega)
    rw [Run.checkReclaim_sealed _ _ tag info dm co _ hset]
    have hcount : r'.fee.grantCount (k + 1) = r.fee.grantCount (k + 1) := by rw [d.other]
    have hfree : r.reclaimable h (k + 1) ↔ hs.filter (fun x => x != h) = [] ∧ r.fee.grantCount (k + 1) = 0 := by
      have : h ∈ hs := hh
      simp [Run.reclaimable, hat, Frame.holders, this, List.filter_eq_nil_iff]
    have hframe : r'.setFrame (k + 1) (.sealed tag info dm co (hs.filter (fun x => x != h))) =
        { r' with frame := { r'.frame with
          frames := r'.frame.frames.set k (.sealed tag info dm co (hs.filter (fun x => x != h))) } } :=
      if_neg (by omega)
    rw [hframe]
    split
    next hcond =>
      obtain ⟨hnil, hzero, hout⟩ := hcond
      have hr : r.reclaimable h (k + 1) := hfree.2 ⟨hnil, hcount ▸ hzero⟩
      refine ⟨?_, hnew, d.emptyList, d.waitQueue, fun m => ?_, .inr ?_⟩
      · exact Run.onlyFrames_trans d.other rfl
      · simp only [Run.serveFirst_frame, List.mem_append, List.mem_singleton, d.reclaim m, r.reclaimable_succ, hr,
          and_true, or_assoc]
      · rcases d.todo with ht | ht <;> simp [Run.serveFirst, ht]
    next hcond =>
      refine ⟨?_, hnew, d.emptyList, d.waitQueue, fun m => ?_, d.todo⟩
      · exact Run.onlyFrames_trans d.other rfl
      · have hin : r.reclaimable h (k + 1) → k + 1 ∈ r.frame.reclaim := fun hr => by
          obtain ⟨hnil, hzero⟩ := hfree.1 hr
          have hmem : k + 1 ∈ r'.frame.reclaim := by
            by_contra hout
            exact hcond ⟨hnil, hcount.trans hzero, hout⟩
          exact ((d.reclaim _).1 hmem).resolve_right (fun hle => by omega)
        rw [d.reclaim m, r.reclaimable_succ]
        refine or_congr_right' fun hm => ⟨.inl, fun hor => hor.resolve_right ?_⟩
        rintro ⟨rfl, hr⟩
        exact hm (hin hr)
  · rw [r'.dropHold_of_notMem _ _ (by rw [hat']; exact hh)]
    refine ⟨d.other, fun i => ?_, d.emptyList, d.waitQueue, fun m => ?_, d.todo⟩
    · rw [← hnew i, Frame.without_of_notMem f h hh]
      obtain ⟨hlt, he⟩ := List.getElem?_eq_some_iff.1 (d.next f hk)
      rw [← he, List.set_getElem_self]
    · have hnot : ¬ r.reclaimable h (k + 1) := fun hr => hh (by have := hr.1; rwa [hat] at this)
      rw [d.reclaim m, r.reclaimable_succ]
      simp [hnot]

/-- Every hold of a holder of SEALED frames is dropped (R46). -/
theorem Run.dropHolds_droppedTo (r : Run) (h : Holder) (ht : r.todo = [])
    (hf : ∀ f ∈ r.frame.frames, h ∈ f.holders → ∃ tag info d c hs, f = .sealed tag info d c hs) :
    r.DroppedTo h r.frame.frames.length (r.dropHolds h) := by
  suffices ∀ k ≤ r.frame.frames.length, r.DroppedTo h k ((List.range k).foldl (fun r i => r.dropHold (i + 1) h) r) from
    this _ (Nat.le_refl _)
  intro k hk
  induction k with
  | zero => exact ⟨rfl, by simp, rfl, rfl, fun m => by simp; omega, .inl ht⟩
  | succ k ih =>
    have hget : r.frame.frames[k]? = some r.frame.frames[k] := List.getElem?_eq_getElem hk
    rw [List.range_succ, List.foldl_append]
    exact (ih (Nat.le_of_succ_le hk)).step _ hget (hf _ (List.getElem_mem hk))

/-- With no job waiting for frames, the service that the dropped holds call for does nothing (R9, R46). -/
theorem Run.releaseHolds_sealed (r : Run) (n : Nat) (ht : r.todo = []) (hw : r.frame.waitQueue = [])
    (hf : ∀ f ∈ r.frame.frames, Holder.slot n ∈ f.holders → ∃ tag info d c hs, f = .sealed tag info d c hs) :
    r.releaseHolds n = { r with frame := (r.dropHolds (.slot n)).frame } := by
  have d := r.dropHolds_droppedTo (.slot n) ht hf
  have hwait : (r.dropHolds (.slot n)).frame.waitQueue = [] := d.waitQueue.trans hw
  have hserved : r.releaseHolds n = { r.dropHolds (.slot n) with todo := [] } := by
    rcases d.todo with h | h
    · simp only [Run.releaseHolds, Run.serveListed, h]
      rw [← h]
    · simp only [Run.releaseHolds, Run.serveListed, h]
      exact Run.service_idle _ hwait
  rw [hserved]
  exact (congrArg (fun u : Run => { u with todo := [] }) d.other).trans (by rw [← ht])

/-- Withdrawing the grants of a slot that owns none attached to a frame changes nothing (R176). -/
theorem Run.withdraw_none (r : Run) (p : Grant → Bool)
    (hg : ∀ g, some g ∈ r.fee.grants → g.frame.isSome = true → p g = false) : r.withdraw p = r := by
  have hgone : r.fee.grants.filterMap (fun o => o.bind (fun g => if g.frame.isSome && p g then some g else none)) = [] := by
    rw [List.filterMap_eq_nil_iff]
    rintro (_ | g) hm
    · rfl
    · cases hfr : g.frame.isSome
      · simp [hfr]
      · simp [hg g hm hfr]
  have hkeep : r.fee.grants.map (fun o => o.bind (fun g => if g.frame.isSome && p g then none else some g)) =
      r.fee.grants := by
    refine (List.map_congr_left ?_).trans (List.map_id _)
    rintro (_ | g) hm
    · rfl
    · cases hfr : g.frame.isSome
      · simp [hfr]
      · simp [hg g hm hfr]
  simp only [Run.withdraw, hgone, Run.mapGrants, hkeep, List.foldl_nil]

/-- An ended request's slot is freed and its holds are dropped, where it holds SEALED frames only, owns no grant
attached to a frame, and no job waits for frames (R46). -/
theorem Run.releaseEnded_sealed (r : Run) (n : Nat) (ht : r.todo = []) (hw : r.frame.waitQueue = [])
    (hf : ∀ f ∈ r.frame.frames, Holder.slot n ∈ f.holders → ∃ tag info d c hs, f = .sealed tag info d c hs)
    (hg : ∀ g, some g ∈ r.fee.grants → g.frame.isSome = true → g.slot ≠ n) :
    r.releaseEnded n =
      { r.modSlot n (fun _ => SlotRec.blank) with frame := (r.dropHolds (.slot n)).frame } := by
  unfold Run.releaseEnded
  rw [r.releaseHolds_sealed n ht hw hf]
  refine Run.withdraw_none _ _ fun g hm hfr => ?_
  simpa using hg g hm hfr

/-- A write of FREE to the state word of an ended request's slot is taken (R48). -/
theorem Run.writeState_free_ended (r : Run) (m n : Nat)
    (h : (r.slotAt n).state = .done ∨ (r.slotAt n).state = .failed) :
    r.writeState m n freeValue = (.taken, r.releaseEnded n) := by
  rcases h with h | h <;> simp [Run.writeState, h]

/-- Settles O21: the write of FREE reaches the Slot Unit, which drops the slot's holds frame by frame. -/
theorem releaseSlotDropsItsHolds : Obligations.ReleaseSlotDropsItsHolds := by
  unfold Obligations.ReleaseSlotDropsItsHolds
  intro s m n hm hn hready hagent hended hwait hsealed hgrants
  have d := (Run.of s).dropHolds_droppedTo (.slot n) rfl hsealed
  have harrive : (Run.of s).arriveControl (writeOf m (slotBase n) freeValue) =
      Run.answer { (Run.of s).modSlot n (fun _ => SlotRec.blank) with
        frame := ((Run.of s).dropHolds (.slot n)).frame } m .written := by
    rw [Run.arriveControl_stateWord _ m n freeValue hn (by decide) hagent, Run.writeState_free_ended (Run.of s) m n hended,
      Run.releaseEnded_sealed _ n rfl hwait hsealed hgrants]
    rfl
  refine ⟨s.withRun (Run.answer { (Run.of s).modSlot n (fun _ => SlotRec.blank) with
      frame := ((Run.of s).dropHolds (.slot n)).frame } m .written), ?_, ?_, ?_, d.emptyList, d.waitQueue.trans hwait, fun k => ?_⟩
  · show outcome _ (s.busTransfer _) = _
    have haddr : (writeOf m (slotBase n) freeValue).addr < frameBytes := by
      simp only [writeOf, slotBase, frameBytes]; omega
    have hwf : (Instr.releaseSlot m n).wf = true := by simp [Instr.wf, hm, hn]
    rw [outcome_wf _ _ hwf, s.busTransfer_control _ hready haddr, State.act_to s _ _ harrive rfl rfl]
  · rfl
  · refine List.ext_getElem? fun i => (d.frames i).trans ?_
    rw [List.getElem?_map]
    cases hi : s.frame.frames[i]? with
    | none => simp [hi]
    | some f =>
      obtain ⟨hlt, rfl⟩ := List.getElem?_eq_some_iff.1 hi
      simp [hlt, Frame.without]
  · exact d.reclaim k

end Sys2Proof.Machine

namespace Sys2Proof.Machine

open Sys2Proof.Config

/-! ### The end of an acceptance read (R50, R51)

The sixteenth read gives the slot its kind, its notify flag and the next acceptance number, and hands the request to the
block that carries it out, over the state `State.acceptedAs s n x rest k id []`.  The three outcomes of a validation
change the slot table and the work list of that state, and nothing else. -/

/-- A command's effect depends on its own change alone. -/
theorem State.act_congr (s : State) (f g : Run → Run) (h : f (Run.of s) = g (Run.of s)) : s.act f = s.act g := by
  unfold State.act
  rw [h]

/-- A read in which memory reports no new fault teaches nothing. -/
theorem State.learn_nil (s : State) (a n : Nat) : s.learn a n [] = s := rfl

/-- The sixteenth read of an acceptance is taken by the Slot Unit (R50). -/
theorem State.acceptanceReadDone (s : State) (n : Nat) (x : SlotRec) (rest : List WorkJob) (h : s.Accepts n x rest) :
    exec (.acceptanceReadDone []) s = .next (s.freePort.act (fun r => r.workOver.validate n (s.request n))) := by
  obtain ⟨hport, hwork, hdone, hslot, hposted, hout, hfault, hmem⟩ := h
  have hlast : s.lastAcceptance = true := by
    simp [State.lastAcceptance, State.moving, hport, SlotUnit.acceptsNext, hwork, hdone]
  have haddr : slotBase n + 32 * s.slot.workDone = slotBase n + 480 := by rw [hdone]
  have hread : s.completeAccess [] = s.freePort.act (fun r => r.workOver.validate n (s.request n)) := by
    have hwork' : s.freePort.slot.work = .acceptance n :: rest := hwork
    simp only [State.completeAccess, hport, State.completeWork, hwork', State.learn_nil]
    have hstep : (Run.of s.freePort).acceptRead n (s.freePort.mem.readBytes (slotBase n + 32 * s.freePort.slot.workDone) 32)
        (s.freePort.mem.faults (slotBase n + 32 * s.freePort.slot.workDone) 32)
        (decide (s.freePort.slot.workDone = 0) && s.freePort.mem.faults (slotBase n + 8) 4) =
        (Run.of s.freePort).workOver.validate n (s.request n) := by
      simp [Run.acceptRead, Run.acceptSlot, hdone, hfault, hmem, State.request]
    exact State.act_congr _ _ _ hstep
  show execAcceptanceReadDone [] s = _
  rw [execAcceptanceReadDone, outcome_wf _ _ rfl, if_pos hlast, hread]

/-- The state on which an accepted request of a kind is carried out (R50). -/
def State.accepting (s : State) (n : Nat) (x : SlotRec) (rest : List WorkJob) (k : Kind) : State :=
  s.acceptedAs n x rest k id []

/-- The slot record as the acceptance leaves it to the block that carries the request out (R50). -/
theorem State.accepting_slots (s : State) (n : Nat) (x : SlotRec) (rest : List WorkJob) (k : Kind) :
    (s.accepting n x rest k).slot.slots =
      s.slot.slots.set n { x with kind := some k, notify := some (reqNotify (s.request n)), age := some s.slot.nextAge } :=
  rfl

/-- Changing an entry that is there is setting it. -/
theorem modify_eq_set_of_getElem? {α : Type} (l : List α) (n : Nat) (f : α → α) (a : α) (h : l[n]? = some a) :
    l.modify n f = l.set n (f a) := by
  rw [List.modify_eq_set_getElem?, h]
  rfl

/-- A request whose kind and level pass the common checks goes to the block that carries it out (R51). -/
theorem State.accept_carryOut (s : State) (n : Nat) (x : SlotRec) (rest : List WorkJob) (k : Kind)
    (h : s.Accepts n x rest) (hk : reqKind (s.request n) = some k) (hl : badLevel k (reqLevel (s.request n)) = false) :
    exec (.acceptanceReadDone []) s =
      .next ((s.accepting n x rest k).act (fun r => r.carryOut k n s.slot.nextAge (s.request n))) := by
  rw [s.acceptanceReadDone n x rest h]
  obtain ⟨hport, hwork, hdone, hslot, hposted, hout, hfault, hmem⟩ := h
  have hrun : (Run.of s.freePort).workOver.validate n (s.request n) =
      (Run.of (s.accepting n x rest k)).carryOut k n s.slot.nextAge (s.request n) := by
    have hslots := modify_eq_set_of_getElem? s.slot.slots n
      (fun x => { x with kind := some k, notify := some (reqNotify (s.request n)), age := some s.slot.nextAge }) x hslot
    have hstart : ((Run.of s.freePort).workOver.takeAge.2).modSlot n (fun x =>
        { x with kind := some k, notify := some (reqNotify (s.request n)), age := some s.slot.nextAge }) =
        Run.of (s.accepting n x rest k) := by
      simp only [Run.modSlot, Run.takeAge, Run.workOver, State.accepting, State.acceptedAs, Run.of, State.freePort_slot,
        hwork, hslots, List.drop_succ_cons, List.drop_zero, List.append_nil, id_eq]
      rfl
    have hage : (Run.of s.freePort).workOver.takeAge.1 = s.slot.nextAge := rfl
    simp only [Run.validate, hk, hl, hage, hstart, Bool.false_eq_true, if_false]
  exact congrArg (fun r => Host.Outcome.next (s.freePort.withRun (Run.settle fuel r))) hrun

/-- Only the kinds that are queued take their level from the request, so no other kind can have a bad one (R51). -/
theorem State.accept_badLevel_false (q : List Byte) (k : Kind) (hk : reqKind q = some k)
    (h : k ≠ .fetch ∧ k ≠ .file ∧ k ≠ .importVol ∧ k ≠ .exportVol) : badLevel k (reqLevel q) = false := by
  obtain ⟨hfetch, hfile, himport, hexport⟩ := h
  cases k with
  | fetch => exact absurd rfl hfetch
  | file => exact absurd rfl hfile
  | importVol => exact absurd rfl himport
  | exportVol => exact absurd rfl hexport
  | _ => rfl

/-- The kind that a request's kind byte names (R196). -/
theorem reqKind_of_value (q : List Byte) (k : Kind) (h : byteAt q 8 = k.value) : reqKind q = some k := by
  unfold reqKind
  rw [h]
  cases k <;> rfl

section
variable {s : State} {n : Nat} {x : SlotRec} {rest : List WorkJob} {k : Kind} (h : s.Accepts n x rest)
include h

/-- The slot of the request being accepted exists. -/
theorem State.Accepts.lt : n < s.slot.slots.length := by
  obtain ⟨-, -, -, hslot, -⟩ := h
  exact (List.getElem?_eq_some_iff.1 hslot).1

/-- The record of the slot being accepted, once the acceptance has changed it by `f`. -/
theorem State.Accepts.getElem (f : SlotRec → SlotRec) (more : List WorkJob) :
    (s.acceptedAs n x rest k f more).slot.slots[n]? =
      some (f { x with kind := some k, notify := some (reqNotify (s.request n)), age := some s.slot.nextAge }) :=
  List.getElem?_set_self h.lt

/-- A further change of that record. -/
theorem State.Accepts.modify (f g : SlotRec → SlotRec) (more more' : List WorkJob) :
    (s.acceptedAs n x rest k f more).slot.slots.modify n g = (s.acceptedAs n x rest k (g ∘ f) more').slot.slots := by
  rw [modify_eq_set_of_getElem? _ n g _ (h.getElem f more)]
  exact List.set_set ..

/-- The slot becomes ACTIVE (R53). -/
theorem State.Accepts.begun (r : Run) (hr : r.slot = (s.accepting n x rest k).slot) :
    r.begun n = { r with slot := (s.acceptBegins n x rest k).slot } := by
  unfold Run.begun Run.modSlot
  rw [hr]
  exact congrArg (fun l => { r with slot := { (s.accepting n x rest k).slot with slots := l } })
    (h.modify id (fun y => { y with state := .active, jobRef := some .operation }) [] [])

/-- The slot becomes ACCEPTED with its job (R52). -/
theorem State.Accepts.accepted (r : Run) (hr : r.slot = (s.accepting n x rest k).slot) (kind : JobKind) (level : Nat) :
    r.accepted n s.sched.nextJob = { r with slot := (s.acceptQueued n x rest k kind level).slot } := by
  unfold Run.accepted Run.modSlot
  rw [hr]
  exact congrArg (fun l => { r with slot := { (s.accepting n x rest k).slot with slots := l } })
    (h.modify id (fun y => { y with state := .accepted, jobRef := some (.job s.sched.nextJob) }) [] [])

/-- The end report of the request whose slot record the acceptance has changed by `f` (R54). -/
theorem State.Accepts.endReport (r : Run) (f : SlotRec → SlotRec) (hr : r.slot = (s.acceptedAs n x rest k f []).slot)
    (hf : (f { x with kind := some k, notify := some (reqNotify (s.request n)), age := some s.slot.nextAge }).inHand = true)
    (e : Ended) (w : List (Nat × List Byte)) :
    r.endReport n e w = { r with slot := (s.acceptedAs n x rest k
      ((fun y => { y with outcome := some e, jobRef := none }) ∘ f) [.writeBack n (writeBackWrites n e w)]).slot } := by
  have hat : r.slotAt n =
      f { x with kind := some k, notify := some (reqNotify (s.request n)), age := some s.slot.nextAge } := by
    rw [Run.slotAt, hr, List.getD_eq_getElem?_getD, h.getElem f []]
    rfl
  rw [Run.endReport_inHand r n e w (by rw [hat]; exact hf), hr,
    h.modify f (fun y => { y with outcome := some e, jobRef := none }) [] [.writeBack n (writeBackWrites n e w)]]
  simp only [State.acceptedAs, List.append_nil]

/-- A failed validation reports the code alone (R51, R54, log entry 56). -/
theorem State.Accepts.rejected (r : Run) (hr : r.slot = (s.accepting n x rest k).slot) (c : Code) :
    r.rejected n c = { r with slot := (s.acceptFails n x rest k c).slot } := by
  obtain ⟨-, -, -, -, hposted, hout, -, -⟩ := id h
  exact h.endReport r id hr (by simp [SlotRec.inHand, hposted, hout]) _ _

/-- An immediate request that is ACTIVE ends DONE (R53, R54). -/
theorem State.Accepts.begins_endDone (r : Run) (hr : r.slot = (s.acceptBegins n x rest k).slot) (count : Nat)
    (w : List (Nat × List Byte)) :
    r.endDone n count w = { r with slot := (s.acceptEnds n x rest k count w).slot } := by
  obtain ⟨-, -, -, -, -, hout, -, -⟩ := id h
  exact h.endReport r (fun y => { y with state := .active, jobRef := some .operation }) hr
    (by simp [SlotRec.inHand, hout]) _ _

/-- An immediate request that takes effect at once ends DONE (R53, R54). -/
theorem State.Accepts.begun_endDone (r : Run) (hr : r.slot = (s.accepting n x rest k).slot) (count : Nat)
    (w : List (Nat × List Byte)) :
    (r.begun n).endDone n count w = { r with slot := (s.acceptEnds n x rest k count w).slot } := by
  rw [h.begun r hr]
  exact h.begins_endDone { r with slot := (s.acceptBegins n x rest k).slot } rfl count w

/-- A request that fails its validation, and nothing else (R51). -/
theorem State.Accepts.act_rejected (f : Run → Run) (c : Code)
    (hf : f (Run.of (s.accepting n x rest k)) = (Run.of (s.accepting n x rest k)).rejected n c) :
    (s.accepting n x rest k).act f = s.acceptFails n x rest k c :=
  State.act_to _ f _ (hf.trans (h.rejected _ rfl c)) rfl rfl

end

end Sys2Proof.Machine

namespace Sys2Proof.Machine

open Sys2Proof.Config

/-! ### Frame records written one after another -/

/-- The working copy with other frame records. -/
def Run.withFrames (r : Run) (fs : List Frame) : Run := { r with frame := { r.frame with frames := fs } }

@[simp] theorem Run.withFrames_frames (r : Run) (fs : List Frame) : (r.withFrames fs).frame.frames = fs := rfl

/-- Writing a frame record changes the frame records alone. -/
theorem Run.setFrame_eq (r : Run) (n : Nat) (f : Frame) :
    r.setFrame n f = r.withFrames (r.setFrame n f).frame.frames := by
  unfold Run.setFrame
  split <;> rfl

@[simp] theorem Run.setFrame_length (r : Run) (n : Nat) (f : Frame) :
    (r.setFrame n f).frame.frames.length = r.frame.frames.length := by
  unfold Run.setFrame
  split <;> simp

/-- The record of a frame after one frame record has been written. -/
theorem Run.frameAt_setFrame (r : Run) (n m : Nat) (f : Frame) :
    (r.setFrame n f).frameAt m =
      if m = n ∧ 0 < n ∧ n ≤ r.frame.frames.length then f else r.frameAt m := by
  by_cases hn : n = 0
  · simp [Run.setFrame, hn]
  by_cases hm : m = 0
  · have h0n : ¬ 0 = n := fun h => hn h.symm
    simp [Run.frameAt, hm, h0n]
  simp only [Run.setFrame, hn, if_false, Run.frameAt, hm, List.getD_eq_getElem?_getD, List.getElem?_set]
  by_cases hmn : m = n
  · subst hmn
    by_cases hlt : m - 1 < r.frame.frames.length
    · have hle : m ≤ r.frame.frames.length := by omega
      simp [hlt, hle, Nat.pos_of_ne_zero hn]
    · have hle : ¬ m ≤ r.frame.frames.length := by omega
      simp [hlt, hle]
  · have hne : ¬ n - 1 = m - 1 := by omega
    simp [hmn, hne]

/-- The same record written to some frames changes the frame records alone. -/
theorem Run.foldl_setFrame_eq (fs : List Nat) (f : Frame) (r : Run) :
    fs.foldl (fun r n => r.setFrame n f) r =
      r.withFrames (fs.foldl (fun r n => r.setFrame n f) r).frame.frames := by
  induction fs generalizing r with
  | nil => rfl
  | cons n fs ih =>
    have hstep := congrArg
      (fun u : Run => u.withFrames (fs.foldl (fun r n => r.setFrame n f) (r.setFrame n f)).frame.frames)
      (r.setFrame_eq n f)
    exact (ih _).trans hstep

/-- The record of a frame after the same record has been written to some frames. -/
theorem Run.frameAt_foldl_setFrame (fs : List Nat) (f : Frame) (r : Run) (m : Nat) :
    (fs.foldl (fun r n => r.setFrame n f) r).frameAt m =
      if m ∈ fs ∧ 0 < m ∧ m ≤ r.frame.frames.length then f else r.frameAt m := by
  induction fs generalizing r with
  | nil => simp
  | cons n fs ih =>
    simp only [List.foldl_cons, ih, r.frameAt_setFrame, Run.setFrame_length, List.mem_cons]
    by_cases hm : m = n
    · subst hm
      by_cases hin : 0 < m ∧ m ≤ r.frame.frames.length <;> simp [hin]
    · simp [hm]

/-! ### The checks of a request -/

/-- `noRepeats` decides that nothing is named twice. -/
theorem noRepeats_iff (l : List Nat) : noRepeats l = true ↔ l.Nodup := by
  induction l with
  | nil => simp [noRepeats]
  | cons a l ih => simp [noRepeats, ih]

/-- `isScan` decides that a frame is SCAN (R16). -/
theorem Frame.isScan_iff (f : Frame) : f.isScan = true ↔ ∃ owner, f = .scan owner := by
  cases f <;> simp [Frame.isScan]

/-- A frame is not SCAN (R16). -/
theorem Frame.isScan_eq_false_iff (f : Frame) : f.isScan = false ↔ ∀ owner, f ≠ .scan owner := by
  cases f <;> simp [Frame.isScan]

/-- The frame records determine the record of a frame. -/
theorem Run.frameAt_congr (r r' : Run) (h : r'.frame.frames = r.frame.frames) (n : Nat) : r'.frameAt n = r.frameAt n := by
  unfold Run.frameAt
  rw [h]

/-! ### OPEN SCAN and DISCARD SCAN (R16, R138, R139) -/

/-- The frames of an allocation have left the two lists (R7). -/
def Run.taken (r : Run) (k : Nat) : Run :=
  { r with frame := { r.frame with emptyList := r.frame.emptyList.drop k,
                                   reclaim := r.frame.reclaim.drop (k - r.frame.emptyList.length) } }

/-- An allocation takes the first frames of the empty list and then of the reclaim list (R7). -/
theorem Run.allocate_some (r : Run) (k : Nat) (h : k ≤ (r.frame.emptyList ++ r.frame.reclaim).length) :
    r.allocate k = some ((r.frame.emptyList ++ r.frame.reclaim).take k, r.taken k) := by
  have hav : k ≤ r.frame.available := by rwa [List.length_append] at h
  have hrest : k - (r.frame.emptyList.take k).length = k - r.frame.emptyList.length := by
    rw [List.length_take]; omega
  unfold Run.allocate Run.taken
  rw [if_pos hav, List.take_append]
  dsimp only
  rw [hrest]

/-- An allocation of more frames than are available takes none (R7). -/
theorem Run.allocate_none (r : Run) (k : Nat) (h : (r.frame.emptyList ++ r.frame.reclaim).length < k) :
    r.allocate k = none := by
  have hav : ¬ k ≤ r.frame.available := by rw [List.length_append] at h; exact Nat.not_le.2 h
  exact if_neg hav

/-- What makes OPEN SCAN a bad request (R138). -/
def Settings.badScan (c : Settings) (owner count : Nat) : Prop :=
  15 < owner ∨ ((c.agent owner).cls ≠ .scanner ∧ (c.agent owner).cls ≠ .processor) ∨ count < 1 ∨ 16 < count

theorem Settings.badScan_iff (c : Settings) (owner count : Nat) :
    c.badScan owner count ↔ ((!c.mayScan owner) = true ∨ count < 1 ∨ 16 < count) := by
  simp [Settings.badScan, Settings.mayScan, or_assoc]

theorem Run.openScan_bad (r : Run) (slot : Nat) (q : List Byte) (h : r.settings.badScan (byteAt q 16) (byteAt q 17)) :
    r.openScan slot q = r.rejected slot .badRequest :=
  if_pos ((r.settings.badScan_iff _ _).1 h)

theorem Run.openScan_noFrames (r : Run) (slot : Nat) (q : List Byte)
    (h : ¬ r.settings.badScan (byteAt q 16) (byteAt q 17))
    (hno : r.frame.waitQueue ≠ [] ∨ (r.frame.emptyList ++ r.frame.reclaim).length < byteAt q 17) :
    r.openScan slot q = r.rejected slot .noFrames := by
  refine (if_neg (fun hb => h ((r.settings.badScan_iff _ _).2 hb))).trans ?_
  by_cases hq : r.frame.waitQueue = []
  · rw [r.allocate_none _ (hno.resolve_left (fun hne => hne hq))]
    simp
  · simp [hq]

theorem Run.openScan_opens (r : Run) (slot : Nat) (q : List Byte)
    (h : ¬ r.settings.badScan (byteAt q 16) (byteAt q 17)) (hq : r.frame.waitQueue = [])
    (hc : byteAt q 17 ≤ (r.frame.emptyList ++ r.frame.reclaim).length) :
    r.openScan slot q =
      Run.endDone (Run.begun (((r.frame.emptyList ++ r.frame.reclaim).take (byteAt q 17)).foldl
        (fun r f => r.setFrame f (.scan (byteAt q 16))) (r.taken (byteAt q 17))) slot) slot (byteAt q 17)
        [(256, padTo 32 (((r.frame.emptyList ++ r.frame.reclaim).take (byteAt q 17)).flatMap (leBytes 2)))] := by
  refine (if_neg (fun hb => h ((r.settings.badScan_iff _ _).2 hb))).trans ?_
  rw [r.allocate_some _ hc]
  simp [hq]

/-- The working copy with other frame records, another empty list and other consequences listed. -/
def Run.relisted (r : Run) (fs : List Frame) (l : List Nat) (todo : List Todo) : Run :=
  { r with frame := { r.frame with frames := fs, emptyList := l }, todo := todo }

/-- A frame made EMPTY is written, listed and told to the frame-wait queue (R3, R5, R9). -/
theorem Run.emptyFrame_eq (r : Run) (n : Nat) :
    r.emptyFrame n = r.relisted (r.emptyFrame n).frame.frames (insertUp n r.frame.emptyList) (r.emptyFrame n).todo := by
  unfold Run.emptyFrame Run.setFrame
  split <;> rfl

/-- The record of a frame after one has been made EMPTY. -/
theorem Run.frameAt_emptyFrame (r : Run) (n m : Nat) :
    (r.emptyFrame n).frameAt m = if m = n then .empty else r.frameAt m := by
  have hset : (r.emptyFrame n).frameAt m = (r.setFrame n .empty).frameAt m := rfl
  rw [hset, r.frameAt_setFrame]
  by_cases hm : m = n
  · subst hm
    by_cases hin : 0 < m ∧ m ≤ r.frame.frames.length
    · simp [hin]
    · have hout : r.frameAt m = .empty := by
        unfold Run.frameAt
        split
        · rfl
        · rw [List.getD_eq_getElem?_getD, List.getElem?_eq_none (by omega)]
          rfl
      simp [hin, hout]
  · simp [hm]

/-- Frames made EMPTY one after another are written, listed and told to the frame-wait queue (R139). -/
theorem Run.foldl_emptyFrame_eq (fs : List Nat) (r : Run) :
    fs.foldl Run.emptyFrame r =
      r.relisted (fs.foldl Run.emptyFrame r).frame.frames (fs.foldl (fun l f => insertUp f l) r.frame.emptyList)
        (fs.foldl Run.emptyFrame r).todo := by
  induction fs generalizing r with
  | nil => rfl
  | cons n fs ih =>
    have hlist : (r.emptyFrame n).frame.emptyList = insertUp n r.frame.emptyList :=
      congrArg (fun u : Run => u.frame.emptyList) (r.emptyFrame_eq n)
    have hstep := congrArg (fun u : Run => u.relisted (fs.foldl Run.emptyFrame (r.emptyFrame n)).frame.frames
      (fs.foldl (fun l f => insertUp f l) (insertUp n r.frame.emptyList))
      (fs.foldl Run.emptyFrame (r.emptyFrame n)).todo) (r.emptyFrame_eq n)
    have hrest := ih (r.emptyFrame n)
    rw [hlist] at hrest
    exact hrest.trans hstep

/-- The records of the frames after some have been made EMPTY (R139). -/
theorem Run.frameAt_foldl_emptyFrame (fs : List Nat) (r : Run) (m : Nat) :
    (fs.foldl Run.emptyFrame r).frameAt m = if m ∈ fs then .empty else r.frameAt m := by
  induction fs generalizing r with
  | nil => simp
  | cons n fs ih =>
    simp only [List.foldl_cons, ih, r.frameAt_emptyFrame, List.mem_cons]
    by_cases hm : m = n <;> simp [hm]

/-- Frames made EMPTY call for the frame-wait queue to be served, and for nothing else (R9). -/
theorem Run.foldl_emptyFrame_todo (fs : List Nat) (r : Run) (h : ∀ t ∈ r.todo, t = .service) :
    ∀ t ∈ (fs.foldl Run.emptyFrame r).todo, t = .service := by
  induction fs generalizing r with
  | nil => exact h
  | cons n fs ih =>
    refine ih _ fun t ht => ?_
    have htodo : (r.setFrame n .empty).todo = r.todo := by unfold Run.setFrame; split <;> rfl
    simp only [Run.emptyFrame, Run.serveFirst, htodo] at ht
    split at ht
    · exact h t ht
    · exact (List.mem_cons.1 ht).elim id (h t)

/-- What makes DISCARD SCAN a bad request (R139). -/
def Run.badDiscard (r : Run) (q : List Byte) : Prop :=
  byteAt q 16 < 1 ∨ 16 < byteAt q 16 ∨ (∃ f ∈ discardFrames q, f < 1 ∨ r.frame.frames.length < f) ∨
    ¬ (discardFrames q).Nodup

/-- An image frame's number lies in the configured range (R1). -/
theorem Run.isImageFrame_eq_false_iff (r : Run) (f : Nat) :
    r.isImageFrame f = false ↔ f < 1 ∨ r.frame.frames.length < f := by
  rw [Run.isImageFrame, Bool.and_eq_false_iff, decide_eq_false_iff_not, decide_eq_false_iff_not]
  omega

theorem Run.badDiscard_iff (r : Run) (q : List Byte) :
    r.badDiscard q ↔ (byteAt q 16 < 1 ∨ 16 < byteAt q 16 ∨ (!(discardFrames q).all r.isImageFrame) = true ∨
      (!noRepeats (discardFrames q)) = true) := by
  rw [Run.badDiscard, Bool.not_eq_true', Bool.not_eq_true', List.all_eq_false, ← noRepeats_iff, Bool.not_eq_true]
  simp only [Bool.not_eq_true, Run.isImageFrame_eq_false_iff]

theorem Run.discardScan_bad (r : Run) (slot : Nat) (q : List Byte) (h : r.badDiscard q) :
    r.discardScan slot q = r.rejected slot .badRequest :=
  if_pos ((r.badDiscard_iff q).1 h)

theorem Run.discardScan_badFrame (r : Run) (slot : Nat) (q : List Byte) (h : ¬ r.badDiscard q)
    (hf : ∃ f ∈ discardFrames q, ∀ owner, r.frameAt f ≠ .scan owner) :
    r.discardScan slot q = r.rejected slot .badFrame := by
  refine (if_neg (fun hb => h ((r.badDiscard_iff q).2 hb))).trans (if_pos ?_)
  obtain ⟨f, hm, hne⟩ := hf
  rw [Bool.not_eq_true', List.all_eq_false]
  exact ⟨f, hm, by rw [Bool.not_eq_true]; exact (r.frameAt f).isScan_eq_false_iff.2 hne⟩

theorem Run.discardScan_discards (r : Run) (slot : Nat) (q : List Byte) (h : ¬ r.badDiscard q)
    (hf : ∀ f ∈ discardFrames q, ∃ owner, r.frameAt f = .scan owner) :
    r.discardScan slot q =
      (((discardFrames q).foldl Run.emptyFrame r).begun slot).endDone slot (byteAt q 16) [] := by
  refine (if_neg (fun hb => h ((r.badDiscard_iff q).2 hb))).trans (if_neg ?_)
  rw [Bool.not_eq_true', Bool.not_eq_false, List.all_eq_true]
  exact fun f hm => (r.frameAt f).isScan_iff.2 (hf f hm)

section
variable {s : State} {n : Nat} {x : SlotRec} {rest : List WorkJob} (h : s.Accepts n x rest)
include h

/-- An immediate request goes to the block that carries it out, whatever its level (R51, R53). -/
theorem State.Accepts.immediate (k : Kind) (hk : byteAt (s.request n) 8 = k.value)
    (hi : k ≠ .fetch ∧ k ≠ .file ∧ k ≠ .importVol ∧ k ≠ .exportVol) :
    exec (.acceptanceReadDone []) s =
      .next ((s.accepting n x rest k).act (fun r => r.carryOut k n s.slot.nextAge (s.request n))) :=
  s.accept_carryOut n x rest k h (reqKind_of_value _ k hk)
    (State.accept_badLevel_false _ k (reqKind_of_value _ k hk) hi)

/-- An immediate request that fails its checks (R51). -/
theorem State.Accepts.immediate_fails (k : Kind) (hk : byteAt (s.request n) 8 = k.value)
    (hi : k ≠ .fetch ∧ k ≠ .file ∧ k ≠ .importVol ∧ k ≠ .exportVol) (c : Code)
    (hf : (Run.of (s.accepting n x rest k)).carryOut k n s.slot.nextAge (s.request n) =
      (Run.of (s.accepting n x rest k)).rejected n c) :
    exec (.acceptanceReadDone []) s = .next (s.acceptFails n x rest k c) := by
  rw [h.immediate k hk hi, h.act_rejected _ c hf]

/-- An immediate request whose carrying out changes the blocks to those of a state and causes nothing. -/
theorem State.Accepts.immediate_to (k : Kind) (hk : byteAt (s.request n) 8 = k.value)
    (hi : k ≠ .fetch ∧ k ≠ .file ∧ k ≠ .importVol ∧ k ≠ .exportVol) (r : Run)
    (hf : (Run.of (s.accepting n x rest k)).carryOut k n s.slot.nextAge (s.request n) = r)
    (ht : r.todo = []) (hp : r.pass = false) :
    exec (.acceptanceReadDone []) s = .next ((s.accepting n x rest k).withRun r) := by
  rw [h.immediate k hk hi, State.act_to _ _ r hf ht hp]

/-- An immediate request whose carrying out causes one thing, which causes nothing more. -/
theorem State.Accepts.immediate_then (k : Kind) (hk : byteAt (s.request n) 8 = k.value)
    (hi : k ≠ .fetch ∧ k ≠ .file ∧ k ≠ .importVol ∧ k ≠ .exportVol) (r r' : Run) (t : Todo)
    (hf : (Run.of (s.accepting n x rest k)).carryOut k n s.slot.nextAge (s.request n) = r)
    (ht : r.todo = [t]) (hc : Run.consequence { r with todo := [] } t = r') (ht' : r'.todo = []) (hp' : r'.pass = false) :
    exec (.acceptanceReadDone []) s = .next ((s.accepting n x rest k).withRun r') := by
  rw [h.immediate k hk hi, State.act_then _ _ r r' t hf ht hc ht' hp']

/-- SET FEES takes its sixteen rows (R172). -/
theorem State.Accepts.setFees (hk : byteAt (s.request n) 8 = 22) :
    exec (.acceptanceReadDone []) s =
      .next { s.acceptEnds n x rest .setFees 1 [] with fee := { s.fee with fees := feesAt (s.request n) 16 } } :=
  h.immediate_to .setFees hk (by decide) _ (h.begun_endDone _ rfl 1 []) rfl rfl

/-- SET DEED SEQUENCE sets the counter and writes back the value it had (R140). -/
theorem State.Accepts.setDeedSequence (hk : byteAt (s.request n) 8 = 28) :
    exec (.acceptanceReadDone []) s =
      .next (if word (s.request n) 16 = 0 ∨ (∃ j ∈ s.sched.jobs, j.kind = .file) then
          s.acceptFails n x rest .setDeedSequence .badRequest
        else { s.acceptEnds n x rest .setDeedSequence 1 [(256, leBytes 4 s.store.deedSeq)] with
          store := { s.store with deedSeq := word (s.request n) 16 } }) := by
  have hany : (Run.of (s.accepting n x rest .setDeedSequence)).sched.jobs.any (fun j => j.kind == .file) = true ↔
      ∃ j ∈ s.sched.jobs, j.kind = .file := by
    simp [State.accepting, State.acceptedAs]
  split
  next hbad =>
    exact h.immediate_fails .setDeedSequence hk (by decide) _ (if_pos (hbad.imp_right hany.2))
  next hgood =>
    exact h.immediate_to .setDeedSequence hk (by decide) _
      ((if_neg (fun hb => hgood (hb.imp_right hany.1))).trans (h.begun_endDone _ rfl 1 _)) rfl rfl

/-- OPEN SCAN makes the first frames of the empty list and then of the reclaim list SCAN (R16, R138). -/
theorem State.Accepts.openScan (hk : byteAt (s.request n) 8 = 16) :
    let owner := byteAt (s.request n) 16
    let count := byteAt (s.request n) 17
    let wrong := 15 < owner ∨ ((s.settings.agent owner).cls ≠ .scanner ∧ (s.settings.agent owner).cls ≠ .processor) ∨
      count < 1 ∨ 16 < count
    let frames := (s.frame.emptyList ++ s.frame.reclaim).take count
    (wrong → exec (.acceptanceReadDone []) s = .next (s.acceptFails n x rest .openScan .badRequest)) ∧
    (¬ wrong → (s.frame.waitQueue ≠ [] ∨ (s.frame.emptyList ++ s.frame.reclaim).length < count) →
      exec (.acceptanceReadDone []) s = .next (s.acceptFails n x rest .openScan .noFrames)) ∧
    (¬ wrong → s.frame.waitQueue = [] → count ≤ (s.frame.emptyList ++ s.frame.reclaim).length →
      ∃ t, exec (.acceptanceReadDone []) s = .next t ∧
        t = { s.acceptEnds n x rest .openScan count [(256, padTo 32 (frames.flatMap (leBytes 2)))] with
          frame := { s.frame with frames := t.frame.frames, emptyList := s.frame.emptyList.drop count,
                                  reclaim := s.frame.reclaim.drop (count - s.frame.emptyList.length) } } ∧
        (∀ f ∈ frames, 0 < f → f ≤ s.frame.frames.length → t.frameAt f = .scan owner) ∧
        (∀ f, f ∉ frames → t.frameAt f = s.frameAt f)) := by
  intro owner count wrong frames
  refine ⟨fun hw => ?_, fun hw hno => ?_, fun hw hq hc => ?_⟩
  · exact h.immediate_fails .openScan hk (by decide) _ (Run.openScan_bad _ n _ hw)
  · exact h.immediate_fails .openScan hk (by decide) _ (Run.openScan_noFrames _ n _ hw hno)
  · have hopens := (Run.of (s.accepting n x rest .openScan)).openScan_opens n (s.request n) hw hq hc
    have hat := Run.frameAt_foldl_setFrame frames (.scan owner) ((Run.of (s.accepting n x rest .openScan)).taken count)
    rw [Run.foldl_setFrame_eq, h.begun_endDone _ rfl] at hopens
    refine ⟨_, h.immediate_to .openScan hk (by decide) _ hopens rfl rfl, rfl, fun f hf h0 hle => ?_, fun f hf => ?_⟩
    · exact (hat f).trans (if_pos ⟨hf, h0, hle⟩)
    · exact (hat f).trans (if_neg (fun hin => hf hin.1))

/-- DISCARD SCAN makes its frames EMPTY (R16, R139). -/
theorem State.Accepts.discardScan (hk : byteAt (s.request n) 8 = 17) :
    let count := byteAt (s.request n) 16
    let frames := discardFrames (s.request n)
    let wrong := count < 1 ∨ 16 < count ∨ (∃ f ∈ frames, f < 1 ∨ s.frame.frames.length < f) ∨ ¬ frames.Nodup
    (wrong → exec (.acceptanceReadDone []) s = .next (s.acceptFails n x rest .discardScan .badRequest)) ∧
    (¬ wrong → (∃ f ∈ frames, ∀ owner, s.frameAt f ≠ .scan owner) →
      exec (.acceptanceReadDone []) s = .next (s.acceptFails n x rest .discardScan .badFrame)) ∧
    (¬ wrong → (∀ f ∈ frames, ∃ owner, s.frameAt f = .scan owner) → s.frame.waitQueue = [] →
      ∃ t, exec (.acceptanceReadDone []) s = .next t ∧
        t = { s.acceptEnds n x rest .discardScan count [] with
          frame := { s.frame with
            frames := t.frame.frames,
            emptyList := frames.foldl (fun l f => insertUp f l) s.frame.emptyList } } ∧
        (∀ f, t.frameAt f = if f ∈ frames then .empty else s.frameAt f)) := by
  intro count frames wrong
  refine ⟨fun hw => ?_, fun hw hf => ?_, fun hw hf hq => ?_⟩
  · exact h.immediate_fails .discardScan hk (by decide) _ (Run.discardScan_bad _ n _ hw)
  · exact h.immediate_fails .discardScan hk (by decide) _ (Run.discardScan_badFrame _ n _ hw hf)
  · have hends := (Run.of (s.accepting n x rest .discardScan)).discardScan_discards n (s.request n) hw hf
    have hat := Run.frameAt_foldl_emptyFrame frames (Run.of (s.accepting n x rest .discardScan))
    have htodo := Run.foldl_emptyFrame_todo frames (Run.of (s.accepting n x rest .discardScan)) (by simp)
    rw [Run.foldl_emptyFrame_eq, h.begun_endDone _ rfl] at hends
    refine ⟨_, (h.immediate .discardScan hk (by decide)).trans
      (congrArg Host.Outcome.next (State.act_fixed _ _ _ hends rfl fun t ht u hu => ?_)), rfl, hat⟩
    rw [htodo t ht]
    exact Run.service_idle u ((congrArg (fun p : Parts => p.frame.waitQueue) hu).trans hq)

end
end Sys2Proof.Machine

namespace Sys2Proof.Machine

open Sys2Proof.Config

/-! ### ACKNOWLEDGE RELOCATION (R164) -/

/-- The redirect is that of the first filled entry of the location (R163). -/
theorem Store.redirect_first (st : Store) (l new : Location) (i : Nat)
    (hi : st.relocs[i]? = some (.awaitingAck l new)) (hj : ∀ j < i, ∀ m, st.relocs[j]? ≠ some (.awaitingAck l m)) :
    st.redirect l = some new := by
  obtain ⟨hlt, hget⟩ := List.getElem?_eq_some_iff.1 hi
  refine List.findSome?_eq_some_iff.2 ⟨st.relocs.take i, st.relocs[i], st.relocs.drop (i + 1), ?_, ?_, fun e he => ?_⟩
  · rw [← List.drop_eq_getElem_cons hlt, List.take_append_drop]
  · rw [hget]; exact if_pos rfl
  · obtain ⟨j, hjlt, rfl⟩ := List.mem_iff_getElem.1 he
    have hji : j < i := by rw [List.length_take] at hjlt; omega
    have hne : ∀ m, st.relocs[j] ≠ .awaitingAck l m := fun m hm =>
      hj j hji m (List.getElem?_eq_some_iff.2 ⟨by omega, hm⟩)
    rw [List.getElem_take]
    cases hx : st.relocs[j] with
    | free => rfl
    | reserved o => rfl
    | awaitingAck o m => exact if_neg fun ho => hne m (by rw [hx, ho])

/-- Without a filled entry of the location there is no redirect (R163). -/
theorem Store.redirect_none (st : Store) (l : Location) (h : ∀ new, RelocEntry.awaitingAck l new ∉ st.relocs) :
    st.redirect l = none := by
  refine List.findSome?_eq_none_iff.2 fun e he => ?_
  cases e with
  | free => rfl
  | reserved o => rfl
  | awaitingAck o m => exact if_neg fun (ho : o = l) => h m (by rw [← ho]; exact he)

/-- A location that no ACKNOWLEDGE RELOCATION may name (R164). -/
def badRelocTarget (l : Location) : Prop := l.serial = 0 ∨ l.sector < 1 ∨ 524286 < l.sector

theorem Run.ackRelocation_bad (r : Run) (slot : Nat) (q : List Byte)
    (h : badRelocTarget (locationAt q 16) ∨ ∀ new, RelocEntry.awaitingAck (locationAt q 16) new ∉ r.store.relocs) :
    r.ackRelocation slot q = r.rejected slot .badRequest := by
  by_cases hb : badRelocTarget (locationAt q 16)
  · exact if_pos hb
  · refine (if_neg hb).trans ?_
    rw [r.store.redirect_none _ (h.resolve_left hb)]
    cases (List.range r.store.relocs.length).find? _ <;> rfl

theorem Run.ackRelocation_acks (r : Run) (slot : Nat) (q : List Byte) (h : ¬ badRelocTarget (locationAt q 16)) (i : Nat)
    (new : Location) (hi : r.store.relocs[i]? = some (.awaitingAck (locationAt q 16) new))
    (hj : ∀ j < i, ∀ m, r.store.relocs[j]? ≠ some (.awaitingAck (locationAt q 16) m)) :
    r.ackRelocation slot q = ((r.setReloc i .free).begun slot).endDone slot 1 [(256, locBytes new)] := by
  have hlt := (List.getElem?_eq_some_iff.1 hi).1
  refine (if_neg h).trans ?_
  rw [r.store.redirect_first _ new i hi hj, (List.find?_range_eq_some (i := i)).2]
  refine ⟨?_, List.mem_range.2 hlt, fun j hji => ?_⟩
  · simp [hi]
  · have hget : r.store.relocs[j]? = some r.store.relocs[j] := List.getElem?_eq_getElem (by omega)
    rw [List.getD_eq_getElem?_getD, hget, Option.getD_some]
    cases hx : r.store.relocs[j] with
    | free => rfl
    | reserved o => rfl
    | awaitingAck o m =>
      have hne : o ≠ locationAt q 16 := fun ho => hj j hji m (by rw [hget, hx, ho])
      simp [hne]

/-! ### Requests that name a SCAN frame (R69, R169, R187, R195) -/

theorem Run.scanTarget_badRequest (r : Run) (q : List Byte)
    (h : half q 16 < 1 ∨ r.frame.frames.length < half q 16) : r.scanTarget q = some .badRequest := by
  simp [Run.scanTarget, (r.isImageFrame_eq_false_iff _).2 h]

theorem Run.scanTarget_badFrame (r : Run) (q : List Byte) (h1 : 1 ≤ half q 16)
    (h2 : half q 16 ≤ r.frame.frames.length) (hs : ∀ owner, r.frameAt (half q 16) ≠ .scan owner) :
    r.scanTarget q = some .badFrame := by
  have himg : r.isImageFrame (half q 16) = true := by simp [Run.isImageFrame, h2]; omega
  simp [Run.scanTarget, himg, (Frame.isScan_eq_false_iff _).2 hs]

theorem Run.scanTarget_scan (r : Run) (q : List Byte) (h1 : 1 ≤ half q 16)
    (h2 : half q 16 ≤ r.frame.frames.length) (owner : Nat) (hs : r.frameAt (half q 16) = .scan owner) :
    r.scanTarget q = none := by
  have himg : r.isImageFrame (half q 16) = true := by simp [Run.isImageFrame, h2]; omega
  simp [Run.scanTarget, himg, hs, Frame.isScan]

/-! ### OPEN HATCH (R78) -/

/-- The request joins those that wait for the release of the hatch (R78). -/
def Run.hatchWaits (r : Run) (slot : Nat) : Run :=
  { r with picker := { r.picker with hatchOps := r.picker.hatchOps ++ [slot] } }

theorem Run.openHatch_open (r : Run) (slot : Nat) (h : r.picker.hatch = .released ∨ r.picker.hatch = .opened) :
    r.openHatch slot = r.endDone slot 1 [] := by
  rcases h with h | h <;> simp [Run.openHatch, h]

theorem Run.openHatch_pending (r : Run) (slot : Nat) (h : r.picker.hatch = .releasePending) :
    r.openHatch slot = r.hatchWaits slot := by
  simp [Run.openHatch, h, Run.hatchWaits]

/-- While an audit stands in the way the release is noted to follow it (R78). -/
theorem Run.openHatch_audit (r : Run) (slot : Nat)
    (h : r.picker.hatch = .auditing ∨ (r.picker.hatch = .locked ∧
      (r.picker.audit ≠ none ∨ r.startup.stage = .drives ∨ r.startup.stage = .audit))) :
    r.openHatch slot = { r.hatchWaits slot with picker := { (r.hatchWaits slot).picker with
      pendingRelease := some (r.picker.pendingRelease.getD .request) } } := by
  rcases h with h | ⟨h, hwhy⟩
  · simp [Run.openHatch, h, Run.askRelease, Run.hatchWaits]
  · rw [← Option.isSome_iff_ne_none] at hwhy
    simp [Run.openHatch, h, Run.askRelease, Run.hatchWaits, hwhy]

/-- A locked hatch is to be released as soon as the arm allows it (R78). -/
theorem Run.openHatch_locked (r : Run) (slot : Nat) (h : r.picker.hatch = .locked) (ha : r.picker.audit = none)
    (hs : r.startup.stage = .done) :
    r.openHatch slot = Run.push { r.hatchWaits slot with picker := { (r.hatchWaits slot).picker with
      hatch := .releasePending, releaseCause := .request } } .hatch := by
  simp [Run.openHatch, h, Run.askRelease, Run.hatchWaits, ha, hs]

/-- The hatch stays RELEASE_PENDING while the arm moves (R78). -/
theorem Run.hatchStep_moving (r : Run) (h : r.picker.state = .moving) : r.hatchStep = r := by
  simp [Run.hatchStep, h]

/-- The hatch is released, and the one request that waits for it ends before the notice is taken (R78, log entry 91). -/
theorem Run.hatchStep_releases (r : Run) (slot : Nat) (h : r.picker.hatch = .releasePending) (hm : r.picker.state ≠ .moving)
    (ho : r.picker.hatchOps = [slot]) :
    r.hatchStep = Run.notice (Run.endDone { r with picker := { r.picker with
      hatch := .released, windowStart := some r.now, hatchOps := [] } } slot 1 []) (.hatchReleased r.picker.releaseCause) := by
  simp [Run.hatchStep, h, hm, Run.endHatchOps, ho]

section
variable {s : State} {n : Nat} {x : SlotRec} {rest : List WorkJob} (h : s.Accepts n x rest)
include h

/-- ACKNOWLEDGE RELOCATION frees the entry and reports its new location (R164). -/
theorem State.Accepts.ackRelocation (hk : byteAt (s.request n) 8 = 25) :
    let old := locationAt (s.request n) 16
    let wrong := old.serial = 0 ∨ old.sector < 1 ∨ 524286 < old.sector ∨
      ∀ new, RelocEntry.awaitingAck old new ∉ s.store.relocs
    (wrong → exec (.acceptanceReadDone []) s = .next (s.acceptFails n x rest .ackRelocation .badRequest)) ∧
    (¬ wrong → ∀ i new, s.store.relocs[i]? = some (.awaitingAck old new) →
      (∀ j < i, ∀ m, s.store.relocs[j]? ≠ some (.awaitingAck old m)) →
      exec (.acceptanceReadDone []) s =
        .next { s.acceptEnds n x rest .ackRelocation 1 [(256, locBytes new)] with
          store := { s.store with relocs := s.store.relocs.set i .free } }) := by
  intro old wrong
  have hwrong : wrong ↔ badRelocTarget old ∨ ∀ new, RelocEntry.awaitingAck old new ∉ s.store.relocs := by
    simp only [wrong, badRelocTarget, or_assoc]
  refine ⟨fun hw => ?_, fun hw i new hi hj => ?_⟩
  · exact h.immediate_fails .ackRelocation hk (by decide) _ (Run.ackRelocation_bad _ n _ (hwrong.1 hw))
  · have hacks := (Run.of (s.accepting n x rest .ackRelocation)).ackRelocation_acks n (s.request n)
      (fun hb => hw (hwrong.2 (.inl hb))) i new hi hj
    exact h.immediate_to .ackRelocation hk (by decide) _ (hacks.trans (h.begun_endDone _ rfl 1 _)) rfl rfl

/-- A request that names a SCAN frame begins its operation on it (R69, R169, R187, R195). -/
theorem State.Accepts.onScan (k : Kind) (hk : byteAt (s.request n) 8 = k.value)
    (hi : k ≠ .fetch ∧ k ≠ .file ∧ k ≠ .importVol ∧ k ≠ .exportVol) (u : Run)
    (hu : u.slot = (s.accepting n x rest k).slot ∧ u.todo = [] ∧ u.pass = false)
    (hfails : ∀ c, (Run.of (s.accepting n x rest k)).scanTarget (s.request n) = some c →
      (Run.of (s.accepting n x rest k)).carryOut k n s.slot.nextAge (s.request n) =
        (Run.of (s.accepting n x rest k)).rejected n c)
    (hbegins : (Run.of (s.accepting n x rest k)).scanTarget (s.request n) = none →
      (Run.of (s.accepting n x rest k)).carryOut k n s.slot.nextAge (s.request n) = u.begun n) :
    (half (s.request n) 16 < 1 ∨ s.frame.frames.length < half (s.request n) 16 →
      exec (.acceptanceReadDone []) s = .next (s.acceptFails n x rest k .badRequest)) ∧
    (1 ≤ half (s.request n) 16 → half (s.request n) 16 ≤ s.frame.frames.length →
      ((∀ owner, s.frameAt (half (s.request n) 16) ≠ .scan owner) →
        exec (.acceptanceReadDone []) s = .next (s.acceptFails n x rest k .badFrame)) ∧
      (∀ owner, s.frameAt (half (s.request n) 16) = .scan owner →
        exec (.acceptanceReadDone []) s =
          .next ((s.accepting n x rest k).withRun { u with slot := (s.acceptBegins n x rest k).slot }))) := by
  obtain ⟨hslot, htodo, hpass⟩ := hu
  refine ⟨fun hb => ?_, fun h1 h2 => ⟨fun hb => ?_, fun owner ho => ?_⟩⟩
  · exact h.immediate_fails k hk hi _ (hfails _ (Run.scanTarget_badRequest _ _ hb))
  · exact h.immediate_fails k hk hi _ (hfails _ (Run.scanTarget_badFrame _ _ h1 h2 hb))
  · exact h.immediate_to k hk hi _
      ((hbegins (Run.scanTarget_scan _ _ h1 h2 owner ho)).trans (h.begun u hslot)) htodo hpass

/-- OPEN HATCH ends on a released or open hatch, and otherwise asks for a release (R78). -/
theorem State.Accepts.openHatch (hk : byteAt (s.request n) 8 = 18) :
    let waits (p : Picker) : State :=
      { s.acceptBegins n x rest .openHatch with picker := { p with hatchOps := s.picker.hatchOps ++ [n] } }
    (s.picker.hatch = .released ∨ s.picker.hatch = .opened →
      exec (.acceptanceReadDone []) s = .next (s.acceptEnds n x rest .openHatch 1 [])) ∧
    (s.picker.hatch = .releasePending → exec (.acceptanceReadDone []) s = .next (waits s.picker)) ∧
    (s.picker.hatch = .auditing ∨ (s.picker.hatch = .locked ∧
        (s.picker.audit ≠ none ∨ s.startup.stage = .drives ∨ s.startup.stage = .audit)) →
      exec (.acceptanceReadDone []) s =
        .next (waits { s.picker with pendingRelease := some (s.picker.pendingRelease.getD .request) })) ∧
    (s.picker.hatch = .locked → s.picker.audit = none → s.startup.stage = .done → s.picker.state = .moving →
      exec (.acceptanceReadDone []) s =
        .next (waits { s.picker with hatch := .releasePending, releaseCause := .request })) ∧
    (s.picker.hatch = .locked → s.picker.audit = none → s.startup.stage = .done → s.startup.initNext = none →
      s.picker.state ≠ .moving → s.picker.hatchOps = [] →
      exec (.acceptanceReadDone []) s =
        .next { (s.acceptEnds n x rest .openHatch 1 []).noticing (.hatchReleased .request) with
          picker := { s.picker with hatch := .released, releaseCause := .request, windowStart := some s.now } }) := by
  intro waits
  have hbegun := h.begun (Run.of (s.accepting n x rest .openHatch)) rfl
  have hcarry : ∀ r, r = Run.openHatch { Run.of (s.accepting n x rest .openHatch) with
        slot := (s.acceptBegins n x rest .openHatch).slot } n →
      (Run.of (s.accepting n x rest .openHatch)).carryOut .openHatch n s.slot.nextAge (s.request n) = r := by
    rintro r rfl
    exact congrArg (fun u : Run => u.openHatch n) hbegun
  refine ⟨fun hh => ?_, fun hh => ?_, fun hh => ?_, fun hh ha hs hm => ?_, fun hh ha hs hin hm ho => ?_⟩
  · have hopen := ((Run.of (s.accepting n x rest .openHatch)).begun n).openHatch_open n hh
    exact h.immediate_to .openHatch hk (by decide) _ (hopen.trans (h.begun_endDone _ rfl 1 [])) rfl rfl
  · exact h.immediate_to .openHatch hk (by decide) _ (hcarry _ (Run.openHatch_pending _ n hh).symm) rfl rfl
  · exact h.immediate_to .openHatch hk (by decide) _ (hcarry _ (Run.openHatch_audit _ n hh).symm) rfl rfl
  · exact h.immediate_then .openHatch hk (by decide) _ _ .hatch (hcarry _ (Run.openHatch_locked _ n hh ha hs).symm) rfl
      (Run.hatchStep_moving _ hm) rfl rfl
  · have hcalm : Run.hatchStep { (Run.of (s.accepting n x rest .openHatch)).hatchWaits n with
        slot := (s.acceptBegins n x rest .openHatch).slot,
        picker := { ((Run.of (s.accepting n x rest .openHatch)).hatchWaits n).picker with
          hatch := .releasePending, releaseCause := .request } } =
        { Run.of (s.accepting n x rest .openHatch) with
          slot := (s.acceptEnds n x rest .openHatch 1 []).slot.takeNotice (.hatchReleased .request),
          picker := { s.picker with
            hatch := .released, releaseCause := .request, windowStart := some s.now, hatchOps := [] } } := by
      have hin' : s.startup.inService = true := by simp [StartUp.inService, hs, hin]
      rw [Run.hatchStep_releases _ n rfl hm (congrArg (· ++ [n]) ho), h.begins_endDone _ rfl,
        Run.notice_inService _ _ hin']
      rfl
    have hstart := hcarry _ (Run.openHatch_locked _ n hh ha hs).symm
    have hops : ({ s.picker with hatchOps := [] } : Picker) = s.picker := by rw [← ho]
    rw [h.immediate_then .openHatch hk (by decide) _ _ .hatch hstart rfl hcalm rfl rfl]
    exact congrArg (fun p : Picker => Host.Outcome.next { (s.acceptEnds n x rest .openHatch 1 []).noticing
      (.hatchReleased .request) with picker := { p with
        hatch := .released, releaseCause := .request, windowStart := some s.now } }) hops

end
end Sys2Proof.Machine

namespace Sys2Proof.Machine

open Sys2Proof.Config

/-- A command's effect, where its own change causes one thing, and what that causes finds nothing to do. -/
theorem State.act_then_fixed (s : State) (f : Run → Run) (r r' : Run) (t : Todo) (h : f (Run.of s) = r)
    (ht : r.todo = [t]) (hc : Run.consequence { r with todo := [] } t = r') (hp : r'.pass = false)
    (hfix : ∀ t ∈ r'.todo, ∀ u : Run, u.toParts = r'.toParts → u.consequence t = u) : s.act f = s.withRun r' := by
  subst h
  have hf : fuel = 999999 + 1 := rfl
  unfold State.act State.withRun
  rw [hf, Run.settle_cons 999999 _ t [] ht, hc, Run.settle_fixed _ _ _ rfl hp hfix]

/-! ### RESTORE DRIVE (R98) -/

/-- Until the drives' step of the start-up sequence has ended no RESTORE begins (R98, R192). -/
theorem Run.restoreStep_early (r : Run) (h : r.startup.stage = .drives) : r.restoreStep = r := by
  simp [Run.restoreStep, h]

/-- The one RESTORE DRIVE may begin when it waits and no discarded RESTORE is in progress in its drive (R98, R100). -/
theorem Run.mayRestore_single (r : Run) (x : RestoreOp) (h : r.restores = [x]) :
    r.mayRestore x = (x.phase == .waiting && ((r.driveAt x.drive).state != .fault || (r.driveAt x.drive).command.isNone)) := by
  simp [Run.mayRestore, h]

/-- A RESTORE DRIVE that may not begin waits (R98). -/
theorem Run.restoreStep_waits (r : Run) (x : RestoreOp) (h : r.restores = [x]) (hm : r.mayRestore x = false) :
    r.restoreStep = r := by
  simp [Run.restoreStep, h, hm]

/-- The RESTORE of a drive in FAULT begins (R98). -/
theorem Run.restoreStep_begins (r : Run) (x : RestoreOp) (h : r.restores = [x]) (hm : r.mayRestore x = true)
    (hs : r.startup.stage = .audit ∨ r.startup.stage = .done) (hd : (r.driveAt x.drive).state = .fault) :
    r.restoreStep =
      Run.push { r.issue x.drive .restore 0 0 0 0 with restores := [{ x with phase := .restoring }] } .restores := by
  simp [Run.restoreStep, hs, h, hm, hd, Run.issue]

/-- A RESTORE DRIVE of a drive that is not in FAULT ends at once (R98). -/
theorem Run.restoreStep_ends (r : Run) (x : RestoreOp) (h : r.restores = [x]) (hm : r.mayRestore x = true)
    (hs : r.startup.stage = .audit ∨ r.startup.stage = .done) (hd : (r.driveAt x.drive).state ≠ .fault) :
    r.restoreStep = (Run.endDone { r with restores := [] } x.slot 1 []).push .restores := by
  simp [Run.restoreStep, hs, h, hm, hd, Run.restoreEnds]

/-- Without a RESTORE DRIVE none begins. -/
theorem Run.restoreStep_none (r : Run) (h : r.restores = []) : r.restoreStep = r := by
  simp [Run.restoreStep, h]

/-! ### CLOSE FILING PAIR (R150) -/

/-- No burn job is in hand (R135). -/
theorem Run.inHand_eq_none (r : Run)
    (h : ∀ j ∈ r.sched.jobs, j.kind.isBurn = false ∨ (j.state ≠ .running ∧ j.state ≠ .stopping)) : r.inHand = none := by
  refine List.find?_eq_none.2 fun j hj => ?_
  rcases h j hj with hk | ⟨h1, h2⟩
  · simp [hk]
  · simp [h1, h2]

/-- A burn job is in hand (R135). -/
theorem Run.inHand_isSome (r : Run)
    (h : ∃ j ∈ r.sched.jobs, j.kind.isBurn = true ∧ (j.state = .running ∨ j.state = .stopping)) : r.inHand.isSome = true := by
  obtain ⟨j, hj, hk, hs⟩ := h
  refine List.find?_isSome.2 ⟨j, hj, ?_⟩
  rcases hs with hs | hs <;> simp [hk, hs]

/-- A request to close waits while a burn job is in hand or pages are settling (R150). -/
theorem Run.closeStep_waits (r : Run) (h : r.inHand.isSome = true ∨ r.filing.flight ≠ []) : r.closeStep = r := by
  unfold Run.closeStep
  split
  · rfl
  · refine if_pos (h.imp_right fun hf => ?_)
    simpa using hf

/-- A request to close is carried out at once with no burn job in hand (R150). -/
theorem Run.closeStep_closes (r : Run) (slot : Nat) (ho : r.filing.closeOps = [slot]) (h : r.inHand = none)
    (hf : r.filing.flight = []) (u : Run) (hu : (r.abandonPair.decideClose .request).completeClose = u) :
    r.closeStep = (Run.endDone { u with filing := { u.filing with closeOps := [] } } slot 1 []).push .closes := by
  subst hu
  simp [Run.closeStep, ho, h, hf]

/-- With no pair there is nothing to close (R150). -/
theorem Run.closePair_absent (r : Run) (h : r.store.pair = .absent) :
    (r.abandonPair.decideClose .request).completeClose = r := by
  have ha : r.abandonPair = r := by simp [Run.abandonPair, h]
  have hd : r.decideClose .request = r := by simp [Run.decideClose, h]
  rw [ha, hd]
  simp [Run.completeClose, h]

/-- The pair's volumes are marked closed, the close is told, and the record becomes ABSENT (R149). -/
def Run.pairShut (r : Run) (p k : Nat) (cause : CloseCause) : Run :=
  (((r.modVolume p (fun v => { v with pairClosed := some true })).modVolume k
    (fun v => { v with pairClosed := some true })).notice (.pairClosed p k cause)).setPair .absent

/-- A notice and the filing pair record do not meet. -/
theorem Run.notice_setPair (r : Run) (pair : PairRec) (x : Notice) :
    (r.setPair pair).notice x = (r.notice x).setPair pair := by
  unfold Run.notice Run.setPair
  dsimp only
  split
  · rfl
  · split <;> rfl

/-- An ACTIVE pair is closed, and the close of a CLOSING one is completed (R149, R150). -/
theorem Run.closePair_shuts (r : Run) (p k : Nat) (side : Side) (cause : CloseCause)
    (h : (r.store.pair = .active p k side ∧ cause = .request) ∨ r.store.pair = .closing p k side cause) :
    (r.abandonPair.decideClose .request).completeClose = r.pairShut p k cause := by
  rcases h with ⟨h, rfl⟩ | h
  · have ha : r.abandonPair = r := by simp [Run.abandonPair, h]
    have hd : r.decideClose .request = r.setPair (.closing p k side .request) := by simp [Run.decideClose, h]
    rw [ha, hd]
    have hclosing : (r.setPair (.closing p k side .request)).completeClose =
        ((((r.modVolume p (fun v => { v with pairClosed := some true })).modVolume k
          (fun v => { v with pairClosed := some true })).setPair (.closing p k side .request)).notice
            (.pairClosed p k .request)).setPair .absent := rfl
    rw [hclosing, Run.notice_setPair]
    rfl
  · have ha : r.abandonPair = r := by simp [Run.abandonPair, h]
    have hd : r.decideClose .request = r := by simp [Run.decideClose, h]
    rw [ha, hd]
    simp [Run.completeClose, h, Run.pairShut]

section
variable {s : State} {n : Nat} {x : SlotRec} {rest : List WorkJob} (h : s.Accepts n x rest)
include h

/-- An immediate request whose carrying out causes one thing, after which nothing is left to do. -/
theorem State.Accepts.immediate_then_fixed (k : Kind) (hk : byteAt (s.request n) 8 = k.value)
    (hi : k ≠ .fetch ∧ k ≠ .file ∧ k ≠ .importVol ∧ k ≠ .exportVol) (r r' : Run) (t : Todo)
    (hf : (Run.of (s.accepting n x rest k)).carryOut k n s.slot.nextAge (s.request n) = r)
    (ht : r.todo = [t]) (hc : Run.consequence { r with todo := [] } t = r') (hp : r'.pass = false)
    (hfix : ∀ t ∈ r'.todo, ∀ u : Run, u.toParts = r'.toParts → u.consequence t = u) :
    exec (.acceptanceReadDone []) s = .next ((s.accepting n x rest k).withRun r') := by
  rw [h.immediate k hk hi, State.act_then_fixed _ _ r r' t hf ht hc hp hfix]

/-- RESTORE DRIVE waits for the drives' step of the start-up sequence, begins the RESTORE of a drive in FAULT, and ends
on one that is not (R98). -/
theorem State.Accepts.restoreDrive (hk : byteAt (s.request n) 8 = 26) :
    let d := byteAt (s.request n) 16
    let op (p : RestorePhase) : RestoreOp := { slot := n, drive := d, phase := p }
    (3 < d → exec (.acceptanceReadDone []) s = .next (s.acceptFails n x rest .restoreDrive .badRequest)) ∧
    (d ≤ 3 → s.startup.stage = .drives → s.restores = [] →
      exec (.acceptanceReadDone []) s =
        .next { s.acceptBegins n x rest .restoreDrive with restores := [op .waiting] }) ∧
    (d ≤ 3 → (s.startup.stage = .audit ∨ s.startup.stage = .done) → s.restores = [] →
      ((s.driveRec d).state = .fault → (s.driveRec d).command = none →
        exec (.acceptanceReadDone []) s =
          .next { (s.acceptBegins n x rest .restoreDrive).withDrive d (fun v =>
              { v with command := some { command := .restore, buf := 0, start := 0, count := 0, pos := 0,
                                         issuedAt := s.now, discard := false } }) with
            restores := [op .restoring] }) ∧
      ((s.driveRec d).state = .fault → (s.driveRec d).command ≠ none →
        exec (.acceptanceReadDone []) s =
          .next { s.acceptBegins n x rest .restoreDrive with restores := [op .waiting] }) ∧
      ((s.driveRec d).state ≠ .fault →
        exec (.acceptanceReadDone []) s = .next (s.acceptEnds n x rest .restoreDrive 1 []))) := by
  intro d op
  have himm : Kind.restoreDrive ≠ .fetch ∧ Kind.restoreDrive ≠ .file ∧ Kind.restoreDrive ≠ .importVol ∧
      Kind.restoreDrive ≠ .exportVol := by decide
  let waiting : Run := { Run.of (s.accepting n x rest .restoreDrive) with
    slot := (s.acceptBegins n x rest .restoreDrive).slot, restores := [op .waiting] }
  have hcarry : d ≤ 3 → s.restores = [] →
      (Run.of (s.accepting n x rest .restoreDrive)).carryOut .restoreDrive n s.slot.nextAge (s.request n) =
        waiting.push .restores := by
    intro hd hr
    refine (if_neg (Nat.not_lt.2 hd)).trans (congrArg (fun u : Run => u.push .restores) ?_)
    have hone : s.restores ++ [op .waiting] = [op .waiting] := by rw [hr]; rfl
    exact (congrArg (fun l => Run.begun { Run.of (s.accepting n x rest .restoreDrive) with restores := l } n) hone).trans
      (h.begun _ rfl)
  have hmay : waiting.mayRestore (op .waiting) = ((s.driveRec d).state != .fault || (s.driveRec d).command.isNone) :=
    waiting.mayRestore_single (op .waiting) rfl
  refine ⟨fun hd => ?_, fun hd hs hr => ?_, fun hd hs hr => ⟨fun hf hc => ?_, fun hf hc => ?_, fun hf => ?_⟩⟩
  · exact h.immediate_fails .restoreDrive hk himm _ (if_pos hd)
  · exact h.immediate_then .restoreDrive hk himm _ _ .restores (hcarry hd hr) rfl (Run.restoreStep_early waiting hs) rfl rfl
  · have hgo := waiting.restoreStep_begins (op .waiting) rfl (by simp [hmay, hc]) hs hf
    refine h.immediate_then_fixed .restoreDrive hk himm _ _ .restores (hcarry hd hr) rfl hgo rfl fun t ht u hu => ?_
    rw [List.mem_singleton.1 ht]
    have hu' : u.restores = [op .restoring] := congrArg (fun p : Parts => p.restores) hu
    exact u.restoreStep_waits _ hu' (by rw [u.mayRestore_single _ hu']; rfl)
  · exact h.immediate_then .restoreDrive hk himm _ _ .restores (hcarry hd hr) rfl
      (waiting.restoreStep_waits (op .waiting) rfl (by simp [hmay, hf, Option.isSome_iff_ne_none, hc])) rfl rfl
  · have hgo := waiting.restoreStep_ends (op .waiting) rfl (by simp [hmay, hf]) hs hf
    rw [h.begins_endDone _ rfl] at hgo
    have hends := h.immediate_then_fixed .restoreDrive hk himm _ _ .restores (hcarry hd hr) rfl hgo rfl fun t ht u hu => by
      rw [List.mem_singleton.1 ht]
      exact u.restoreStep_none (congrArg (fun p : Parts => p.restores) hu)
    refine hends.trans ?_
    exact congrArg (fun l => Host.Outcome.next { s.acceptEnds n x rest .restoreDrive 1 [] with restores := l }) hr.symm

/-- An ACTIVE immediate request ends DONE behind a notice just taken (R54, log entry 91). -/
theorem State.Accepts.told_endDone {k : Kind} (r : Run) (x' : Notice)
    (hr : r.slot = (s.acceptBegins n x rest k).slot.takeNotice x') (count : Nat) (w : List (Nat × List Byte)) :
    r.endDone n count w = { r with slot := { (s.acceptBegins n x rest k).slot.takeNotice x' with
      slots := (s.acceptEnds n x rest k count w).slot.slots,
      work := ((s.acceptBegins n x rest k).slot.takeNotice x').work ++
        [.writeBack n (writeBackWrites n { done := true, code := .ok, count := count } w)] } } := by
  obtain ⟨-, -, -, -, -, hout, -, -⟩ := id h
  have hslots : ((s.acceptBegins n x rest k).slot.takeNotice x').slots = (s.acceptBegins n x rest k).slot.slots :=
    SlotUnit.takeNotice_slots _ _
  have hhand : (r.slotAt n).inHand = true := by
    rw [Run.slotAt, hr, hslots, List.getD_eq_getElem?_getD, State.acceptBegins, h.getElem]
    simp [SlotRec.inHand, hout]
  have hmod : (s.acceptBegins n x rest k).slot.slots.modify n (fun y =>
      { y with outcome := some { done := true, code := .ok, count := count }, jobRef := none }) =
      (s.acceptEnds n x rest k count w).slot.slots := h.modify _ _ _ _
  rw [Run.endDone, Run.endReport_inHand _ _ _ _ hhand, hr, hslots, hmod]

/-- CLOSE FILING PAIR waits for the burn job in hand and the pages that settle, and otherwise closes at once (R150). -/
theorem State.Accepts.closePair (hk : byteAt (s.request n) 8 = 27) (ho : s.filing.closeOps = []) :
    ((∃ j ∈ s.sched.jobs, j.kind.isBurn = true ∧ (j.state = .running ∨ j.state = .stopping)) ∨ s.filing.flight ≠ [] →
      exec (.acceptanceReadDone []) s =
        .next { s.acceptBegins n x rest .closePair with filing := { s.filing with closeOps := [n] } }) ∧
    ((∀ j ∈ s.sched.jobs, j.kind.isBurn = false ∨ (j.state ≠ .running ∧ j.state ≠ .stopping)) →
      s.filing.flight = [] →
      (s.store.pair = .absent →
        exec (.acceptanceReadDone []) s = .next (s.acceptEnds n x rest .closePair 1 [])) ∧
      (∀ p k side cause, (s.store.pair = .active p k side ∧ cause = .request) ∨ s.store.pair = .closing p k side cause →
        s.startup.stage = .done → s.startup.initNext = none →
        let shut (t : State) (v : Nat) : State := t.withVolume v (fun y => { y with pairClosed := some true })
        let ends := s.acceptEnds n x rest .closePair 1 []
        let closed := shut (shut ends p) k
        let told := (s.acceptBegins n x rest .closePair).slot.takeNotice (.pairClosed p k cause)
        exec (.acceptanceReadDone []) s =
          .next { closed with
            store := { closed.store with pair := .absent },
            slot := { told with
              slots := ends.slot.slots,
              work := told.work ++
                [.writeBack n (writeBackWrites n { done := true, code := .ok, count := 1 } [])] } })) := by
  have himm : Kind.closePair ≠ .fetch ∧ Kind.closePair ≠ .file ∧ Kind.closePair ≠ .importVol ∧
      Kind.closePair ≠ .exportVol := by decide
  let waiting : Run := { Run.of (s.accepting n x rest .closePair) with
    slot := (s.acceptBegins n x rest .closePair).slot, filing := { s.filing with closeOps := [n] } }
  have hcarry : (Run.of (s.accepting n x rest .closePair)).carryOut .closePair n s.slot.nextAge (s.request n) =
      waiting.push .closes := by
    have hone : s.filing.closeOps ++ [n] = [n] := by rw [ho]; rfl
    refine congrArg (fun u : Run => u.push .closes) ?_
    exact (congrArg (fun l => Run.begun { Run.of (s.accepting n x rest .closePair) with
      filing := { s.filing with closeOps := l } } n) hone).trans (h.begun _ rfl)
  have hidle : ∀ (r' : Run), r'.filing.closeOps = [] → ∀ t ∈ [Todo.closes], ∀ u : Run, u.toParts = r'.toParts →
      u.consequence t = u := by
    intro r' hr' t ht u hu
    rw [List.mem_singleton.1 ht]
    exact u.closeStep_idle ((congrArg (fun p : Parts => p.filing.closeOps) hu).trans hr')
  have hnone : ({ s.filing with closeOps := [] } : Filing) = s.filing := by rw [← ho]
  let shut (t : State) (v : Nat) : State := t.withVolume v (fun y => { y with pairClosed := some true })
  refine ⟨fun hbusy => ?_, fun hj hf => ⟨fun hp => ?_, fun p k side cause hp hs hin => ?_⟩⟩
  · exact h.immediate_then .closePair hk himm _ _ .closes hcarry rfl
      (waiting.closeStep_waits (hbusy.imp_left waiting.inHand_isSome)) rfl rfl
  · have hgo := waiting.closeStep_closes n rfl (waiting.inHand_eq_none hj) hf _ (waiting.closePair_absent hp)
    rw [h.begins_endDone _ rfl] at hgo
    refine (h.immediate_then_fixed .closePair hk himm _ _ .closes hcarry rfl hgo rfl (hidle _ rfl)).trans ?_
    exact congrArg (fun l => Host.Outcome.next { s.acceptEnds n x rest .closePair 1 [] with filing := l }) hnone
  · have hgo := waiting.closeStep_closes n rfl (waiting.inHand_eq_none hj) hf _ (waiting.closePair_shuts p k side cause hp)
    have hin' : s.startup.inService = true := by simp [StartUp.inService, hs, hin]
    have hserv : ((waiting.modVolume p (fun v => { v with pairClosed := some true })).modVolume k
        (fun v => { v with pairClosed := some true })).startup.inService = true := hin'
    rw [Run.pairShut, Run.notice_inService _ _ hserv] at hgo
    rw [h.told_endDone (k := .closePair) _ (.pairClosed p k cause) rfl] at hgo
    refine (h.immediate_then_fixed .closePair hk himm _ _ .closes hcarry rfl hgo rfl (hidle _ rfl)).trans ?_
    exact congrArg (fun l => Host.Outcome.next { shut (shut (s.acceptEnds n x rest .closePair 1 []) p) k with
      store := { (shut (shut (s.acceptEnds n x rest .closePair 1 []) p) k).store with pair := .absent },
      slot := { (s.acceptBegins n x rest .closePair).slot.takeNotice (.pairClosed p k cause) with
        slots := (s.acceptEnds n x rest .closePair 1 []).slot.slots,
        work := ((s.acceptBegins n x rest .closePair).slot.takeNotice (.pairClosed p k cause)).work ++
          [WorkJob.writeBack n (writeBackWrites n { done := true, code := .ok, count := 1 } [])] },
      filing := l }) hnone

end

/-- Settles O36, kind by kind: each immediate request is carried out over the state its acceptance leaves. -/
theorem setFeesAndSetDeedSequenceTakeEffectAtAcceptance :
    Obligations.SetFeesAndSetDeedSequenceTakeEffectAtAcceptance := by
  unfold Obligations.SetFeesAndSetDeedSequenceTakeEffectAtAcceptance
  intro s n x rest h q kind done frame onScan record
  refine ⟨h.setFees, h.setDeedSequence, h.openScan, h.discardScan, h.ackRelocation, fun hk => ?_, fun hk => ?_,
    fun hk => ?_, fun hk => ?_, h.openHatch, fun hk => ?_, h.closePair⟩
  · exact h.onScan .accountStatement hk (by decide) { Run.of (s.accepting n x rest .accountStatement) with
      stmts := { s.stmts with account := s.stmts.account ++ [record (reqClear q)] } } ⟨rfl, rfl, rfl⟩
      (fun c hc => by simp only [Run.carryOut, Run.accountStatement, hc])
      (fun hc => by simp only [Run.carryOut, Run.accountStatement, hc]; rfl)
  · exact h.onScan .logStatement hk (by decide) { Run.of (s.accepting n x rest .logStatement) with
      stmts := { s.stmts with log := s.stmts.log ++ [record false] } } ⟨rfl, rfl, rfl⟩
      (fun c hc => by simp only [Run.carryOut, Run.logStatement, hc])
      (fun hc => by simp only [Run.carryOut, Run.logStatement, hc]; rfl)
  · exact h.onScan .inventoryStatement hk (by decide) { Run.of (s.accepting n x rest .inventoryStatement) with
      stmts := { s.stmts with inventory := s.stmts.inventory ++ [record false] } } ⟨rfl, rfl, rfl⟩
      (fun c hc => by simp only [Run.carryOut, Run.inventoryStatement, hc])
      (fun hc => by simp only [Run.carryOut, Run.inventoryStatement, hc]; rfl)
  · exact h.onScan .writeSettings hk (by decide) { Run.of (s.accepting n x rest .writeSettings) with
      startup := { s.startup with settingsOps := s.startup.settingsOps ++
        [{ slot := n, frame := frame, got := [], writing := false }] } } ⟨rfl, rfl, rfl⟩
      (fun c hc => by simp only [Run.carryOut, Run.writeSettings, hc])
      (fun hc => by simp only [Run.carryOut, Run.writeSettings, hc]; rfl)
  · obtain ⟨hbad, hearly, hlate⟩ := h.restoreDrive hk
    exact ⟨hbad, hearly, fun hd hs hr _ => hlate hd hs hr⟩

end Sys2Proof.Machine

namespace Sys2Proof.Machine

open Sys2Proof.Config

/-! ### A dispatch pass that finds one IMPORT waiting (R76, R104) -/

/-- The record of a job after a change that keeps its identity. -/
theorem Run.jobAt_modJob (r : Run) (id : Nat) (f : Job → Job) (hf : ∀ j, (f j).id = j.id) :
    (r.modJob id f).jobAt id = (r.jobAt id).map f := by
  unfold Run.jobAt Run.modJob
  dsimp only
  induction r.sched.jobs with
  | nil => rfl
  | cons j js ih =>
    by_cases hj : j.id = id
    · simp [hj, hf]
    · simpa [hj] using ih

/-- Until STARTED has been taken a pass changes nothing (R104). -/
theorem State.wantPass_unstarted (t : State) (h : t.startup.started = false) : t.act Run.wantPass = t :=
  State.act_still t Run.wantPass _ rfl (fun _ => False) (fun _ _ _ hf => hf.elim) (.inr h)
    (fun _ hx => (List.not_mem_nil hx).elim)

/-- The slot of an IMPORT that has just been started is told (R52). -/
theorem Run.tellStarted_import (r : Run) (j : Job) (c m : Nat) (hs : j.started = false)
    (hm : j.slot = some m) (k : Job) (hj : r.jobAt j.id = some k) (hkk : k.kind = .importIn c) :
    r.tellStarted j = r.slotStarted m := by
  simp [Run.tellStarted, hm, hs, Run.goesOn, hj, hkk]

/-- An ACCEPTED slot becomes ACTIVE with the start of its job (R52). -/
theorem Run.slotStarted_accepted (r : Run) (m : Nat) (y : SlotRec) (hy : r.slot.slots[m]? = some y)
    (ha : y.state = .accepted) :
    r.slotStarted m =
      { r with slot := { r.slot with slots := r.slot.slots.set m { y with state := .active } } } := by
  unfold Run.slotStarted Run.modSlot
  rw [modify_eq_set_of_getElem? _ m _ y hy, if_pos ha]

/-- An order joins the tail of the picker's list, for which the arm is then looked at (R70, R71). -/
theorem Run.placeOrder_entered (r : Run) (kind : OrderKind) (drive volume : Option Nat) (side : Option Side)
    (cell : Option Nat) (level : Nat) (who : Requester) (h : r.picker.state ≠ .fault) :
    r.placeOrder kind drive volume side cell level who =
      Run.push { r with picker := { r.picker with
        orders := r.picker.orders ++ [{ kind := kind, drive := drive, volume := volume, side := side, cell := cell,
                                        level := level, number := r.picker.nextOrder, requester := who }],
        nextOrder := satInc max32 r.picker.nextOrder } } .arm := by
  simp [Run.placeOrder, h]

/-- A pass takes the jobs of the level queues one by one, where no held preemption goes first (R104). -/
theorem Run.dispatch_queues (r : Run) (hs : r.startup.started = true) (ha : r.startup.acting = true)
    (hh : r.heldFirst = false) : r.dispatch = r.sched.queues.flatten.foldl (fun r i => r.passJob i) r := by
  have hself : ({ r with heldFirst := false } : Run) = r := by rw [← hh]
  have hall : ∀ l : List Nat, l.filter (fun i => !([] : List Nat).contains i) = l := fun l => by simp
  simp only [Run.dispatch, Run.passAllowed, hs, ha, hh, hself, Bool.and_self, if_true, Bool.false_eq_true, if_false,
    List.nil_append, hall]

/-- An IMPORT waiting in a level queue is started: it is RUNNING and out of its queue, its slot is ACTIVE, and its order is
the newest of the picker's list (R76). -/
theorem Run.passJob_import (r : Run) (j : Job) (c m : Nat) (y : SlotRec)
    (hq : r.sched.queues.any (fun q => q.contains j.id) = true) (hj : r.jobAt j.id = some j) (hk : j.kind = .importIn c)
    (hqueued : j.state = .queued) (hs : j.started = false) (hm : j.slot = some m) (hy : r.slot.slots[m]? = some y)
    (ha : y.state = .accepted) (hp : r.picker.state ≠ .fault) :
    r.passJob j.id = Run.push { r with
      sched := { r.sched with
        jobs := r.sched.jobs.map (fun k => if k.id = j.id then { k with state := .running, started := true } else k),
        queues := r.sched.queues.map (fun q => q.filter (fun i => i != j.id)) },
      slot := { r.slot with slots := r.slot.slots.set m { y with state := .active } },
      picker := { r.picker with
        orders := r.picker.orders ++
          [{ kind := .importIn, drive := none, volume := (r.volumeIn (.cell (88 + c))).map (fun v => v.serial),
             side := none, cell := some (88 + c), level := 3, number := r.picker.nextOrder, requester := .job j.id }],
        nextOrder := satInc 4294967295 r.picker.nextOrder } } .arm := by
  have hmarked : (r.markStarted j).jobAt j.id = some { j with state := .running, started := true } := by
    have hmod := r.jobAt_modJob j.id (fun k => { k with state := .running, started := true }) (fun _ => rfl)
    rw [hj] at hmod
    exact hmod
  have htold : (r.markStarted j).tellStarted j = { r.markStarted j with
      slot := { r.slot with slots := r.slot.slots.set m { y with state := .active } } } := by
    rw [Run.tellStarted_import _ j c m hs hm _ hmarked hk]
    exact Run.slotStarted_accepted _ m y hy ha
  have hcarries : j.carries = true := by simp [Job.carries, hqueued]
  have hpass : r.passJob j.id = (((r.markStarted j).tellStarted j).leaveQueue j.id).placeOrder .importIn none
      ((r.volumeIn (.cell (88 + c))).map (fun v => v.serial)) none (some (88 + c)) 3 (.job j.id) := by
    simp only [Run.passJob, hj, hq, hqueued, hcarries, hk, htold, Bool.not_true, Bool.false_eq_true, reduceCtorEq, or_self,
      if_false]
    rfl
  rw [hpass, htold]
  exact Run.placeOrder_entered (Run.leaveQueue _ j.id) _ _ _ _ _ _ _ hp

/-- A pass that finds one IMPORT waiting starts it; while the arm is in a move, that is all (R76, R104). -/
theorem State.pass_import (t : State) (j : Job) (c m : Nat) (y : SlotRec) (hstarted : t.startup.started = true)
    (hacting : t.startup.acting = true) (hq : t.sched.queues = [[], [], [], [j.id]])
    (hj : t.sched.jobs.find? (fun k => k.id == j.id) = some j) (hk : j.kind = .importIn c) (hqueued : j.state = .queued)
    (hs : j.started = false) (hm : j.slot = some m) (hy : t.slot.slots[m]? = some y) (ha : y.state = .accepted)
    (hp : t.picker.state ≠ .fault) :
    let begun : State := { t with
      sched := { t.sched with
        jobs := t.sched.jobs.map (fun k => if k.id = j.id then { k with state := .running, started := true } else k),
        queues := [[], [], [], []] },
      slot := { t.slot with slots := t.slot.slots.set m { y with state := .active } },
      picker := { t.picker with
        orders := t.picker.orders ++
          [{ kind := .importIn, drive := none, volume := (t.volumeIn (.cell (88 + c))).map (fun v => v.serial),
             side := none, cell := some (88 + c), level := 3, number := t.picker.nextOrder, requester := .job j.id }],
        nextOrder := satInc 4294967295 t.picker.nextOrder } }
    (Run.of t).dispatch = { Run.of begun with todo := [.arm] } ∧
    (t.picker.state = .moving → t.act Run.wantPass = begun) := by
  intro begun
  have hany : (Run.of t).sched.queues.any (fun q => q.contains j.id) = true := by simp [hq]
  have hdispatch : (Run.of t).dispatch = { Run.of begun with todo := [.arm] } := by
    rw [Run.dispatch_queues _ hstarted hacting rfl]
    simp only [Run.of_sched, hq, List.flatten_cons, List.flatten_nil, List.nil_append, List.append_nil, List.foldl_cons,
      List.foldl_nil]
    rw [Run.passJob_import _ j c m y hany hj hk hqueued hs hm hy ha hp]
    simp only [Run.of_sched, hq, List.map_cons, List.map_nil, List.filter_cons, List.filter_nil, bne_self_eq_false,
      Bool.false_eq_true, if_false]
    rfl
  refine ⟨hdispatch, fun hmoving => ?_⟩
  have harm : (Run.of begun).armStep = Run.of begun := by
    have hfree : (Run.of begun).armFree = false := by
      have hstate : (Run.of begun).picker.state = .moving := hmoving
      unfold Run.armFree
      rw [hstate]
      rfl
    simp [Run.armStep, hfree]
  have hf : fuel = 999998 + 1 + 1 := rfl
  have hsettle : Run.settle fuel (Run.of t).wantPass = Run.of begun := by
    rw [hf, Run.settle_pass _ _ rfl rfl]
    refine (congrArg (Run.settle (999998 + 1)) hdispatch).trans ?_
    rw [Run.settle_cons _ _ .arm [] rfl]
    exact (congrArg (Run.settle 999998) harm).trans (Run.settle_done _ _ rfl rfl)
  exact congrArg t.withRun hsettle

/-! ### The queued kinds at their acceptance (R52, R101, R103) -/

/-- A command whose own change causes nothing and leaves a pass wanted ends with the pass over the state it leaves. -/
theorem State.act_wantPass (s : State) (f : Run → Run) (r : Run) (h : f (Run.of s) = r.wantPass) (ht : r.todo = [])
    (hh : r.heldFirst = false) (hnow : r.now = s.now) (hset : r.settings = s.settings) :
    s.act f = (s.withRun r).act Run.wantPass := by
  have hrun : Run.wantPass (Run.of (s.withRun r)) = r.wantPass := by
    unfold Run.wantPass Run.of State.withRun
    rw [← ht, ← hh, ← hnow, ← hset]
  unfold State.act
  rw [h, hrun]
  rfl

/-- The job of a queued request is the newest of its level, with the acceptance number as its age (R52, R101, R103). -/
theorem State.createJob_acceptQueued (s : State) (n : Nat) (x : SlotRec) (rest : List WorkJob) (k : Kind) (r : Run)
    (hr : r.sched = s.sched) (kind : JobKind) (level : Nat) :
    r.createJob kind level s.slot.nextAge (some n) =
      (s.sched.nextJob, Run.wantPass { r with sched := (s.acceptQueued n x rest k kind level).sched }) := by
  unfold Run.createJob
  rw [hr]
  rfl

section
variable {s : State} {n : Nat} {x : SlotRec} {rest : List WorkJob} (h : s.Accepts n x rest)
include h

/-- A queued request at a level that its kind takes goes to the block that carries it out (R51, R52). -/
theorem State.Accepts.queued (k : Kind) (hk : byteAt (s.request n) 8 = k.value)
    (hl : badLevel k (byteAt (s.request n) 9) = false) :
    exec (.acceptanceReadDone []) s =
      .next ((s.accepting n x rest k).act (fun r => r.carryOut k n s.slot.nextAge (s.request n))) :=
  s.accept_carryOut n x rest k h (reqKind_of_value _ k hk) hl

/-- A queued request that fails its checks (R51). -/
theorem State.Accepts.queued_fails (k : Kind) (hk : byteAt (s.request n) 8 = k.value)
    (hl : badLevel k (byteAt (s.request n) 9) = false) (c : Code)
    (hf : (Run.of (s.accepting n x rest k)).carryOut k n s.slot.nextAge (s.request n) =
      (Run.of (s.accepting n x rest k)).rejected n c) :
    exec (.acceptanceReadDone []) s = .next (s.acceptFails n x rest k c) := by
  rw [h.queued k hk hl, h.act_rejected _ c hf]

/-- A queued request that passes its checks ends with a dispatch pass over the state its acceptance leaves (R52, R104). -/
theorem State.Accepts.queued_passes (k : Kind) (hk : byteAt (s.request n) 8 = k.value)
    (hl : badLevel k (byteAt (s.request n) 9) = false) (r : Run)
    (hf : (Run.of (s.accepting n x rest k)).carryOut k n s.slot.nextAge (s.request n) = r.wantPass) (ht : r.todo = [])
    (hh : r.heldFirst = false) (hnow : r.now = (s.accepting n x rest k).now)
    (hset : r.settings = (s.accepting n x rest k).settings) :
    exec (.acceptanceReadDone []) s = .next (((s.accepting n x rest k).withRun r).act Run.wantPass) := by
  rw [h.queued k hk hl, State.act_wantPass _ _ r hf ht hh hnow hset]

/-- IMPORT names an occupied hand-off cell (R76). -/
theorem State.Accepts.importVol (hk : byteAt (s.request n) 8 = 3) (hl : byteAt (s.request n) 9 = 3) :
    let c := byteAt (s.request n) 16
    if 1 < c ∨ (Run.of s).cellOccupied (88 + c) = false then
      exec (.acceptanceReadDone []) s = .next (s.acceptFails n x rest .importVol .badRequest)
    else exec (.acceptanceReadDone []) s =
      .next ((s.acceptQueued n x rest .importVol (.importIn c) 3).act Run.wantPass) := by
  intro c
  have hlevel : badLevel .importVol (byteAt (s.request n) 9) = false := by simp [badLevel, hl]
  have hocc : ∀ b, (!(Run.of (s.accepting n x rest .importVol)).cellOccupied (88 + c)) = b ↔
      (Run.of s).cellOccupied (88 + c) = !b := fun b => by
    rw [Bool.not_eq_eq_eq_not]
    exact Iff.rfl
  split
  next hbad => exact h.queued_fails .importVol hk hlevel _ (if_pos (hbad.imp_right (hocc true).2))
  next hgood =>
    let passed : Run := { Run.of (s.accepting n x rest .importVol) with
      sched := (s.acceptQueued n x rest .importVol (.importIn c) 3).sched,
      slot := (s.acceptQueued n x rest .importVol (.importIn c) 3).slot }
    have hjob := s.createJob_acceptQueued n x rest .importVol (Run.of (s.accepting n x rest .importVol)) rfl (.importIn c) 3
    have hcarry : (Run.of (s.accepting n x rest .importVol)).carryOut .importVol n s.slot.nextAge (s.request n) =
        passed.wantPass := by
      refine (if_neg (fun hb => hgood (hb.imp_right (hocc true).1))).trans ?_
      rw [hjob]
      exact h.accepted _ rfl (.importIn c) 3
    exact h.queued_passes .importVol hk hlevel passed hcarry rfl rfl rfl rfl

/-- EXPORT names a recorded volume that is in place and not in the filing pair (R77). -/
theorem State.Accepts.exportVol (hk : byteAt (s.request n) 8 = 4) (hl : byteAt (s.request n) 9 = 3) :
    let serial := word (s.request n) 16
    let done (t : State) : Prop := exec (.acceptanceReadDone []) s = .next t
    if serial = 0 then done (s.acceptFails n x rest .exportVol .badRequest)
    else ((Run.of s).locOf serial = none → done (s.acceptFails n x rest .exportVol .volumeUnknown)) ∧
      ((Run.of s).locOf serial = some .missing → done (s.acceptFails n x rest .exportVol .volumeMissing)) ∧
      (∀ l, (Run.of s).locOf serial = some l → l ≠ .missing →
        if s.store.pair.claims serial then done (s.acceptFails n x rest .exportVol .roleActive)
        else done ((s.acceptQueued n x rest .exportVol (.exportOut serial) 3).act Run.wantPass)) := by
  intro serial done
  have hlevel : badLevel .exportVol (byteAt (s.request n) 9) = false := by simp [badLevel, hl]
  have hcarry : (Run.of (s.accepting n x rest .exportVol)).carryOut .exportVol n s.slot.nextAge (s.request n) =
      (Run.of (s.accepting n x rest .exportVol)).acceptExport n s.slot.nextAge (s.request n) := rfl
  split
  next hbad => exact h.queued_fails .exportVol hk hlevel _ (if_pos hbad)
  next hgood =>
    refine ⟨fun hl => ?_, fun hl => ?_, fun l hl hm => ?_⟩
    · refine h.queued_fails .exportVol hk hlevel _ ((if_neg hgood).trans ?_)
      have hl' : (Run.of (s.accepting n x rest .exportVol)).locOf (word (s.request n) 16) = none := hl
      simp only [hl']
    · refine h.queued_fails .exportVol hk hlevel _ ((if_neg hgood).trans ?_)
      have hl' : (Run.of (s.accepting n x rest .exportVol)).locOf (word (s.request n) 16) = some .missing := hl
      simp only [hl']
    · have hl' : (Run.of (s.accepting n x rest .exportVol)).locOf (word (s.request n) 16) = some l := hl
      have hfound : (Run.of (s.accepting n x rest .exportVol)).carryOut .exportVol n s.slot.nextAge (s.request n) =
          if s.store.pair.claims serial then (Run.of (s.accepting n x rest .exportVol)).rejected n .roleActive
          else ((Run.of (s.accepting n x rest .exportVol)).createJob (.exportOut serial) 3 s.slot.nextAge (some n)).2.accepted
            n ((Run.of (s.accepting n x rest .exportVol)).createJob (.exportOut serial) 3 s.slot.nextAge (some n)).1 := by
        refine (if_neg hgood).trans ?_
        simp only [hl']
        cases l with
        | missing => exact absurd rfl hm
        | cell c => rfl
        | drive d => rfl
        | hand => rfl
      split
      next hc => exact h.queued_fails .exportVol hk hlevel _ (hfound.trans (if_pos hc))
      next hc =>
        let passed : Run := { Run.of (s.accepting n x rest .exportVol) with
          sched := (s.acceptQueued n x rest .exportVol (.exportOut serial) 3).sched,
          slot := (s.acceptQueued n x rest .exportVol (.exportOut serial) 3).slot }
        have hjob := s.createJob_acceptQueued n x rest .exportVol (Run.of (s.accepting n x rest .exportVol)) rfl
          (.exportOut serial) 3
        have hcarry := hfound.trans (if_neg hc)
        rw [hjob] at hcarry
        exact h.queued_passes .exportVol hk hlevel passed (hcarry.trans (h.accepted _ rfl (.exportOut serial) 3))
          rfl rfl rfl rfl

end

end Sys2Proof.Machine

namespace Sys2Proof.Machine

open Sys2Proof.Config

/-! ### FETCH (R118, R119, R120, R174) -/

/-- What makes a FETCH a bad request (R118). -/
def badFetch (q : List Byte) : Prop :=
  byteAt q 21 < 1 ∨ 16 < byteAt q 21 ∨ 1 < byteAt q 20 ∨ (∃ k ∈ fetchSectors q, k < 1 ∨ 524286 < k) ∨
    ¬ (fetchSectors q).Nodup ∨ word q 16 = 0 ∨ 2 < byteAt q 22 ∨ fetchSpecs q = none ∨
    (∃ specs, fetchSpecs q = some specs ∧ ∃ p ∈ specs, p.kind = .statutory ∧ reqLevel q ≠ 0)

/-- A byte names a side when it is 0 or 1 (R196). -/
theorem sideOf_isSome (b : Nat) : (sideOf b).isSome = true ↔ b ≤ 1 := by
  unfold sideOf
  split
  · simp; omega
  · split
    · simp; omega
    · simp; omega

/-- A byte that names a side names A with 0. -/
theorem sideOf_getD (b : Nat) (h : b ≤ 1) : (sideOf b).getD .a = if b = 0 then .a else .b := by
  unfold sideOf
  split
  · rfl
  · rw [if_pos (by omega)]
    rfl

theorem fetchGood_iff (q : List Byte) : fetchGood q = true ↔ ¬ badFetch q := by
  have hspecs : (fetchSpecs q).isSome = true ∧
      (∀ p ∈ (fetchSpecs q).getD [], p.kind ≠ .statutory ∨ reqLevel q = 0) ↔
      ¬ (fetchSpecs q = none ∨ ∃ specs, fetchSpecs q = some specs ∧ ∃ p ∈ specs, p.kind = .statutory ∧ reqLevel q ≠ 0) := by
    cases fetchSpecs q with
    | none => simp
    | some specs =>
      simp only [Option.isSome_some, Option.getD_some, true_and, reduceCtorEq, false_or, Option.some.injEq,
        exists_eq_left', not_exists, not_and, not_not, imp_iff_not_or, ne_eq]
  simp only [fetchGood, Bool.and_eq_true, decide_eq_true_eq, sideOf_isSome, List.all_eq_true, noRepeats_iff,
    bne_iff_ne, Bool.or_eq_true, beq_iff_eq, badFetch, and_assoc]
  rw [hspecs]
  have hsectors : (∀ k ∈ fetchSectors q, 1 ≤ k ∧ k ≤ 524286) ↔ ¬ ∃ k ∈ fetchSectors q, k < 1 ∨ 524286 < k := by
    push Not
    rfl
  rw [hsectors]
  push Not
  tauto

/-- The set-asides of a request are given back: the table is as it was before it (R174). -/
theorem giveBack_fillEntries (gs : List (Option Grant)) (new : List Grant) (m k slot : Nat)
    (hnew : ∀ g ∈ new, g.state = .setAside ∧ g.slot = slot)
    (hold : ∀ g, some g ∈ gs → g.state = .setAside → g.slot ≠ slot) :
    (fillEntries gs new m k).map (fun o => o.bind (fun g =>
      if g.state = .setAside ∧ (g.slot == slot) = true then none else some g)) = gs := by
  have hkeep : ∀ (o : Option Grant), o ∈ gs → o.bind (fun g : Grant =>
      if g.state = .setAside ∧ (g.slot == slot) = true then none else some g) = o := by
    rintro (_ | g) hm
    · rfl
    · exact if_neg fun hb => hold g hm hb.1 (by simpa using hb.2)
  induction gs generalizing new m k with
  | nil => rfl
  | cons e es ih =>
    obtain ⟨hehead, hetail⟩ := List.forall_mem_cons.1 hkeep
    have hes : ∀ g, some g ∈ es → g.state = .setAside → g.slot ≠ slot := fun g hg => hold g (List.mem_cons_of_mem _ hg)
    cases new with
    | nil => exact (List.map_congr_left hkeep).trans (List.map_id _)
    | cons g gs =>
      cases e with
      | some e => rw [fillEntries, List.map_cons, hehead, ih (g :: gs) _ _ hnew hes hetail]; simp
      | none =>
        obtain ⟨hg, hrest⟩ := List.forall_mem_cons.1 hnew
        rw [fillEntries, List.map_cons, ih gs _ _ hrest hes hetail]
        simp [hg]

/-- Every grant that a request wants is set aside for its slot (R174). -/
theorem wantedGrants_setAside (slot pages : Nat) (specs : List GrantSpec) :
    ∀ g ∈ wantedGrants slot pages specs, g.state = .setAside ∧ g.slot = slot := by
  intro g hg
  simp only [wantedGrants, List.mem_flatMap, List.mem_map] at hg
  obtain ⟨p, -, sp, -, rfl⟩ := hg
  exact ⟨rfl, rfl⟩

/-- The grants of a request are set aside: every entry it wants, in the lowest free places (R174). -/
def FeeMeter.withSetAside (m : FeeMeter) (grants : List Grant) : FeeMeter :=
  { m with grants := fillEntries m.grants grants m.nextGrant m.nextOrder,
           nextGrant := satAdd max32 m.nextGrant grants.length,
           nextOrder := m.nextOrder + grants.length }

theorem Run.setAside_none (r : Run) (slot pages : Nat) (specs : List GrantSpec)
    (h : r.fee.freeEntries < (wantedGrants slot pages specs).length) : r.setAside slot pages specs = none :=
  if_neg (Nat.not_le.2 h)

theorem Run.setAside_some (r : Run) (slot pages : Nat) (specs : List GrantSpec)
    (h : (wantedGrants slot pages specs).length ≤ r.fee.freeEntries) :
    r.setAside slot pages specs = some { r with fee := r.fee.withSetAside (wantedGrants slot pages specs) } :=
  if_pos h

/-- The FETCH job record that an accepted FETCH makes (R120). -/
def fetchRecord (slot job : Nat) (q : List Byte) (specs : List GrantSpec) : FetchJob :=
  { job := job, slot := slot, serial := word q 16, side := if byteAt q 20 = 0 then .a else .b, specs := specs,
    resolved := false,
    pages := (fetchSectors q).map (fun k =>
      PageEntry.fresh { serial := word q 16, side := if byteAt q 20 = 0 then .a else .b, sector := k }) }

/-- A FETCH that names a volume in place comes to its grants (R120, R174). -/
theorem Run.acceptFetch_found (r : Run) (slot age : Nat) (q : List Byte) (h : ¬ badFetch q) (specs : List GrantSpec)
    (hspecs : fetchSpecs q = some specs) (l : Loc) (hl : r.locOf (word q 16) = some l) (hm : l ≠ .missing) :
    r.acceptFetch slot age q =
      match r.setAside slot (byteAt q 21) specs with
      | none => r.rejected slot .grantsFull
      | some u =>
        if specs.all (fun s => (u.account s.account).isOpen) then
          Run.accepted { (u.createJob .fetch (reqLevel q) age (some slot)).2 with
            retr := { u.retr with fetches := u.retr.fetches ++
              [fetchRecord slot (u.createJob .fetch (reqLevel q) age (some slot)).1 q specs] } }
            slot (u.createJob .fetch (reqLevel q) age (some slot)).1
        else (u.giveBack (fun g => g.slot == slot)).rejected slot .accountClosed := by
  have hgood : (!fetchGood q) = false := by rw [Bool.not_eq_false', fetchGood_iff]; exact h
  have hside : byteAt q 20 ≤ 1 := by
    by_contra hb
    exact h (.inr (.inr (.inl (Nat.lt_of_not_le hb))))
  unfold Run.acceptFetch fetchRecord
  rw [hgood]
  simp only [Bool.false_eq_true, if_false, hspecs, Option.getD_some, hl, sideOf_getD _ hside]
  cases l with
  | missing => exact absurd rfl hm
  | cell c => rfl
  | drive d => rfl
  | hand => rfl

/-- A FETCH of a volume that is not recorded, or is MISSING, fails (R119). -/
theorem Run.acceptFetch_lost (r : Run) (slot age : Nat) (q : List Byte) (h : ¬ badFetch q) :
    (r.locOf (word q 16) = none → r.acceptFetch slot age q = r.rejected slot .volumeUnknown) ∧
    (r.locOf (word q 16) = some .missing → r.acceptFetch slot age q = r.rejected slot .volumeMissing) := by
  have hgood : (!fetchGood q) = false := by rw [Bool.not_eq_false', fetchGood_iff]; exact h
  unfold Run.acceptFetch
  rw [hgood]
  refine ⟨fun hl => ?_, fun hl => ?_⟩ <;> simp only [Bool.false_eq_true, if_false, hl]

/-- Giving back what a request has just set aside leaves the grant table as it was (R174). -/
theorem Run.giveBack_withSetAside (r : Run) (slot pages : Nat) (specs : List GrantSpec)
    (hold : ∀ g, some g ∈ r.fee.grants → g.state = .setAside → g.slot ≠ slot) :
    Run.giveBack { r with fee := r.fee.withSetAside (wantedGrants slot pages specs) } (fun g => g.slot == slot) =
      { r with fee := { r.fee.withSetAside (wantedGrants slot pages specs) with grants := r.fee.grants } } :=
  congrArg (fun l => { r with fee := { r.fee.withSetAside (wantedGrants slot pages specs) with grants := l } })
    (giveBack_fillEntries _ _ _ _ _ (wantedGrants_setAside slot pages specs) hold)

section
variable {s : State} {n : Nat} {x : SlotRec} {rest : List WorkJob} (h : s.Accepts n x rest)
include h

/-- A queued request whose carrying out changes the blocks and causes nothing. -/
theorem State.Accepts.queued_to (k : Kind) (hk : byteAt (s.request n) 8 = k.value)
    (hl : badLevel k (byteAt (s.request n) 9) = false) (r : Run)
    (hf : (Run.of (s.accepting n x rest k)).carryOut k n s.slot.nextAge (s.request n) = r)
    (ht : r.todo = []) (hp : r.pass = false) :
    exec (.acceptanceReadDone []) s = .next ((s.accepting n x rest k).withRun r) := by
  rw [h.queued k hk hl, State.act_to _ _ r hf ht hp]

/-- FETCH is checked, sets its grants aside, and gives them back where an account is CLOSED (R118, R119, R120, R174). -/
theorem State.Accepts.fetch (hk : byteAt (s.request n) 8 = 1) (hl : byteAt (s.request n) 9 ≤ 3) :
    let q := s.request n
    let serial := word q 16
    (badFetch q → exec (.acceptanceReadDone []) s = .next (s.acceptFails n x rest .fetch .badRequest)) ∧
    (¬ badFetch q → (Run.of s).locOf serial = none →
      exec (.acceptanceReadDone []) s = .next (s.acceptFails n x rest .fetch .volumeUnknown)) ∧
    (¬ badFetch q → (Run.of s).locOf serial = some .missing →
      exec (.acceptanceReadDone []) s = .next (s.acceptFails n x rest .fetch .volumeMissing)) ∧
    (∀ specs loc, ¬ badFetch q → fetchSpecs q = some specs → (Run.of s).locOf serial = some loc → loc ≠ .missing →
      let grants := wantedGrants n (byteAt q 21) specs
      let opened := ∀ p ∈ specs, (s.store.accounts.getD p.account Account.closed).isOpen = true
      (s.fee.freeEntries < grants.length →
        exec (.acceptanceReadDone []) s = .next (s.acceptFails n x rest .fetch .grantsFull)) ∧
      (grants.length ≤ s.fee.freeEntries → ¬ opened →
        (∀ g, some g ∈ s.fee.grants → g.state = .setAside → g.slot ≠ n) →
        exec (.acceptanceReadDone []) s =
          .next { s.acceptFails n x rest .fetch .accountClosed with
            fee := { s.fee.withSetAside grants with grants := s.fee.grants } }) ∧
      (grants.length ≤ s.fee.freeEntries → opened →
        exec (.acceptanceReadDone []) s = .next (State.act { s.acceptQueued n x rest .fetch .fetch (reqLevel q) with
          fee := s.fee.withSetAside grants,
          retr := { s.retr with fetches := s.retr.fetches ++ [fetchRecord n s.sched.nextJob q specs] } }
            Run.wantPass))) := by
  intro q serial
  have hlevel : badLevel .fetch (byteAt (s.request n) 9) = false := by simp [badLevel]; omega
  refine ⟨fun hw => ?_, fun hw hloc => ?_, fun hw hloc => ?_, fun specs loc hw hspecs hloc hm => ?_⟩
  · refine h.queued_fails .fetch hk hlevel _ (if_pos ?_)
    rw [Bool.not_eq_true', ← Bool.not_eq_true, fetchGood_iff, not_not]
    exact hw
  · exact h.queued_fails .fetch hk hlevel _ ((Run.acceptFetch_lost _ n _ q hw).1 hloc)
  · exact h.queued_fails .fetch hk hlevel _ ((Run.acceptFetch_lost _ n _ q hw).2 hloc)
  · intro grants opened
    have hfound := (Run.of (s.accepting n x rest .fetch)).acceptFetch_found n s.slot.nextAge q hw specs hspecs loc hloc hm
    have hall : specs.all (fun p => ((Run.of s).account p.account).isOpen) = true ↔ opened := List.all_eq_true
    refine ⟨fun hfull => ?_, fun hroom hclosed hold => ?_, fun hroom hopen => ?_⟩
    · rw [Run.setAside_none _ _ _ _ hfull] at hfound
      exact h.queued_fails .fetch hk hlevel _ hfound
    · rw [Run.setAside_some _ _ _ _ hroom] at hfound
      have hback := hfound.trans (if_neg (fun ho => hclosed (hall.1 ho)))
      rw [Run.giveBack_withSetAside _ n _ specs hold, h.rejected _ rfl] at hback
      exact h.queued_to .fetch hk hlevel _ hback rfl rfl
    · rw [Run.setAside_some _ _ _ _ hroom] at hfound
      have hmade := hfound.trans (if_pos (hall.2 hopen))
      rw [s.createJob_acceptQueued n x rest .fetch _ rfl .fetch (reqLevel q), h.accepted _ rfl .fetch (reqLevel q)] at hmade
      let passed : Run := { Run.of (s.accepting n x rest .fetch) with
        sched := (s.acceptQueued n x rest .fetch .fetch (reqLevel q)).sched,
        slot := (s.acceptQueued n x rest .fetch .fetch (reqLevel q)).slot,
        fee := s.fee.withSetAside grants,
        retr := { s.retr with fetches := s.retr.fetches ++ [fetchRecord n s.sched.nextJob q specs] } }
      exact h.queued_passes .fetch hk hlevel passed hmade rfl rfl rfl rfl

end

end Sys2Proof.Machine

namespace Sys2Proof.Machine

open Sys2Proof.Config

/-! ### FILE (R17, R141, R142) -/

/-- What makes a FILE a bad request (R141). -/
def Run.badFile (r : Run) (q : List Byte) : Prop :=
  byteAt q 17 < 1 ∨ 16 < byteAt q 17 ∨ 15 < byteAt q 16 ∨
    (∃ f ∈ (filePages q).map Prod.fst, f < 1 ∨ r.frame.frames.length < f) ∨ ¬ ((filePages q).map Prod.fst).Nodup ∨
    (∃ p ∈ filePages q, p.2 < 1 ∨ 131072 < p.2)

theorem Run.fileGood_iff (r : Run) (q : List Byte) : r.fileGood q = true ↔ ¬ r.badFile q := by
  have himage : (∀ p ∈ filePages q, r.isImageFrame p.1 = true) ↔
      ¬ ∃ f ∈ (filePages q).map Prod.fst, f < 1 ∨ r.frame.frames.length < f := by
    simp only [List.mem_map, not_exists, not_and, forall_exists_index, and_imp, ← r.isImageFrame_eq_false_iff,
      Bool.not_eq_false]
    exact ⟨fun h f p hp he => he ▸ h p hp, fun h p hp => h p.1 p hp rfl⟩
  have hlen : (∀ p ∈ filePages q, 1 ≤ p.2 ∧ p.2 ≤ 131072) ↔ ¬ ∃ p ∈ filePages q, p.2 < 1 ∨ 131072 < p.2 := by
    push Not
    rfl
  simp only [Run.fileGood, Bool.and_eq_true, decide_eq_true_eq, List.all_eq_true, noRepeats_iff, and_assoc]
  rw [himage, hlen, Run.badFile]
  push Not
  rfl

/-- Page `i` of a FILE becomes FILING (R17). -/
def Run.pageToFiling (r : Run) (slot deedClass seq : Nat) (pages : List (Nat × Nat)) (i : Nat) : Run :=
  match pages[i]? with
  | some p => r.toFiling slot deedClass seq i p.1 p.2
  | none => r

/-- The burn job record that an accepted FILE makes (R142). -/
def fileRecord (slot job seq : Nat) (q : List Byte) : BurnJob :=
  { job := job, slot := some slot, entry := none, deedClass := byteAt q 16, deedSeq := seq, pageIndex := 0,
    stamp := (q.drop 24).take 8, origin := none,
    pages := (filePages q).map (fun p => { frame := p.1, imageLen := p.2, attempts := 0, placed := none }),
    waiting := (List.range (filePages q).length).map Item.page, failing := none }

/-- The first `k` pages of a FILE become FILING (R17). -/
def Run.filed (r : Run) (slot deedClass seq : Nat) (pages : List (Nat × Nat)) (k : Nat) : Run :=
  (List.range k).foldl (fun r i => r.pageToFiling slot deedClass seq pages i) r

theorem Run.acceptFile_bad (r : Run) (slot age : Nat) (q : List Byte) (h : r.badFile q) :
    r.acceptFile slot age q = r.rejected slot .badRequest := by
  refine if_pos ?_
  rw [Bool.not_eq_true', ← Bool.not_eq_true, r.fileGood_iff, not_not]
  exact h

/-- Every page of a FILE names a SCAN frame, or some does not (R141). -/
theorem Run.filePages_scan (r : Run) (q : List Byte) :
    (filePages q).all (fun p => (r.frameAt p.1).isScan) = true ↔
      ∀ f ∈ (filePages q).map Prod.fst, ∃ owner, r.frameAt f = .scan owner := by
  simp only [List.all_eq_true, Frame.isScan_iff, List.mem_map, forall_exists_index, and_imp]
  exact ⟨fun h f p hp he => he ▸ h p hp, fun h p hp => h p.1 p hp rfl⟩

theorem Run.acceptFile_badFrame (r : Run) (slot age : Nat) (q : List Byte) (h : ¬ r.badFile q)
    (hf : ∃ f ∈ (filePages q).map Prod.fst, ∀ owner, r.frameAt f ≠ .scan owner) :
    r.acceptFile slot age q = r.rejected slot .badFrame := by
  have hgood : (!r.fileGood q) = false := by rw [Bool.not_eq_false', r.fileGood_iff]; exact h
  refine (if_neg (by rw [hgood]; exact Bool.false_ne_true)).trans (if_pos ?_)
  rw [Bool.not_eq_true', ← Bool.not_eq_true, r.filePages_scan]
  obtain ⟨f, hm, hne⟩ := hf
  exact fun hall => (hall f hm).elim fun owner ho => hne owner ho

/-- A FILE of SCAN frames comes to the deed sequence (R141). -/
theorem Run.acceptFile_scan (r : Run) (slot age : Nat) (q : List Byte) (h : ¬ r.badFile q)
    (hf : ∀ f ∈ (filePages q).map Prod.fst, ∃ owner, r.frameAt f = .scan owner) :
    r.acceptFile slot age q =
      if r.store.deedSeq = 0 then r.rejected slot .sequenceUnset
      else
        let seq := r.store.deedSeq
        let u := Run.filed { r with store := { r.store with deedSeq := (seq + 1) % 4294967296 } } slot (byteAt q 16) seq
          (filePages q) (filePages q).length
        let v := u.createJob .file (reqLevel q) age (some slot)
        Run.accepted { v.2 with filing := { v.2.filing with burns := v.2.filing.burns ++ [fileRecord slot v.1 seq q] } }
          slot v.1 := by
  have hgood : (!r.fileGood q) = false := by rw [Bool.not_eq_false', r.fileGood_iff]; exact h
  have hscan := (r.filePages_scan q).2 hf
  refine (if_neg (by rw [hgood]; exact Bool.false_ne_true)).trans ((if_neg ?_).trans rfl)
  rw [hscan]
  exact Bool.false_ne_true

/-- A SCAN frame becomes FILING (R17). -/
theorem Run.toFiling_scan (r : Run) (slot deedClass seq i frame imageLen owner : Nat) (h : r.frameAt frame = .scan owner) :
    r.toFiling slot deedClass seq i frame imageLen = r.setFrame frame (.filing none
      { deedClass := deedClass, deedSeq := seq, pageIndex := i, imageLen := imageLen } owner [.slot slot]) := by
  simp [Run.toFiling, h]

/-- A frame becoming FILING changes the frame records alone. -/
theorem Run.toFiling_eq (r : Run) (slot deedClass seq i frame imageLen : Nat) :
    r.toFiling slot deedClass seq i frame imageLen =
      r.withFrames (r.toFiling slot deedClass seq i frame imageLen).frame.frames := by
  unfold Run.toFiling
  split
  · exact r.setFrame_eq _ _
  · rfl

/-- The filing of the pages changes the frame records alone. -/
theorem Run.filed_eq (r : Run) (slot deedClass seq : Nat) (pages : List (Nat × Nat)) (k : Nat) :
    r.filed slot deedClass seq pages k = r.withFrames (r.filed slot deedClass seq pages k).frame.frames := by
  unfold Run.filed
  induction k with
  | zero => rfl
  | succ k ih =>
    rw [List.range_succ, List.foldl_append, List.foldl_cons, List.foldl_nil]
    generalize (List.range k).foldl (fun r i => r.pageToFiling slot deedClass seq pages i) r = u at ih
    have hstep : u.pageToFiling slot deedClass seq pages k =
        u.withFrames (u.pageToFiling slot deedClass seq pages k).frame.frames := by
      unfold Run.pageToFiling
      split
      · exact u.toFiling_eq ..
      · rfl
    refine hstep.trans ?_
    have hrest (xs : List Frame) : u.withFrames xs = r.withFrames xs :=
      (congrArg (fun v : Run => v.withFrames xs) ih).trans rfl
    exact hrest _

/-- The frame records after the first `k` pages, whose frames differ, have become FILING (R17). -/
theorem Run.frameAt_filed (r : Run) (slot deedClass seq : Nat) (pages : List (Nat × Nat))
    (hnodup : (pages.map Prod.fst).Nodup) (hscan : ∀ p ∈ pages, ∃ owner, r.frameAt p.1 = .scan owner) (k : Nat)
    (hk : k ≤ pages.length) :
    (∀ i p owner, i < k → pages[i]? = some p → r.frameAt p.1 = .scan owner →
      (r.filed slot deedClass seq pages k).frameAt p.1 = .filing none
        { deedClass := deedClass, deedSeq := seq, pageIndex := i, imageLen := p.2 } owner [.slot slot]) ∧
    (∀ f, (∀ i p, i < k → pages[i]? = some p → p.1 ≠ f) →
      (r.filed slot deedClass seq pages k).frameAt f = r.frameAt f) := by
  induction k with
  | zero => exact ⟨fun i p owner hi => absurd hi (Nat.not_lt_zero i), fun f _ => rfl⟩
  | succ k ih =>
    obtain ⟨hfiled, hother⟩ := ih (Nat.le_of_succ_le hk)
    have hget : pages[k]? = some pages[k] := List.getElem?_eq_getElem hk
    obtain ⟨owner, howner⟩ := hscan _ (List.getElem_mem hk)
    have hdiff : ∀ i p, i < k → pages[i]? = some p → p.1 ≠ pages[k].1 := by
      intro i p hi hp he
      obtain ⟨hilt, rfl⟩ := List.getElem?_eq_some_iff.1 hp
      have hsame : (pages.map Prod.fst)[i]'(by simpa using hilt) = (pages.map Prod.fst)[k]'(by simpa using hk) := by
        simpa using he
      exact hi.ne ((hnodup.getElem_inj_iff).1 hsame)
    have hnow : (r.filed slot deedClass seq pages k).frameAt pages[k].1 = .scan owner := (hother _ hdiff).trans howner
    have hstep : r.filed slot deedClass seq pages (k + 1) =
        (r.filed slot deedClass seq pages k).setFrame pages[k].1 (.filing none
          { deedClass := deedClass, deedSeq := seq, pageIndex := k, imageLen := pages[k].2 } owner [.slot slot]) := by
      rw [← Run.toFiling_scan _ _ _ _ _ _ _ _ hnow]
      simp [Run.filed, List.range_succ, Run.pageToFiling, hget]
    obtain ⟨hpos, hrec⟩ := Run.frameAt_pos (r.filed slot deedClass seq pages k) pages[k].1
      (by rw [hnow]; exact fun h => Frame.noConfusion h)
    have hle : pages[k].1 ≤ (r.filed slot deedClass seq pages k).frame.frames.length := by
      have := (List.getElem?_eq_some_iff.1 hrec).1
      omega
    rw [hstep]
    refine ⟨fun i p o hi hp ho => ?_, fun f hf => ?_⟩
    · rcases Nat.lt_succ_iff_lt_or_eq.1 hi with hlt | rfl
      · rw [Run.frameAt_setFrame, if_neg fun hc => hdiff i p hlt hp hc.1]
        exact hfiled i p o hlt hp ho
      · obtain rfl : pages[i] = p := Option.some.inj (hget.symm.trans hp)
        obtain rfl : owner = o := Frame.scan.inj (howner.symm.trans ho)
        exact (Run.frameAt_setFrame ..).trans (if_pos ⟨rfl, hpos, hle⟩)
    · rw [Run.frameAt_setFrame, if_neg fun hc => hf k _ (Nat.lt_succ_self k) hget hc.1.symm]
      exact hother f fun i p hi => hf i p (Nat.lt_succ_of_lt hi)

section
variable {s : State} {n : Nat} {x : SlotRec} {rest : List WorkJob} (h : s.Accepts n x rest)
include h

/-- FILE is checked, takes the deed sequence, and its frames become FILING, held by the slot (R17, R141, R142). -/
theorem State.Accepts.file (hk : byteAt (s.request n) 8 = 2) (hpos : 1 ≤ byteAt (s.request n) 9)
    (hl : byteAt (s.request n) 9 ≤ 3) :
    let q := s.request n
    let pages := filePages q
    let frames := pages.map Prod.fst
    let seq := s.store.deedSeq
    ((Run.of s).badFile q → exec (.acceptanceReadDone []) s = .next (s.acceptFails n x rest .file .badRequest)) ∧
    (¬ (Run.of s).badFile q → (∃ f ∈ frames, ∀ owner, s.frameAt f ≠ .scan owner) →
      exec (.acceptanceReadDone []) s = .next (s.acceptFails n x rest .file .badFrame)) ∧
    (¬ (Run.of s).badFile q → (∀ f ∈ frames, ∃ owner, s.frameAt f = .scan owner) → seq = 0 →
      exec (.acceptanceReadDone []) s = .next (s.acceptFails n x rest .file .sequenceUnset)) ∧
    (¬ (Run.of s).badFile q → (∀ f ∈ frames, ∃ owner, s.frameAt f = .scan owner) → seq ≠ 0 →
      ∃ t : State, exec (.acceptanceReadDone []) s = .next (t.act Run.wantPass) ∧
        t = { s.acceptQueued n x rest .file .file (byteAt q 9) with
          frame := { s.frame with frames := t.frame.frames },
          store := { s.store with deedSeq := (seq + 1) % 4294967296 },
          filing := { s.filing with burns := s.filing.burns ++ [fileRecord n s.sched.nextJob seq q] } } ∧
        (∀ i (p : Nat × Nat) owner, pages[i]? = some p → s.frameAt p.1 = .scan owner →
          t.frameAt p.1 = .filing none
            { deedClass := byteAt q 16, deedSeq := seq, pageIndex := i, imageLen := p.2 } owner [.slot n]) ∧
        (∀ f, f ∉ frames → t.frameAt f = s.frameAt f)) := by
  intro q pages frames seq
  have hlevel : badLevel .file (byteAt (s.request n) 9) = false := by simp [badLevel]; omega
  let r := Run.of (s.accepting n x rest .file)
  refine ⟨fun hw => ?_, fun hw hf => ?_, fun hw hf hseq => ?_, fun hw hf hseq => ?_⟩
  · exact h.queued_fails .file hk hlevel _ (r.acceptFile_bad n _ q hw)
  · exact h.queued_fails .file hk hlevel _ (r.acceptFile_badFrame n _ q hw hf)
  · exact h.queued_fails .file hk hlevel _ ((r.acceptFile_scan n _ q hw hf).trans (if_pos hseq))
  · let taken : Run := { r with store := { r.store with deedSeq := (seq + 1) % 4294967296 } }
    let filed := taken.filed n (byteAt q 16) seq pages pages.length
    have hnodup : frames.Nodup := by
      by_contra hd
      exact hw (.inr (.inr (.inr (.inr (.inl hd)))))
    obtain ⟨hpages, hothers⟩ := taken.frameAt_filed n (byteAt q 16) seq pages hnodup
      (fun p hp => hf p.1 (List.mem_map_of_mem hp)) pages.length le_rfl
    have heq : filed = taken.withFrames filed.frame.frames := taken.filed_eq ..
    let passed : Run := { r with
      sched := (s.acceptQueued n x rest .file .file (reqLevel q)).sched,
      slot := (s.acceptQueued n x rest .file .file (reqLevel q)).slot,
      store := taken.store,
      frame := { s.frame with frames := filed.frame.frames },
      filing := { s.filing with burns := s.filing.burns ++ [fileRecord n s.sched.nextJob seq q] } }
    have hcarry : (Run.of (s.accepting n x rest .file)).carryOut .file n s.slot.nextAge q = passed.wantPass := by
      refine (r.acceptFile_scan n s.slot.nextAge q hw hf).trans ((if_neg hseq).trans ?_)
      change (let v := filed.createJob .file (reqLevel q) s.slot.nextAge (some n)
        Run.accepted { v.2 with filing := { v.2.filing with
          burns := v.2.filing.burns ++ [fileRecord n v.1 seq q] } } n v.1) = _
      rw [heq, s.createJob_acceptQueued n x rest .file _ rfl .file (reqLevel q)]
      exact h.accepted _ rfl .file (reqLevel q)
    refine ⟨(s.accepting n x rest .file).withRun passed,
      h.queued_passes .file hk hlevel passed hcarry rfl rfl rfl rfl, rfl, fun i p owner hp ho => ?_, fun f hf => ?_⟩
    · exact hpages i p owner (List.getElem?_eq_some_iff.1 hp).1 hp ho
    · refine hothers f fun i p _ hp he => hf ?_
      exact he ▸ List.mem_map_of_mem (List.mem_of_getElem? hp)

end

/-- Settles O59: each queued kind is checked at its acceptance and gets its job, and a pass starts a waiting IMPORT. -/
theorem queuedRequestsGetTheirJobs : Obligations.QueuedRequestsGetTheirJobs := by
  unfold Obligations.QueuedRequestsGetTheirJobs
  refine ⟨fun s n x rest h => ⟨fun hs t ht => ?_, fun hk hl => h.fetch hk hl, fun hk hpos hl => ?_,
    fun hk hl => h.importVol hk hl, fun hk hl => ?_⟩, fun t j c m y hs ha hq hj hk hqueued hn hm hy hacc hp => ?_⟩
  · exact t.wantPass_unstarted (ht ▸ hs)
  · have hcount : (filePages (s.request n)).length = byteAt (s.request n) 17 := by simp [filePages]
    have hfile := h.file hk hpos hl
    simp only [fileRecord, hcount] at hfile
    exact hfile
  · have hexport := h.exportVol hk hl
    dsimp only at hexport ⊢
    split
    next h0 => rwa [if_pos h0] at hexport
    next h0 =>
      rw [if_neg h0] at hexport
      obtain ⟨hnone, hmissing, hfound⟩ := hexport
      split
      next hl => exact hnone hl
      next hl => exact hmissing hl
      next l hm hl => exact hfound l hl hm
  · exact t.pass_import j c m y hs ha hq hj hk hqueued hn hm hy hacc hp

end Sys2Proof.Machine

namespace Sys2Proof.Machine

open Sys2Proof.Config

/-! ### The write of an emptying stream (R12, R36, R88) -/

/-- The write of an emptying stream completes: it reaches memory, the Frame Mover presents its next transfer, and the
stream goes on, its sector placed with the thirty-second (R12, R88). -/
theorem State.completeAccess_emptying (s : State) (st : Stream) (bad : List Nat)
    (hport : s.path.port = .mover .frameMover (.stream st.idx))
    (hst : s.mover.streams.find? (fun y => y.idx == st.idx) = some st) (hl : st.loading = false) :
    s.completeAccess bad = (s.freePort.writeMem ((Run.of s).streamWrite st)).act (fun r =>
      if 32 ≤ st.done + 1 then (r.push .present).placeSector st
      else (r.push .present).modStream st.idx (fun x => { x with done := x.done + 1 })) := by
  have hat : (Run.of s.freePort).streamAt st.idx = some st := hst
  have hmove : s.completeAccess bad = s.freePort.completeStream st.idx bad := by
    unfold State.completeAccess
    rw [hport]
  rw [hmove]
  unfold State.completeStream
  rw [hat]
  simp only [hl, Bool.false_eq_true, if_false]
  rfl

/-- The stream of the transfer in the port (R88). -/
theorem State.lastOfSector_emptying (s : State) (st : Stream)
    (hport : s.path.port = .mover .frameMover (.stream st.idx))
    (hst : s.mover.streams.find? (fun y => y.idx == st.idx) = some st) (hl : st.loading = false) :
    s.lastOfSector = decide (32 ≤ st.done + 1) := by
  have hin : s.streamInPort = some st := by
    unfold State.streamInPort State.moving
    rw [hport]
    exact hst
  unfold State.lastOfSector
  rw [hin]
  simp [hl]

/-- What the Frame Mover presents follows from the blocks' records, and changes its own record alone (R88). -/
theorem Run.presentNext_parts (u v : Run) (h : u.toParts = v.toParts) :
    u.presentNext.toParts = { v.toParts with mover := v.presentNext.mover } := by
  have hnext : u.nextStream = v.nextStream := by
    obtain ⟨p, _, _, _, _, _⟩ := u
    obtain ⟨q, _, _, _, _, _⟩ := v
    obtain rfl : p = q := h
    rfl
  have hwaits : (u.mover.presented.isSome || u.path.port.heldBy .frameMover) =
      (v.mover.presented.isSome || v.path.port.heldBy .frameMover) := by rw [h]
  unfold Run.presentNext
  rw [hnext, hwaits]
  split
  · exact h
  · cases v.nextStream with
    | none => exact h
    | some i =>
      dsimp only
      rw [h]

/-- A command whose own change has the Frame Mover present its next transfer and causes nothing else (R88). -/
theorem State.act_presenting (s : State) (f : Run → Run) (r : Run) (h : f (Run.of s) = r) (ht : r.todo = [.present])
    (hp : r.pass = false) : s.act f = State.presenting (s.withRun r) := by
  have hnone : ∀ u : Run, u.presentNext.todo = u.todo ∧ u.presentNext.pass = u.pass := by
    intro u
    rcases u.presentNext_cases with e | ⟨i, -, e⟩ <;> rw [e] <;> exact ⟨rfl, rfl⟩
  rw [State.act_then s f r _ .present h ht rfl (hnone _).1 ((hnone _).2.trans hp)]
  unfold State.withRun State.presenting
  have hparts := Run.presentNext_parts { r with todo := [] } (Run.of (s.withRun r)) rfl
  exact congrArg (fun p : Parts => ({ s with toParts := p } : State)) hparts

/-! ### The sector placed (R12, R13, R130) -/

/-- A write of an existing frame's record. -/
theorem Run.setFrame_pos (r : Run) (n : Nat) (f : Frame) (hn : 0 < n) :
    r.setFrame n f = r.withFrames (r.frame.frames.set (n - 1) f) := if_neg (Nat.pos_iff_ne_zero.1 hn)

/-- A later write of a frame's record stands for an earlier one. -/
theorem Run.setFrame_setFrame (r : Run) (n : Nat) (f g : Frame) : (r.setFrame n f).setFrame n g = r.setFrame n g := by
  rcases Nat.eq_zero_or_pos n with rfl | hn
  · rfl
  · rw [Run.setFrame_pos _ n f hn, Run.setFrame_pos _ n g hn, Run.setFrame_pos _ n g hn]
    simp [Run.withFrames]

section
variable {r : Run} {st : Stream} {tag : Location} {ph : FillPhase} {info : PageInfo} {mark : Nat} {d c : Bool}
  {hs : List Holder} {j : Judging} (hframe : r.frameAt st.frame = .filling tag ph (some info) mark d c hs)
  (hj : r.judgingOf st.frame = some j)
include hframe hj

/-- A sector before the last raises the fill mark to its end and takes the stream to the next position (R12). -/
theorem Run.placeSector_within (hlt : 1024 * st.pos < info.imageLen) :
    r.placeSector st = ((r.setFrame st.frame (.filling tag ph (some info) (1024 * st.pos)
        (d || j.get st.pos == some .uncorrectable) (c || j.get st.pos == some .corrected) hs)).modBuf (st.idx / 2)
      (st.idx % 2) (fun x => { x with moved := x.moved + 1 })).modStream st.idx
        (fun x => { x with pos := x.pos + 1, done := 0 }) := by
  unfold Run.placeSector
  rw [hframe, hj]
  dsimp only [Option.bind_some]
  rw [if_neg (Nat.not_le.2 hlt), min_eq_right (Nat.le_of_lt hlt)]

/-- The last sector of an image frees the buffer and seals the frame (R12, R13). -/
theorem Run.placeSector_last (hle : info.imageLen ≤ 1024 * st.pos) :
    r.placeSector st = ((((r.setFrame st.frame (.filling tag ph (some info) info.imageLen
        (d || j.get st.pos == some .uncorrectable) (c || j.get st.pos == some .corrected) hs)).freeBuffer (st.idx / 2)
      (st.idx % 2)).sealFrame st.frame).push (.drive (st.idx / 2))).push (.placeTasks (st.idx / 2)) := by
  unfold Run.placeSector
  rw [hframe, hj]
  dsimp only [Option.bind_some]
  rw [if_pos hle, min_eq_left hle]

end

/-- A buffer becomes FREE where no transfer of its stream waits or holds the port (R87, R96). -/
theorem Run.freeBuffer_idle (r : Run) (d b : Nat) (hport : r.path.port = .free) (hp : r.mover.presented = none) :
    r.freeBuffer d b = { r with
      mover := { r.mover with streams := r.mover.streams.filter (fun y => y.idx != bufIdx d b) },
      drives := r.drives.modify d (fun v =>
        let v := v.modBuf b (fun _ => Buffer.blank)
        { v with rereads := v.rereads.filter (fun x => x.1 != b),
                 command := v.command.map (fun k =>
                   if k.buf = b ∧ (k.command = .reread ∨ k.command = .read) then { k with discard := true } else k) }) } := by
  have hend : r.endStream (bufIdx d b) =
      { r with mover := { r.mover with streams := r.mover.streams.filter (fun y => y.idx != bufIdx d b) } } := by
    have hself : ({ r.path with port := .free } : PathUnit) = r.path := by rw [← hport]
    have hwaits : (r.mover.presented == some (bufIdx d b)) = false := by rw [hp]; rfl
    unfold Run.endStream
    dsimp only
    rw [hwaits, hport]
    dsimp only
    rw [hself, if_neg Bool.false_ne_true]
    rfl
  unfold Run.freeBuffer
  rw [hend]
  rfl

/-- Opening an entry does not change the frame it names (R173, R175). -/
theorem Grant.openOn_frame (g : Grant) (frame : Nat) (row : FeeRow) : (g.openOn frame row).frame = some frame := by
  unfold Grant.openOn
  cases g.kind <;> rfl

/-- The grants of a frame after its RESERVED ones have opened (R175). -/
def FeeMeter.openedOn (m : FeeMeter) (frame : Nat) (row : FeeRow) : FeeMeter :=
  { m with grants := m.grants.map (fun o => o.bind (fun g =>
      if g.state = .reserved frame then some (g.openOn frame row) else some g)) }

/-- Opening the entries of a frame leaves its grant count (R173, R175). -/
theorem FeeMeter.grantCount_openedOn (m : FeeMeter) (frame : Nat) (row : FeeRow) :
    (m.openedOn frame row).grantCount frame = m.grantCount frame := by
  unfold FeeMeter.grantCount FeeMeter.openedOn
  rw [List.filter_map, List.length_map]
  congr 1
  refine List.filter_congr fun o _ => ?_
  rcases o with _ | g
  · rfl
  · by_cases hg : g.state = .reserved frame
    · have hnamed : g.frame = some frame := by unfold Grant.frame; rw [hg]
      simp [hg, hnamed, Grant.openOn_frame]
    · simp [hg]

/-- The RESERVED grants of an undamaged frame open at its seal (R175). -/
theorem Run.openAtSeal_undamaged (r : Run) (frame deedClass : Nat) :
    r.openAtSeal frame deedClass false = { r with fee := r.fee.openedOn frame (r.fee.row deedClass) } := rfl

/-- A page read that no relocation wants is judged for none (R165). -/
theorem Run.judgeCandidate_unwanted (r : Run) (t : Task) (j : Judging) (hj : r.judgingOf t.frame = some j)
    (hun : j.tally < r.settings.threshold ∨ j.uncorrectable = true) : r.judgeCandidate t = r := by
  have hno : ¬ (r.settings.threshold ≤ j.tally ∧ (!j.uncorrectable) = true) := by
    rintro ⟨hle, hc⟩
    rcases hun with hlt | hu
    · exact Nat.not_le.2 hlt hle
    · rw [hu] at hc
      exact Bool.false_ne_true hc
  unfold Run.judgeCandidate
  rw [hj]
  exact if_neg hno

/-- The needs of a FETCH job that some page task still serves (R105, R113). -/
def Job.withNeeds (k : Job) (tasks : List Task) : Job :=
  let needs := k.needs.filter (fun x => tasks.any (fun y => y.carrier == some k.id && y.on x.serial x.side))
  { k with needs := needs, pendingPreempt := needs.any (fun x => x.held) }

/-- The job record of a number that one record alone bears. -/
theorem Run.jobAt_unique (r : Run) (k : Job) (hk : k ∈ r.sched.jobs) (huniq : ∀ y ∈ r.sched.jobs, y.id = k.id → y = k) :
    r.jobAt k.id = some k := by
  unfold Run.jobAt
  cases hf : r.sched.jobs.find? (fun y => y.id == k.id) with
  | none => exact absurd (beq_self_eq_true k.id) (List.find?_eq_none.1 hf k hk)
  | some y =>
    have hid : y.id = k.id := by simpa using List.find?_some hf
    rw [huniq y (List.mem_of_find?_eq_some hf) hid]

/-- A page task has left its list, with its asks and its judging record (R126, R161). -/
def Run.taskGone (r : Run) (frame : Nat) : Run :=
  { r.dropTask frame |>.unlist frame with
    drives := r.drives.map (fun v => { v with asks := v.asks.filter (fun a => a.frame != frame) }),
    media := { r.media with judging := r.media.judging.filter (fun j => j.frame != frame) } }

section
variable (r : Run) {k : Job} (hk : k ∈ r.sched.jobs) (huniq : ∀ y ∈ r.sched.jobs, y.id = k.id → y = k)
include huniq

/-- The needs of a FETCH job are those that some page task still serves (R105). -/
theorem Run.pruneNeeds_fetch (hfetch : k.kind = .fetch) :
    r.pruneNeeds k.id = { r with sched := { r.sched with
      jobs := r.sched.jobs.map (fun y => if y.id = k.id then k.withNeeds r.retr.tasks else y) } } := by
  refine congrArg (fun l => ({ r with sched := { r.sched with jobs := l } } : Run)) (List.map_congr_left fun y hy => ?_)
  by_cases hid : y.id = k.id
  · rw [if_pos hid, if_pos hid, huniq y hy hid]
    exact if_pos hfetch
  · rw [if_neg hid, if_neg hid]

include hk

/-- A FETCH job leaves the flip lists in which it has no need any more (R105). -/
theorem Run.pruneFlips_pruneNeeds (hfetch : k.kind = .fetch) (hpair : k.pair = none) :
    (r.pruneNeeds k.id).pruneFlips k.id = { r with sched := { r.sched with
      jobs := r.sched.jobs.map (fun y => if y.id = k.id then k.withNeeds r.retr.tasks else y),
      assigns := r.sched.assigns.mapIdx (fun e x => { x with
        flips := x.flips.filter (fun y => y != k.id || (k.withNeeds r.retr.tasks).needs.any (fun z => z.place == .flips e)) }) } } := by
  have hjob : (r.pruneNeeds k.id).jobAt k.id = some (k.withNeeds r.retr.tasks) := by
    refine (r.jobAt_modJob k.id _ fun j => ?_).trans ?_
    · split <;> rfl
    · rw [r.jobAt_unique k hk huniq, Option.map_some]
      exact congrArg some (if_pos hfetch)
  have hnopair : (k.withNeeds r.retr.tasks).pair = none := hpair
  unfold Run.pruneFlips
  rw [hjob, r.pruneNeeds_fetch huniq hfetch]
  simp only [Option.map_some, Option.getD_some, hnopair, Option.isSome_none, Bool.or_false]

/-- A page task that a FETCH carried ends: it leaves its list, its asks and its judging record go with it, the FETCH keeps
the needs that still have a task, and every drive is looked at (R105, R110, R126). -/
theorem Run.endTask_fetch (frame : Nat) (t : Task) (ht : r.taskAt frame = some t) (hc : t.carrier = some k.id)
    (hfetch : k.kind = .fetch) (hpair : k.pair = none) :
    let tasks := r.retr.tasks.filter (fun y => y.frame != frame)
    r.endTask frame = Run.wantPass { r with
      drives := r.drives.map (fun v => { v with asks := v.asks.filter (fun q => q.frame != frame) }),
      media := { r.media with judging := r.media.judging.filter (fun y => y.frame != frame) },
      retr := { r.retr with tasks := tasks },
      sched := { r.sched with
        jobs := r.sched.jobs.map (fun y => if y.id = k.id then k.withNeeds tasks else y),
        assigns := r.sched.assigns.mapIdx (fun e x =>
          { x with tasks := x.tasks.filter (fun f => f != frame),
                   flips := x.flips.filter (fun y => y != k.id ||
                     (k.withNeeds tasks).needs.any (fun z => z.place == .flips e)) }) },
      todo := r.todo ++ [.depart 0, .placeTasks 0, .depart 1, .placeTasks 1, .depart 2, .placeTasks 2, .depart 3,
        .placeTasks 3] } := by
  intro tasks
  have hcarried : r.endTask frame = (((r.taskGone frame).pruneNeeds k.id).pruneFlips k.id).lookAtDrives.wantPass := by
    unfold Run.endTask
    rw [ht]
    dsimp only
    rw [hc]
    rfl
  rw [hcarried, Run.pruneFlips_pruneNeeds (r.taskGone frame) hk huniq hfetch hpair]
  simp [Run.taskGone, Run.lookAtDrives, Run.push, Run.wantPass, Run.dropTask, Run.unlist, tasks]
  exact List.ext_getElem? fun i => by simp [Option.map_map, Function.comp_def]

end

/-- The consequences listed one after another for each of some jobs. -/
theorem Run.foldl_push (r : Run) (jobs : List Nat) (f : Nat → Todo) :
    jobs.foldl (fun r j => r.push (f j)) r = { r with todo := r.todo ++ jobs.map f } := by
  induction jobs generalizing r with
  | nil => simp
  | cons j js ih => rw [List.foldl_cons, ih]; simp [Run.push]

/-- The FETCH jobs that a filling frame serves (R130). -/
def Run.servedBy (r : Run) (frame : Nat) : List FetchJob :=
  r.retr.fetches.filter (fun f => f.pages.any (fun p => p.frame == some frame && p.code.isNone))

/-- What the seal of an undamaged frame leaves of the pages it serves: they are FINAL (R130). -/
def Run.finalPages (r : Run) (frame : Nat) (corrected : Bool) : List FetchJob :=
  r.retr.fetches.map (fun f => { f with pages := f.pages.map (fun p =>
    if p.frame = some frame ∧ p.code.isNone = true then
      { p with refused := false, code := some (if corrected then .corrected else .ok) }
    else p) })

/-- The last sector of an undamaged image that a FETCH carried and no relocation wants seals its frame (R13, R130). -/
theorem Run.sealFrame_undamaged (r : Run) (frame : Nat) (tag : Location) (ph : FillPhase) (info : PageInfo) (mark : Nat)
    (c : Bool) (hs : List Holder) (j : Judging) (t : Task) (k : Job) (hpos : 0 < frame) (hle : frame ≤ r.frame.frames.length)
    (hframe : r.frameAt frame = .filling tag ph (some info) mark false c hs) (hj : r.judgingOf frame = some j)
    (ht : r.taskAt frame = some t) (hc : t.carrier = some k.id) (hk : k ∈ r.sched.jobs)
    (huniq : ∀ y ∈ r.sched.jobs, y.id = k.id → y = k) (hfetch : k.kind = .fetch) (hpair : k.pair = none)
    (hun : j.tally < r.settings.threshold ∨ j.uncorrectable = true) (htodo : r.todo = [.present]) :
    let tasks := r.retr.tasks.filter (fun y => y.frame != frame)
    let free := hs = [] ∧ r.fee.grantCount frame = 0 ∧ frame ∉ r.frame.reclaim
    r.sealFrame frame = { r with
      frame := { r.frame with
        frames := r.frame.frames.set (frame - 1) (.sealed tag info false c hs),
        reclaim := if free then r.frame.reclaim ++ [frame] else r.frame.reclaim },
      drives := r.drives.map (fun v => { v with asks := v.asks.filter (fun q => q.frame != frame) }),
      fee := r.fee.openedOn frame (r.fee.row info.deedClass),
      media := { r.media with judging := r.media.judging.filter (fun y => y.frame != frame) },
      retr := { r.retr with fetches := r.finalPages frame c, tasks := tasks },
      sched := { r.sched with
        jobs := r.sched.jobs.map (fun y => if y.id = k.id then k.withNeeds tasks else y),
        assigns := r.sched.assigns.mapIdx (fun e x =>
          { x with tasks := x.tasks.filter (fun f => f != frame),
                   flips := x.flips.filter (fun y => y != k.id ||
                     (k.withNeeds tasks).needs.any (fun z => z.place == .flips e)) }) },
      todo := (if free then [.service] else []) ++
        [.present, .depart 0, .placeTasks 0, .depart 1, .placeTasks 1, .depart 2, .placeTasks 2, .depart 3,
         .placeTasks 3, .safePoint k.id] ++ (r.servedBy frame).map (fun f => Todo.fetchEnd f.job),
      pass := true } := by
  intro tasks free
  have htf : t.frame = frame := by simpa using List.find?_some ht
  -- the frame is SEALED, its grants OPEN and its pages FINAL
  let told : Run := { r.withFrames (r.frame.frames.set (frame - 1) (.sealed tag info false c hs)) with
    fee := r.fee.openedOn frame (r.fee.row info.deedClass),
    retr := { r.retr with fetches := r.finalPages frame c } }
  have hsealed : r.sealFrame frame = ((r.servedBy frame).map (fun f => f.job)).foldl (fun r j => r.push (.fetchEnd j))
      (((((told.judgeCandidate t).endTask frame).checkReclaim frame)).push (.safePoint k.id)) := by
    unfold Run.sealFrame
    rw [hframe, ht]
    dsimp only
    rw [hc, r.setFrame_pos _ _ hpos]
    rfl
  have hunjudged : told.judgeCandidate t = told := told.judgeCandidate_unwanted t j (htf ▸ hj) hun
  have hended := told.endTask_fetch hk huniq frame t ht hc hfetch hpair
  have hat : (told.endTask frame).frameAt frame = .sealed tag info false c hs := by
    have hset := r.frameAt_setFrame frame frame (.sealed tag info false c hs)
    rw [if_pos ⟨rfl, hpos, hle⟩, r.setFrame_pos _ _ hpos] at hset
    rw [hended]
    exact hset
  have hcount : (told.endTask frame).fee.grantCount frame = r.fee.grantCount frame := by
    rw [hended]
    exact r.fee.grantCount_openedOn frame _
  have hreclaim : (told.endTask frame).checkReclaim frame =
      if free then Run.serveFirst { told.endTask frame with frame := { (told.endTask frame).frame with
        reclaim := r.frame.reclaim ++ [frame] } } else told.endTask frame := by
    rw [Run.checkReclaim_sealed _ frame _ _ _ _ _ hat, hcount, hended]
    rfl
  rw [hsealed, hunjudged, hreclaim, hended, Run.foldl_push]
  by_cases hf : free
  · simp only [if_pos hf]
    simp [Run.push, Run.serveFirst, Run.wantPass, told, htodo, Run.withFrames, tasks]
  · simp only [if_neg hf]
    simp [Run.push, Run.wantPass, told, htodo, Run.withFrames, tasks]

/-- What follows a command's own change: its consequences, and a pass if one is wanted (R104). -/
theorem State.act_following (s : State) (f : Run → Run) (r : Run) (h : f (Run.of s) = r) (hh : r.heldFirst = false)
    (hnow : r.now = s.now) (hset : r.settings = s.settings) :
    s.act f = State.following (s.withRun r) r.todo r.pass := by
  have hrun : ({ Run.of (s.withRun r) with todo := r.todo, pass := r.pass } : Run) = r := by
    unfold Run.of State.withRun
    rw [← hh, ← hnow, ← hset]
  unfold State.following State.act
  rw [h]
  exact (congrArg (fun u => s.withRun (Run.settle fuel u)) hrun).symm

/-- The bytes of the next write of an emptying stream (R12, R88). -/
theorem Run.streamWrite_filling (r : Run) (st : Stream) (tag : Location) (ph : FillPhase) (info : PageInfo) (mark : Nat)
    (d c : Bool) (hs : List Holder) (hframe : r.frameAt st.frame = .filling tag ph (some info) mark d c hs) :
    r.streamWrite st =
      { addr := 131072 * st.frame + 1024 * (st.pos - 1) + 32 * st.done,
        bytes := ((zeroBeyond info.imageLen (1024 * (st.pos - 1))
          (((r.driveAt (st.idx / 2)).buf (st.idx % 2)).positions.getD st.pos { report := .clean, data := [] }).data).drop
            (32 * st.done)).take 32 } := by
  unfold Run.streamWrite
  rw [hframe]
  rfl

/-- Settles O41: by the run that the write of an emptying stream leaves, with the seal for the last sector. -/
theorem placedSectorRaisesTheFillMark : Obligations.PlacedSectorRaisesTheFillMark := by
  unfold Obligations.PlacedSectorRaisesTheFillMark
  intro s st tag ph info mark d c hs j hport hst hl hpos hle hframe hj n b data mem streams dm co
  have hwrite := (Run.of s).streamWrite_filling st tag ph info mark d c hs hframe
  have haccess := fun bad => s.completeAccess_emptying st bad hport hst hl
  rw [hwrite] at haccess
  let written : State := { s.freePort with mem := mem }
  let base : Run := (Run.of written).push .present
  have hplaced (h31 : st.done = 31) : exec .sectorPlaced s = .next (written.act (fun r => (r.push .present).placeSector st)) := by
    have hlast : s.lastOfSector = true := by rw [s.lastOfSector_emptying st hport hst hl]; simp [h31]
    have hexec : exec .sectorPlaced s = .next (s.completeAccess []) := by
      show outcome .sectorPlaced (if s.lastOfSector then s.completeAccess [] else s) = _
      rw [hlast]
      rfl
    have h32 : 32 ≤ st.done + 1 := by omega
    rw [hexec, haccess]
    simp only [if_pos h32]
    rfl
  refine ⟨fun hlt => ?_, fun h31 hlt => ?_, fun t k h31 hend hp hdm ht hc hk huniq hfetch hpair hun => ?_⟩
  · have hexec : exec (.memoryAccessComplete []) s = .next (s.completeAccess []) := rfl
    have hnot : ¬ 32 ≤ st.done + 1 := by omega
    rw [hexec, haccess]
    simp only [if_neg hnot]
    exact congrArg _ (written.act_presenting _ _ rfl rfl rfl)
  · have hrun := base.placeSector_within hframe hj hlt
    rw [base.setFrame_pos _ _ hpos] at hrun
    rw [hplaced h31, written.act_presenting (fun r => (r.push .present).placeSector st) _ hrun rfl rfl]
    rfl
  · intro tasks needs row served free
    have hidx : bufIdx n b = st.idx := Nat.div_add_mod st.idx 2
    let filled : Frame := .filling tag ph (some info) info.imageLen false co hs
    let emptied : Run := { base.withFrames (s.frame.frames.set (st.frame - 1) filled) with
      mover := { s.mover with streams := s.mover.streams.filter (fun y => y.idx != st.idx) },
      drives := s.drives.modify n (fun v =>
        let v := v.modBuf b (fun _ => Buffer.blank)
        { v with rereads := v.rereads.filter (fun x => x.1 != b),
                 command := v.command.map (fun k =>
                   if k.buf = b ∧ (k.command = .reread ∨ k.command = .read) then { k with discard := true } else k) }) }
    have hemptied : (base.setFrame st.frame filled).freeBuffer n b = emptied := by
      rw [base.setFrame_pos _ _ hpos, Run.freeBuffer_idle _ n b rfl hp, hidx]
      rfl
    have hrun : base.placeSector st = ((emptied.sealFrame st.frame).push (.drive n)).push (.placeTasks n) := by
      have hlast := base.placeSector_last hframe hj hend
      rw [show (d || j.get st.pos == some .uncorrectable) = false from hdm] at hlast
      exact hlast.trans (congrArg (fun u => ((u.sealFrame st.frame).push (.drive n)).push (.placeTasks n)) hemptied)
    have hfilled : emptied.frameAt st.frame = filled := by
      have hset := base.frameAt_setFrame st.frame st.frame filled
      rw [if_pos ⟨rfl, hpos, hle⟩, base.setFrame_pos _ _ hpos] at hset
      exact hset
    have hle' : st.frame ≤ emptied.frame.frames.length := by
      rw [show emptied.frame.frames = s.frame.frames.set (st.frame - 1) filled from rfl, List.length_set]
      exact hle
    have hsealed := emptied.sealFrame_undamaged st.frame tag ph info info.imageLen co hs j t k hpos hle' hfilled hj ht hc hk
      huniq hfetch hpair hun rfl
    rw [hplaced h31, written.act_following _ _ hrun (by rw [hsealed]; rfl) (by rw [hsealed]; rfl) (by rw [hsealed]; rfl),
      hsealed]
    refine congrArg Host.Outcome.next ?_
    have hset : (s.frame.frames.set (st.frame - 1) filled).set (st.frame - 1) (.sealed tag info false co hs) =
        s.frame.frames.set (st.frame - 1) (.sealed tag info false co hs) := List.set_set ..
    rw [← hset]
    exact congrArg₂ (fun u todo => State.following u todo true) rfl (List.append_assoc _ [Todo.drive n] [.placeTasks n])

end Sys2Proof.Machine

namespace Sys2Proof.Machine

open Sys2Proof.Config

/-! ### What a system reset leaves, while it settles (R20, R61, R84, R100, R117, R134, R157, R171, R188, R193) -/

/-- The Media Check Unit after a system reset: the log entries of the relocation jobs are DEFERRED (R171). -/
def MediaCheck.afterReset (m : MediaCheck) : MediaCheck :=
  { m with judging := [], relocJobs := [], log := m.log.map (fun e =>
      if m.relocJobs.any (fun q => q.entries.contains e.seq) then { e with mark := .deferred } else e) }

/-- The blocks' records from a system reset until the initialization, whatever the blocks do in between; `Q` says what
holds of each drive. -/
structure Parts.AfterReset (s : State) (Q : Nat → Drive → Prop) (p : Parts) : Prop where
  frame : p.frame = s.frame.afterReset
  slot : p.slot = { s.slot.afterReset with held := p.slot.held }
  picker : p.picker = { s.picker.afterReset with state := p.picker.state, move := p.picker.move, audit := p.picker.audit }
  moving : s.picker.move ≠ none → p.picker.state = s.picker.state ∧ p.picker.move = s.picker.afterReset.move
  drives : ∀ d, d < 4 → Q d (p.drives.getD d Drive.start)
  restores : p.restores = []
  sched : p.sched = Scheduler.start
  retr : p.retr = Retrieval.start
  burns : p.filing.burns = []
  closeOps : p.filing.closeOps = []
  jobless : ∀ f ∈ p.filing.flight, f.job = none
  media : p.media = s.media.afterReset
  fee : p.fee = FeeMeter.start s.fee.fees
  stmts : p.stmts = Statements.start
  relocs : p.store.relocs = s.store.releaseReserved.relocs
  started : p.startup.started = false
  initNext : p.startup.initNext = some 0
  cause : p.startup.cause = .systemReset

/-- The consequences that a system reset lists, and those that they list in turn. -/
def Todo.ofReset : Todo → Prop
  | .drive d => d < 4
  | .arm | .driveReady _ | .pump | .placeTasks _ | .depart _ | .audit | .startup | .restores | .closes | .present => True
  | .service | .orderEnded _ _ _ _ | .driveFault _ _ | .volumeGone _ | .fillFail _ _ | .fetchEnd _ | .safePoint _
  | .loadReport _ | .burnFails _ _ | .hatch | .exportAct _ => False

/-- A system reset that settles: its records, and consequences of its own alone. -/
structure Run.Resets (s : State) (Q : Nat → Drive → Prop) (r : Run) : Prop where
  parts : r.toParts.AfterReset s Q
  todo : ∀ x ∈ r.todo, x.ofReset

section
variable {s : State} {Q Q' : Nat → Drive → Prop} {r : Run}

/-- What holds of each drive may be said more weakly. -/
theorem Run.Resets.mono (h : r.Resets s Q) (hq : ∀ d v, d < 4 → Q d v → Q' d v) : r.Resets s Q' :=
  ⟨{ h.parts with drives := fun d hd => hq d _ hd (h.parts.drives d hd) }, h.todo⟩

/-- A consequence of a system reset may be listed. -/
theorem Run.Resets.push (h : r.Resets s Q) (x : Todo) (hx : x.ofReset) : (r.push x).Resets s Q :=
  ⟨h.parts, fun y hy => (List.mem_append.1 hy).elim (h.todo y) fun hm => List.mem_singleton.1 hm ▸ hx⟩

/-- A change of one drive's record. -/
theorem Run.Resets.modDrive (h : r.Resets s Q) (d : Nat) (f : Drive → Drive) (hf : ∀ v, Q d v → Q' d (f v))
    (hstart : Q d Drive.start → Q' d Drive.start) (hne : ∀ e v, e ≠ d → Q e v → Q' e v) : (r.modDrive d f).Resets s Q' := by
  refine ⟨{ h.parts with drives := fun e he => ?_ }, h.todo⟩
  have hold := h.parts.drives e he
  show Q' e ((r.drives.modify d f).getD e Drive.start)
  rw [List.getD_eq_getElem?_getD, List.getElem?_modify]
  rw [List.getD_eq_getElem?_getD] at hold
  by_cases hed : d = e
  · subst hed
    cases hv : r.drives[d]? with
    | none => rw [hv] at hold; simpa using hstart hold
    | some v => rw [hv] at hold; simpa using hf v hold
  · have hsame := hne e _ (Ne.symm hed) hold
    simpa [hed] using hsame

/-- A change that keeps what holds of the drive. -/
theorem Run.Resets.modDrive_keeps (h : r.Resets s Q) (d : Nat) (f : Drive → Drive) (hf : ∀ v, Q d v → Q d (f v)) :
    (r.modDrive d f).Resets s Q := h.modDrive d f hf id fun _ _ _ => id

/-- A notice is kept until the control area is ready (R61). -/
theorem Run.Resets.notice (h : r.Resets s Q) (n : Notice) : (r.notice n).Resets s Q := by
  have hout : r.startup.inService = false := by
    unfold StartUp.inService
    rw [h.parts.initNext]
    cases r.startup.stage <;> rfl
  unfold Run.notice
  rw [hout]
  split
  next hc => exact absurd hc Bool.false_ne_true
  next =>
    split
    · exact ⟨{ h.parts with slot := congrArg (fun u : SlotUnit => { u with held := r.slot.held ++ [n] }) h.parts.slot }, h.todo⟩
    · exact h

/-- A change of the volume records or of the filing pair. -/
theorem Run.Resets.setStore (h : r.Resets s Q) (m : Store) (hm : m.relocs = r.store.relocs) :
    ({ r with store := m } : Run).Resets s Q := ⟨{ h.parts with relocs := hm.trans h.parts.relocs }, h.todo⟩

/-- A change of the flight list or of the mark of the crossing. -/
theorem Run.Resets.setFiling (h : r.Resets s Q) (m : Filing) (hb : m.burns = r.filing.burns)
    (hc : m.closeOps = r.filing.closeOps) (hf : ∀ f ∈ m.flight, f.job = none) : ({ r with filing := m } : Run).Resets s Q :=
  ⟨{ h.parts with burns := hb.trans h.parts.burns, closeOps := hc.trans h.parts.closeOps, jobless := hf }, h.todo⟩

/-- A step of the start-up sequence. -/
theorem Run.Resets.setStartup (h : r.Resets s Q) (u : StartUp) (hs : u.started = r.startup.started)
    (hi : u.initNext = r.startup.initNext) (hc : u.cause = r.startup.cause) : ({ r with startup := u } : Run).Resets s Q :=
  ⟨{ h.parts with started := hs.trans h.parts.started, initNext := hi.trans h.parts.initNext,
                  cause := hc.trans h.parts.cause }, h.todo⟩

/-- A change of the ports' and the Frame Mover's records. -/
theorem Run.Resets.setMover (h : r.Resets s Q) (p : PathUnit) (m : FrameMover) :
    ({ r with path := p, mover := m } : Run).Resets s Q := ⟨{ h.parts with }, h.todo⟩

/-- A step of the audit; while a move is in progress the audit waits (R80). -/
theorem Run.Resets.setAudit (h : r.Resets s Q) (a : PickerState) (m : Option Move) (u : Option Audit)
    (hm : s.picker.move ≠ none → a = r.picker.state ∧ m = r.picker.move) :
    ({ r with picker := { r.picker with state := a, move := m, audit := u } } : Run).Resets s Q := by
  refine ⟨{ h.parts with
    picker := congrArg (fun p : Picker => { p with state := a, move := m, audit := u }) h.parts.picker,
    moving := fun hs => ?_ }, h.todo⟩
  obtain ⟨hstate, hmove⟩ := h.parts.moving hs
  obtain ⟨rfl, rfl⟩ := hm hs
  exact ⟨hstate, hmove⟩

/-- A pass wanted. -/
theorem Run.Resets.wantPass (h : r.Resets s Q) : r.wantPass.Resets s Q := ⟨h.parts, h.todo⟩

/-- A change of a volume record under the watch of the BLANK count (R137). -/
theorem Run.Resets.claimVolume (h : r.Resets s Q) (n : Nat) (f : Volume → Volume) : (r.claimVolume n f).Resets s Q := by
  have hmod : (r.modVolume n f).Resets s Q := h.setStore _ rfl
  unfold Run.claimVolume Run.blankWatch
  split
  · exact hmod.notice _
  · exact hmod

/-! ### The Filing Unit while a system reset settles (R157) -/

theorem Run.Resets.abandonPair (h : r.Resets s Q) : r.abandonPair.Resets s Q := by
  have hset : (r.setPair .absent).Resets s Q := h.setStore _ rfl
  have hretire (b : Bool) (n : Nat) {u : Run} (hu : u.Resets s Q) : (if b then u.retire n else u).Resets s Q := by
    cases b
    · exact hu
    · exact hu.claimVolume _ _
  unfold Run.abandonPair
  split
  next p x _ tp ts _ => exact hretire ts x (hretire tp p hset)
  all_goals exact h

theorem Run.Resets.completeClose (h : r.Resets s Q) : r.completeClose.Resets s Q := by
  unfold Run.completeClose
  split
  · refine Run.Resets.setStore (Run.Resets.notice (Run.Resets.setStore (Run.Resets.setStore h _ ?_) _ ?_) _) _ ?_ <;> rfl
  all_goals exact h

/-- The last settle of the items in flight (R157, R193). -/
theorem Run.Resets.resetSettled (h : r.Resets s Q) : r.resetSettled.Resets s Q :=
  ((h.abandonPair.completeClose.setStartup { r.abandonPair.completeClose.startup with settleReported := true }
    rfl rfl rfl).push .startup trivial).push .closes trivial

theorem Run.Resets.lateLabel (h : r.Resets s Q) (f : Flight) : (r.lateLabel f).Resets s Q := by
  unfold Run.lateLabel
  split
  · exact h.setFiling _ rfl rfl h.parts.jobless
  · exact h

/-- An item of no job settles (R157). -/
theorem Run.Resets.settleItem (h : r.Resets s Q) (f : Flight) (hf : f ∈ r.filing.flight) : (r.settleItem f).Resets s Q := by
  have hraised (cs : List Copy) {u : Run} (hu : u.Resets s Q) :
      (cs.foldl (fun r c => r.raiseWritePoint c.serial f.side (f.start + f.length)) u).Resets s Q := by
    induction cs generalizing u with
    | nil => exact hu
    | cons c cs ih => exact ih (hu.setStore _ rfl)
  have hleft {u : Run} (hu : u.Resets s Q) : Run.Resets s Q { u with filing := { u.filing with
      flight := u.filing.flight.filter (fun g => g.id != f.id) } } :=
    hu.setFiling _ rfl rfl fun g hg => hu.parts.jobless g (List.mem_of_mem_filter hg)
  have hgone := (hleft (hraised f.copies h)).lateLabel f
  unfold Run.settleItem
  rw [h.parts.jobless f hf]
  dsimp only
  split
  · exact hgone.resetSettled
  · exact hgone

/-- The Filing Unit goes on, with no job in hand (R147, R157). -/
theorem Run.Resets.pump (h : r.Resets s Q) : r.pump.Resets s Q := by
  have hnone : r.inHand = none := by
    unfold Run.inHand
    rw [h.parts.sched]
    rfl
  cases hf : r.filing.flight.find? (fun f => f.settled) with
  | some f =>
    have hpump : r.pump = (r.settleItem f).push .pump := by unfold Run.pump; rw [hf]
    rw [hpump]
    exact (h.settleItem f (List.mem_of_find?_eq_some hf)).push .pump trivial
  | none => rw [r.pump_idle hf hnone]; exact h

end

/-! ### The drives while a system reset settles (R100) -/

/-- A drive after a system reset: its volume, side and load report are those before it, nothing is asked of it, and no
buffer is in use but for a burn (R100). -/
structure Drive.AfterReset (v₀ v : Drive) : Prop where
  volume : v.volume = v₀.volume
  side : v.side = v₀.side
  loadReport : v.loadReport = v₀.loadReport
  asks : v.asks = []
  rereads : v.rereads = []
  unloadAsked : v.unloadAsked = false
  bufA : v.bufA.state.dropped = false
  bufB : v.bufB.state.dropped = false

/-- A buffer that a system reset leaves in use burns or verifies (R100). -/
theorem BufferState.dropped_eq_false_iff (b : BufferState) :
    b.dropped = false ↔ b = .free ∨ b = .burning ∨ b = .verifying := by
  cases b <;> simp [BufferState.dropped]

section
variable {v₀ v : Drive}

theorem Drive.AfterReset.modBuf (h : Drive.AfterReset v₀ v) (b : Nat) (f : Buffer → Buffer)
    (hf : ∀ x, x.state.dropped = false → (f x).state.dropped = false) : Drive.AfterReset v₀ (v.modBuf b f) := by
  unfold Drive.modBuf
  split
  · exact { h with bufA := hf _ h.bufA }
  · exact { h with bufB := hf _ h.bufB }

/-- No BURN waits to be issued (R100). -/
theorem Drive.AfterReset.toBurn (h : Drive.AfterReset v₀ v) : v.toBurn = none := by
  have hnot (b : Buffer) (hb : b.state.dropped = false) : ¬ (b.handed = true ∧ b.state = .loading) := by
    rintro ⟨-, hl⟩
    rw [hl] at hb
    exact Bool.noConfusion hb
  exact (if_neg (hnot _ h.bufA)).trans (if_neg (hnot _ h.bufB))

/-- No READ waits to be issued (R100). -/
theorem Drive.AfterReset.nextAsk (h : Drive.AfterReset v₀ v) : v.nextAsk = none := by
  unfold Drive.nextAsk
  rw [h.asks]
  rfl

end

/-- What a system reset leaves of each drive (R100). -/
def State.resetDrives (s : State) (d : Nat) (v : Drive) : Prop := Drive.AfterReset (s.driveRec d) v

section
variable {s : State} {r : Run}

/-- A Drive Controller takes its next step (R86, R100). -/
theorem Run.Resets.driveStep (h : r.Resets s s.resetDrives) (d : Nat) (hd : d < 4) : (r.driveStep d).Resets s s.resetDrives := by
  have hv : Drive.AfterReset (s.driveRec d) (r.driveAt d) := h.parts.drives d hd
  have hissue {u : Run} (hu : u.Resets s s.resetDrives) (c : Command) (b i n p : Nat) :
      (u.issue d c b i n p).Resets s s.resetDrives := hu.modDrive_keeps d _ fun v hv => { hv with }
  have hbusy : (r.modDrive d (fun v => { v with state := .busy })).Resets s s.resetDrives :=
    h.modDrive_keeps d _ fun v hv => { hv with }
  have hready : (r.becomeReady d).Resets s s.resetDrives := by
    unfold Run.becomeReady
    rw [hv.unloadAsked]
    exact ((h.modDrive_keeps d (fun v => { v with state := .ready, readySince := r.now }) fun v hv => { hv with }).push
      (.driveReady d) trivial).wantPass
  have hverify (b : Nat) : (r.modBuf d b (fun x => { x with state := .verifying, burned := false })).Resets s s.resetDrives :=
    h.modDrive_keeps d _ fun v hv => hv.modBuf b _ fun _ _ => rfl
  simp only [Run.driveStep, hv.rereads, hv.toBurn, hv.nextAsk]
  cases (r.driveAt d).state with
  | empty | loading | unloading | fault => exact h
  | ready | busy =>
    dsimp only
    split
    · exact hbusy
    · cases (r.driveAt d).toVerify with
      | some b => exact hissue (hverify b) ..
      | none =>
        dsimp only
        split
        · split
          · exact h
          · exact hready
        · exact hbusy

/-- A drive that is READY (R91, R108): no exchange comes in, and the start-up sequence is told. -/
theorem Run.Resets.driveReady (h : r.Resets s s.resetDrives) (d : Nat) : (r.driveReady d).Resets s s.resetDrives := by
  have hreports : (r.driveReports d).Resets s s.resetDrives := by
    unfold Run.driveReports
    split
    · exact (h.setStartup { r.startup with driveReported := r.startup.driveReported.set d true } rfl rfl rfl).push
        .startup trivial
    · exact h
  unfold Run.driveReady
  dsimp only
  rw [r.modAssign_calm (by rw [h.parts.sched]; rfl) d _ rfl]
  exact (((hreports.push (.placeTasks d) trivial).push (.depart d) trivial).push .pump trivial).wantPass

/-! ### Every consequence of a system reset (R193) -/

theorem Run.Resets.assignAt (h : r.Resets s s.resetDrives) (d : Nat) : r.assignAt d = Assign.clear :=
  r.assignAt_calm (by rw [h.parts.sched]; rfl) d

theorem Run.Resets.placeTasks (h : r.Resets s s.resetDrives) (d : Nat) : (r.placeTasks d).Resets s s.resetDrives := by
  rcases r.placeTasks_idle d (by rw [h.assignAt]; rfl) with e | e
  · rw [e]; exact h
  · rw [e]; exact h.push _ trivial

theorem Run.Resets.depart (h : r.Resets s s.resetDrives) (d : Nat) : (r.depart d).Resets s s.resetDrives := by
  rw [r.depart_idle d (by rw [h.assignAt]; rfl) (by rw [h.assignAt]; rfl)]
  exact h

/-- An audit begins, and its re-homing waits for the move in progress (R79, R80). -/
theorem Run.Resets.beginAudit (h : r.Resets s s.resetDrives) : r.beginAudit.Resets s s.resetDrives :=
  (h.setAudit r.picker.state r.picker.move
    (some { phase := .waiting, created := 0, missingBefore := r.store.missing }) fun _ => ⟨rfl, rfl⟩).push .audit trivial

theorem Run.Resets.auditStep (h : r.Resets s s.resetDrives) : r.auditStep.Resets s s.resetDrives := by
  unfold Run.auditStep
  cases r.picker.audit with
  | none => exact h
  | some a =>
    dsimp only
    split
    next hw =>
      have hidle : s.picker.move = none := by
        by_contra hm
        have hmove := (h.parts.moving hm).2
        rw [hw.2] at hmove
        exact hm (Option.map_eq_none_iff.1 hmove.symm)
      exact h.setAudit .moving (some { what := .reHome, startedAt := r.now, src := none, dest := none, carried := .nothing,
                                       probed := false, strip := none })
        (some { a with phase := .running }) fun hm => absurd hidle hm
    next => exact h

/-- The start-up sequence goes on, short of STARTED, which waits for the initialization (R192, R193). -/
theorem Run.Resets.startupStep (h : r.Resets s s.resetDrives) : r.startupStep.Resets s s.resetDrives := by
  have hwaits : ¬ (r.startup.initNext = none ∧ (!r.startup.started) = true ∧
      (r.startup.cause = .powerUp ∨ r.startup.settleReported = true)) := by
    rintro ⟨hn, -⟩
    rw [h.parts.initNext] at hn
    exact nomatch hn
  unfold Run.startupStep
  split
  · exact h
  · exact h
  · exact h
  · split
    · have haudit : Run.Resets s s.resetDrives { r with startup := { r.startup with stage := .audit } } :=
        h.setStartup _ rfl rfl rfl
      dsimp only
      split
      · exact (haudit.beginAudit.push .restores trivial).push .startup trivial
      · exact (haudit.push .restores trivial).push .startup trivial
    · exact h
  · split
    · exact ((h.setStartup { r.startup with stage := .done } rfl rfl rfl).push .startup trivial).push .arm trivial
    · exact h
  · rw [if_neg hwaits]
    exact h

theorem Run.Resets.armStep (h : r.Resets s s.resetDrives) : r.armStep.Resets s s.resetDrives := by
  have hnone : r.picker.orders = [] := by rw [h.parts.picker]; rfl
  unfold Run.armStep
  rw [hnone]
  split <;> exact h

theorem Run.Resets.restoreStep (h : r.Resets s s.resetDrives) : r.restoreStep.Resets s s.resetDrives := by
  unfold Run.restoreStep
  rw [h.parts.restores]
  split <;> exact h

theorem Run.Resets.presentNext (h : r.Resets s s.resetDrives) : r.presentNext.Resets s s.resetDrives := by
  rcases r.presentNext_cases with e | ⟨i, -, e⟩
  · rw [e]; exact h
  · rw [e]; exact h.setMover r.path _

/-- A consequence of a system reset leaves what a system reset leaves. -/
theorem Run.Resets.consequence (h : r.Resets s s.resetDrives) (x : Todo) (hx : x.ofReset) :
    (r.consequence x).Resets s s.resetDrives := by
  cases x with
  | arm => exact h.armStep
  | drive d => exact h.driveStep d hx
  | driveReady d => exact h.driveReady d
  | pump => exact h.pump
  | placeTasks d => exact h.placeTasks d
  | depart d => exact h.depart d
  | audit => exact h.auditStep
  | startup => exact h.startupStep
  | restores => exact h.restoreStep
  | closes =>
    show r.closeStep.Resets s s.resetDrives
    rw [r.closeStep_idle h.parts.closeOps]
    exact h
  | present => exact h.presentNext
  | service | orderEnded | driveFault | volumeGone | fillFail | fetchEnd | safePoint | loadReport | burnFails | hatch
  | exportAct => exact hx.elim

/-- The whole settling of a system reset leaves what a system reset leaves; no pass runs before STARTED (R104, R193). -/
theorem Run.Resets.settle (h : r.Resets s s.resetDrives) (n : Nat) : (Run.settle n r).Resets s s.resetDrives := by
  refine Run.settle_keeps (fun r => r.Resets s s.resetDrives) (fun r x xs hx h => ?_) (fun r _ h => ?_) n r h
  · have hall : ∀ y ∈ x :: xs, y.ofReset := hx ▸ h.todo
    have hrest : ({ r with todo := xs } : Run).Resets s s.resetDrives :=
      ⟨h.parts, fun y hy => hall y (List.mem_cons_of_mem _ hy)⟩
    exact hrest.consequence x (hall x List.mem_cons_self)
  · obtain ⟨hparts, htodo⟩ := Run.dispatch_idle { r with pass := false } (.inr h.parts.started)
    exact ⟨by rw [hparts]; exact h.parts, fun y hy => h.todo y (by rw [htodo] at hy; exact hy)⟩

end

/-! ### The reset itself (R193) -/

/-- The drives before a system reset frees and clears each from 0 on: those from `n` on stand as they did. -/
def State.resetBelow (s : State) (n d : Nat) (v : Drive) : Prop := if d < n then s.resetDrives d v else v = s.driveRec d

section
variable {s : State} {Q : Nat → Drive → Prop} {r : Run}

/-- What is known of one drive's record may be said of it. -/
theorem Run.Resets.at (h : r.Resets s Q) (d : Nat) (R : Drive → Prop) (hR : R (r.driveAt d)) :
    r.Resets s (Function.update Q d R) := by
  refine ⟨{ h.parts with drives := fun e he => ?_ }, h.todo⟩
  by_cases hed : e = d
  · subst hed
    rw [Function.update_self]
    exact hR
  · rw [Function.update_of_ne hed]
    exact h.parts.drives e he

/-- A change of the drive of which more is known. -/
theorem Run.Resets.modDriveAt {d : Nat} {R R' : Drive → Prop} (h : r.Resets s (Function.update Q d R)) (f : Drive → Drive)
    (hf : ∀ v, R v → R' (f v)) (hstart : R Drive.start → R' Drive.start) :
    (r.modDrive d f).Resets s (Function.update Q d R') := by
  refine h.modDrive d f ?_ ?_ fun e v he hq => ?_
  · rw [Function.update_self, Function.update_self]; exact hf
  · rw [Function.update_self, Function.update_self]; exact hstart
  · rw [Function.update_of_ne he] at hq ⊢; exact hq

/-- The drive of which more is known. -/
theorem Run.Resets.driveAt {d : Nat} {R : Drive → Prop} (h : r.Resets s (Function.update Q d R)) (hd : d < 4) :
    R (r.driveAt d) := by
  have hq := h.parts.drives d hd
  rw [Function.update_self] at hq
  exact hq

/-- A stream ends at a system reset (R96). -/
theorem Run.Resets.endStream (h : r.Resets s Q) (i : Nat) : (r.endStream i).Resets s Q := by
  unfold Run.endStream
  dsimp only
  split
  · exact (h.setMover _ _).push .present trivial
  · exact h.setMover _ _

/-- A drive on the way through a system reset: its volume, side and load report stand, and the buffers below `n` are
not in use but for a burn (R100). -/
structure Drive.Freed (v₀ : Drive) (n : Nat) (v : Drive) : Prop where
  volume : v.volume = v₀.volume
  side : v.side = v₀.side
  loadReport : v.loadReport = v₀.loadReport
  bufA : 0 < n → v.bufA.state.dropped = false
  bufB : 1 < n → v.bufB.state.dropped = false

/-- A buffer of a drive is freed at a system reset if it holds no burn (R100). -/
theorem Run.Resets.dropBuffer {d : Nat} (hd : d < 4) (b : Nat) (hb : b < 2)
    (h : r.Resets s (Function.update Q d ((s.driveRec d).Freed b))) :
    (if ((r.driveAt d).buf b).state.dropped then r.freeBuffer d b else r).Resets s
      (Function.update Q d ((s.driveRec d).Freed (b + 1))) := by
  split
  next hdrop =>
    refine (h.endStream (bufIdx d b)).modDriveAt _ (fun v hv => ?_) fun hv => { hv with bufA := fun _ => rfl, bufB := fun _ => rfl }
    match b, hb with
    | 0, _ => exact { hv with bufA := fun _ => rfl, bufB := fun h => absurd h (by omega) }
    | 1, _ => exact { hv with bufA := fun _ => hv.bufA (by omega), bufB := fun _ => rfl }
  next hkeep =>
    have hv := h.driveAt hd
    have hfree : ((r.driveAt d).buf b).state.dropped = false := Bool.eq_false_iff.2 hkeep
    have hnow : (s.driveRec d).Freed (b + 1) (r.driveAt d) := by
      match b, hb with
      | 0, _ => exact { hv with bufA := fun _ => hfree, bufB := fun h => absurd h (by omega) }
      | 1, _ => exact { hv with bufA := fun _ => hv.bufA (by omega), bufB := fun _ => hfree }
    have hsaid := h.at d _ hnow
    rwa [Function.update_idem] at hsaid

/-- A drive whose order is gone reloads (R94, R100). -/
theorem Run.Resets.reload {d : Nat} (h : r.Resets s (Function.update Q d (s.resetDrives d))) :
    (r.reload d).Resets s (Function.update Q d (s.resetDrives d)) := by
  have hkeep {u : Run} (hu : u.Resets s (Function.update Q d (s.resetDrives d))) (f : Drive → Drive)
      (hf : ∀ v, s.resetDrives d v → s.resetDrives d (f v)) : (u.modDrive d f).Resets s (Function.update Q d (s.resetDrives d)) :=
    hu.modDriveAt f hf (id : s.resetDrives d Drive.start → _)
  unfold Run.reload
  dsimp only
  split
  · split
    · unfold Run.beginLoad Run.issue
      refine hkeep (hkeep h _ ?_) _ ?_
      · exact fun v hv => { hv with }
      · exact fun v hv => { hv with }
    · exact hkeep h _ fun v hv => { hv with }
  · exact hkeep h _ fun v hv => { hv with unloadAsked := rfl }
  · exact hkeep h _ fun v hv => { hv with unloadAsked := rfl }
  all_goals exact h

/-- A Drive Controller is reset (R100). -/
theorem Run.Resets.resetDrive (n : Nat) (hn : n < 4) (h : r.Resets s (s.resetBelow n)) :
    (r.resetDrive n).Resets s (s.resetBelow (n + 1)) := by
  have hsame : r.driveAt n = s.driveRec n := by
    have hq := h.parts.drives n hn
    rwa [State.resetBelow, if_neg (lt_irrefl n)] at hq
  have hbegin := h.at n ((s.driveRec n).Freed 0)
    ⟨congrArg _ hsame, congrArg _ hsame, congrArg _ hsame, fun h => absurd h (by omega), fun h => absurd h (by omega)⟩
  have hfreed := (hbegin.dropBuffer hn 0 (by omega)).dropBuffer hn 1 (by omega)
  have hclear := hfreed.modDriveAt (R' := s.resetDrives n) (fun v =>
      { v with asks := [], rereads := [], unloadAsked := false,
               command := v.command.map (fun c => if c.command = .restore then { c with discard := true } else c) })
    (fun v hv => ⟨hv.volume, hv.side, hv.loadReport, rfl, rfl, rfl, hv.bufA (by omega), hv.bufB (by omega)⟩)
    (fun hv => ⟨hv.volume, hv.side, hv.loadReport, rfl, rfl, rfl, rfl, rfl⟩)
  have hweak {u : Run} (hu : u.Resets s (Function.update (s.resetBelow n) n (s.resetDrives n))) :
      u.Resets s (s.resetBelow (n + 1)) :=
    hu.mono fun e v _ hq => by
      unfold State.resetBelow
      by_cases he : e = n
      · subst he
        rw [Function.update_self] at hq
        rwa [if_pos (Nat.lt_succ_self e)]
      · rw [Function.update_of_ne he, State.resetBelow] at hq
        have hlt : e < n + 1 ↔ e < n := by omega
        simpa only [hlt] using hq
  have hend {u : Run} (hu : u.Resets s (Function.update (s.resetBelow n) n (s.resetDrives n))) :
      ((if (u.driveAt n).state = .unloading then u.reload n else u).push (.drive n)).Resets s (s.resetBelow (n + 1)) := by
    split
    · exact (hweak hu.reload).push (.drive n) hn
    · exact (hweak hu).push (.drive n) hn
  exact hend hclear

end

/-- Marking the entries of some relocation jobs one job after another marks the entries of any of them (R165, R171). -/
theorem Run.foldl_markLog (r : Run) (qs : List RelocJob) :
    qs.foldl (fun r q => r.markLog q.entries .deferred) r = { r with media := { r.media with
      log := r.media.log.map (fun e =>
        if qs.any (fun q => q.entries.contains e.seq) then { e with mark := .deferred } else e) } } := by
  induction qs generalizing r with
  | nil => simp
  | cons q qs ih =>
    rw [List.foldl_cons, ih]
    simp only [Run.markLog, List.map_map]
    refine congrArg (fun l => ({ r with media := { r.media with log := l } } : Run)) (List.map_congr_left fun e _ => ?_)
    by_cases hq : e.seq ∈ q.entries
    · simp [hq]
    · simp [hq]

/-- The Media Check Unit is reset (R171). -/
theorem Run.resetMedia_eq (r : Run) :
    r.resetMedia = { r with media := r.media.afterReset, store := r.store.releaseReserved } := by
  unfold Run.resetMedia
  rw [Run.foldl_markLog]
  rfl

/-- The blocks but the drives are reset (R20, R61, R84, R117, R134, R157, R171, R188, R193). -/
theorem State.resets_blocks (s : State) :
    let r := (Run.of s).resetPath.resetFiling.resetMedia
    Run.Resets s (s.resetBelow 0) { r with
      frame := r.frame.afterReset, slot := r.slot.afterReset, picker := r.picker.afterReset, restores := [],
      sched := Scheduler.start, retr := Retrieval.start, stmts := Statements.start,
      fee := FeeMeter.start r.fee.fees, startup := r.startup.afterReset } := by
  intro r
  have hr : r = _ := (Run.of s).resetPath.resetFiling.resetMedia_eq
  rw [hr]
  refine ⟨?_, fun x hx => (List.not_mem_nil hx).elim⟩
  exact
    { frame := rfl, slot := rfl, picker := rfl, restores := rfl, sched := rfl, retr := rfl, burns := rfl, closeOps := rfl,
      media := rfl, fee := rfl, stmts := rfl, relocs := rfl, started := rfl, initNext := rfl, cause := rfl
      moving := fun _ => ⟨rfl, rfl⟩
      drives := fun d _ => rfl
      jobless := fun f hf => by
        obtain ⟨g, -, rfl⟩ := List.mem_map.1 hf
        rfl }

/-- A system reset past the control-area check, before it settles (R193). -/
theorem State.resets_systemReset (s : State) : (Run.of s).systemReset.Resets s s.resetDrives := by
  have hdrives := ((((s.resets_blocks.resetDrive 0 (by omega)).resetDrive 1 (by omega)).resetDrive 2 (by omega)).resetDrive
    3 (by omega)).mono (Q' := s.resetDrives) fun d v hd hq => by rwa [State.resetBelow, if_pos hd] at hq
  unfold Run.systemReset
  dsimp only
  split
  · exact hdrives.resetSettled
  · exact hdrives.push .pump trivial

/-- The numbers of the frames whose record satisfies a test (R20). -/
theorem numbersWhere_eq (p : Frame → Bool) (k : Nat) (fs : List Frame) :
    numbersWhere p k fs = ((List.range fs.length).map (· + k)).filter (fun n => p (fs.getD (n - k) .empty)) := by
  induction fs generalizing k with
  | nil => rfl
  | cons f fs ih =>
    have hshift : (List.range fs.length).map (· + (k + 1)) = ((List.range fs.length).map Nat.succ).map (· + k) := by
      rw [List.map_map]
      exact List.map_congr_left fun i _ => by simp only [Function.comp_apply]; omega
    have htail : ((List.range fs.length).map (· + (k + 1))).filter (fun n => p (fs.getD (n - (k + 1)) .empty)) =
        ((List.range fs.length).map (· + (k + 1))).filter (fun n => p ((f :: fs).getD (n - k) .empty)) := by
      refine List.filter_congr fun n hn => ?_
      obtain ⟨i, -, rfl⟩ := List.mem_map.1 hn
      have hi : i + (k + 1) - k = i + 1 := by omega
      rw [Nat.add_sub_cancel, hi, List.getD_cons_succ]
    rw [numbersWhere, ih (k + 1), htail, hshift, List.length_cons, List.range_succ_eq_map, List.map_cons, List.filter_cons,
      Nat.zero_add, Nat.sub_self, List.getD_cons_zero]

/-- The frame lists after a system reset, by the frames' records (R20). -/
theorem FrameUnit.afterReset_lists (u : FrameUnit) (t : State) (h : t.frame = u.afterReset) :
    let numbers := (List.range u.frames.length).map (· + 1)
    t.frame.emptyList = numbers.filter (fun n => t.frameAt n = .empty) ∧
      t.frame.reclaim = numbers.filter (fun n => t.frameAt n ≠ .empty) := by
  intro numbers
  have hrecord (n : Nat) (hn : n ∈ numbers) : t.frameAt n = (u.frames.map Frame.afterReset).getD (n - 1) .empty := by
    obtain ⟨i, -, rfl⟩ := List.mem_map.1 hn
    have hframes : t.frame.frames = u.frames.map Frame.afterReset := by rw [h]; rfl
    show Run.frameAt (Run.of t) (i + 1) = _
    rw [Run.frameAt, if_neg (Nat.succ_ne_zero i), Run.of_frame, hframes]
  have hlist (p : Frame → Bool) : numbersWhere p 1 (u.frames.map Frame.afterReset) = numbers.filter (fun n => p (t.frameAt n)) := by
    rw [numbersWhere_eq, List.length_map]
    exact List.filter_congr fun n hn => by rw [hrecord n hn]
  have hempty : t.frame.emptyList = numbersWhere (fun f => f == .empty) 1 (u.frames.map Frame.afterReset) := by rw [h]; rfl
  have hreclaim : t.frame.reclaim = numbersWhere (fun f => f != .empty) 1 (u.frames.map Frame.afterReset) := by rw [h]; rfl
  rw [hempty, hreclaim, hlist, hlist]
  exact ⟨List.filter_congr fun n _ => rfl, List.filter_congr fun n _ => by rw [decide_not]; rfl⟩

/-- The blocks' records that a command leaves. -/
theorem State.act_toParts (s : State) (f : Run → Run) : (s.act f).toParts = (Run.settle fuel (f (Run.of s))).toParts := rfl

/-- Settles O16: by the records that a system reset leaves and that whatever it causes keeps. -/
theorem systemResetClearsTheVolatileRecords : Obligations.SystemResetClearsTheVolatileRecords := by
  unfold Obligations.SystemResetClearsTheVolatileRecords
  intro s hstage hrecord
  have hreset : exec .systemReset s = .next (s.act Run.systemReset) := by
    have hblocks : s.blocksReset = s.act Run.systemReset := by
      unfold State.blocksReset
      rcases hstage with h | h | h <;> rw [h]
    show outcome .systemReset (if s.recordInPort then s.completeAccess [] else s).blocksReset = _
    rw [hrecord]
    exact congrArg _ hblocks
  have hparts : (s.act Run.systemReset).toParts.AfterReset s s.resetDrives := by
    rw [State.act_toParts]
    exact (s.resets_systemReset.settle fuel).parts
  obtain ⟨hempty, hreclaim⟩ := s.frame.afterReset_lists (s.act Run.systemReset) hparts.frame
  have houtside := s.act_outside Run.systemReset
  have hmem : (s.act Run.systemReset).mem = s.mem := s.act_mem _
  generalize s.act Run.systemReset = t at hreset hparts hempty hreclaim houtside hmem
  obtain ⟨hframe, hslot, hpicker, hmoving, hdrives, hrestores, hsched, hretr, hburns, hcloses, -, hmedia, hfee, hstmts, hrelocs,
    hstarted, hnext, hcause⟩ := hparts
  obtain ⟨hsettings, hconfig, -⟩ := houtside
  refine ⟨t, hreset, ?_, ⟨hempty, hreclaim⟩, by rw [hframe]; rfl, by rw [hslot]; rfl, by rw [hslot]; rfl, by rw [hslot]; rfl,
    by rw [hslot]; rfl, by rw [hslot]; rfl, by rw [hslot]; rfl, by rw [hslot]; rfl, fun x hx => ?_, hsched, hretr, hstmts,
    hrestores, hburns, hcloses, by rw [hmedia]; rfl, by rw [hmedia]; rfl, by rw [hmedia]; rfl, by rw [hmedia]; rfl,
    by rw [hmedia]; rfl, hrelocs, hfee, by rw [hpicker]; rfl, by rw [hpicker]; rfl, by rw [hpicker]; rfl, by rw [hpicker]; rfl,
    by rw [hpicker]; rfl, by rw [hpicker]; rfl, fun m hm => ?_, fun d hd => ?_, hstarted, hnext, hcause, hmem, hsettings,
    hconfig⟩
  · rw [hframe]
    exact List.map_congr_left fun f _ => by cases f <;> rfl
  · rw [hslot] at hx
    obtain ⟨y, -, rfl⟩ := List.mem_map.1 hx
    split
    next hy => exact .inr hy
    next => exact .inl rfl
  · obtain ⟨hstate, hmove⟩ := hmoving (by rw [hm]; exact Option.some_ne_none m)
    refine ⟨hstate, hmove.trans ?_⟩
    unfold Picker.afterReset
    rw [hm]
    cases m with | mk what => cases what <;> rfl
  · have hd : Drive.AfterReset (s.driveRec d) (t.driveRec d) := hdrives d hd
    refine ⟨hd.volume, hd.side, hd.loadReport, hd.asks, hd.rereads, hd.unloadAsked, fun b hb => ?_⟩
    rw [← BufferState.dropped_eq_false_iff]
    obtain rfl | hb := List.mem_cons.1 hb
    · exact hd.bufA
    · exact List.mem_singleton.1 hb ▸ hd.bufB

end Sys2Proof.Machine

namespace Sys2Proof.Machine

open Sys2Proof.Config

/-! ### One word of frame 0 on the bus (R26, R27, R43 to R45, R59) -/

/-- A taken write of a slot's state word leaves what the Slot Unit made of it, and the answer (R26, R48). -/
theorem State.busTransfer_taken (s : State) (m n v : Nat) (u : Run) (hs : s.Ready) (hn : n < 64) (hv : v < 4294967296)
    (hm : s.settings.agent m = .processor) (hw : (Run.of s).writeState m n v = (.taken, u)) :
    s.busTransfer (writeOf m (slotBase n) v) = s.withRun (Run.settle fuel (u.answer m .written)) := by
  have haddr : (writeOf m (slotBase n) v).addr < frameBytes := by simp only [writeOf, slotBase, frameBytes]; omega
  have harrive : (Run.of s).arriveControl (writeOf m (slotBase n) v) = u.answer m .written := by
    rw [Run.arriveControl_stateWord _ m n v hn hv hm, hw]
    rfl
  rw [s.busTransfer_control _ hs haddr, State.act, harrive]

/-- The same, where the taken word causes nothing more. -/
theorem State.busTransfer_takes (s : State) (m n v : Nat) (u : Run) (hs : s.Ready) (hn : n < 64) (hv : v < 4294967296)
    (hm : s.settings.agent m = .processor) (hw : (Run.of s).writeState m n v = (.taken, u)) (ht : u.todo = [])
    (hp : u.pass = false) :
    s.busTransfer (writeOf m (slotBase n) v) = s.withRun (u.answer m .written) := by
  rw [s.busTransfer_taken m n v u hs hn hv hm hw, Run.settle_done fuel (u.answer m .written) ht hp]

/-- The claimer of a CLAIMED slot may post it (R44, R48). -/
theorem Run.writeState_posted (r : Run) (m n : Nat) (hstate : (r.slotAt n).state = .claimed)
    (hclaimer : (r.slotAt n).claimer = some m) : r.writeState m n postedValue = (.taken, r.postSlot n) := by
  simp [Run.writeState, hstate, hclaimer]

/-- The claimer of a CLAIMED slot may release it (R45, R48). -/
theorem Run.writeState_free_claimed (r : Run) (m n : Nat) (hstate : (r.slotAt n).state = .claimed)
    (hclaimer : (r.slotAt n).claimer = some m) : r.writeState m n freeValue = (.taken, r.releaseClaimed n) := by
  simp only [Run.writeState, hstate, hclaimer, if_true]
  rfl

/-- Settles O19: POSTED by the claimer is taken, and its one effect beside the state is the acceptance listed. -/
theorem postPutsTheAcceptanceOnTheWorkList : Obligations.PostPutsTheAcceptanceOnTheWorkList := by
  unfold Obligations.PostPutsTheAcceptanceOnTheWorkList
  intro s m n hm hn hready hagent hstate hclaimer
  have hwf : (Instr.post m n).wf = true := by simp [Instr.wf, hm, hn]
  show outcome _ (s.busTransfer _) = _
  rw [outcome_wf _ _ hwf, s.busTransfer_takes m n _ _ hready hn (by decide) hagent
    ((Run.of s).writeState_posted m n hstate hclaimer) rfl rfl]
  rfl

/-- A slot beyond the table is FREE, so one in another state has its record there (R41). -/
theorem State.slotRec_lt (s : State) (n : Nat) (h : (s.slotRec n).state ≠ .free) : n < s.slot.slots.length := by
  by_contra hge
  refine h ?_
  rw [State.slotRec, List.getD_eq_default _ _ (Nat.le_of_not_lt hge)]
  rfl

/-- The record of a slot that has just been changed. -/
theorem State.slotRec_withSlot (s : State) (n : Nat) (f : SlotRec → SlotRec) (h : n < s.slot.slots.length) :
    (s.withSlot n f).slotRec n = f (s.slotRec n) := by
  simp [State.slotRec, State.withSlot, List.getD_eq_getElem?_getD, h]

/-- Settles O20: FREE by the claimer is taken and blanks the slot record; frames, grants and memory are not touched. -/
theorem releaseClaimFreesTheSlot : Obligations.ReleaseClaimFreesTheSlot := by
  unfold Obligations.ReleaseClaimFreesTheSlot
  intro s m n hm hn hready hagent hstate hclaimer
  have hwf : (Instr.releaseClaim m n).wf = true := by simp [Instr.wf, hm, hn]
  have hlt : n < s.slot.slots.length := s.slotRec_lt n (by rw [hstate]; decide)
  refine ⟨?_, s.slotRec_withSlot n _ hlt, rfl, id, id⟩
  show outcome _ (s.busTransfer _) = _
  rw [outcome_wf _ _ hwf, s.busTransfer_takes m n _ _ hready hn (by decide) hagent
    ((Run.of s).writeState_free_claimed m n hstate hclaimer) rfl rfl]
  rfl

/-! ### The claim word (R26, R43) -/

/-- The claim word of a slot lies in the slot's block (R24). -/
theorem regionOf_claimWord (n : Nat) (hn : n < 64) : regionOf (slotBase n + 4) = .claimWord n := by
  have h1 : (4096 + 512 * n + 4 - 4096) / 512 = n := by omega
  have h2 : (4096 + 512 * n + 4 - 4096) % 512 = 4 := by omega
  have h3 : 4096 + 512 * n + 4 < 36864 := by omega
  have h4 : ¬ 4096 + 512 * n + 4 < 4096 := by omega
  have h5 : 4096 + 512 * n + 4 ≠ 256 ∧ 4096 + 512 * n + 4 ≠ 260 ∧ 4096 + 512 * n + 4 ≠ 264 ∧
    4096 + 512 * n + 4 ≠ 268 := by omega
  simp only [regionOf, slotBase, h1, h2, h3, h4, h5, OfNat.ofNat_ne_zero, if_true, if_false]

/-- A 4-byte read is a transfer of one word. -/
theorem readOf_words (m a : Nat) : (readOf m a).words = [a] := by
  simp [Transfer.words, readOf]

/-- A read of one word that does not pass to memory is answered by the Slot Unit at once (R26 to R28). -/
theorem Run.arriveControl_read (r : Run) (m a : Nat)
    (hm : r.settings.agent m = .processor ∨ ∃ p, r.settings.agent m = .scanner p)
    (hpass : r.readWord (r.isProcessor m) a ≠ .pass) :
    r.arriveControl (readOf m a) = r.composeRead (readOf m a) Memory.blank := by
  have hpassed : r.passedWords (readOf m a) = [] := by
    simp only [Run.passedWords, readOf_words]
    simpa [readOf] using hpass
  have hmaster : (readOf m a).master = m := rfl
  have hread : (readOf m a).write = false := rfl
  obtain hm | ⟨p, hm⟩ := hm <;> simp [Run.arriveControl, hmaster, hm, hpassed, hread]

/-- A PROCESSOR's read of a claim word makes the claim and is answered with its result (R28, R43). -/
theorem Run.composeRead_claim (r : Run) (m n : Nat) (hn : n < 64) (hp : r.isProcessor m = true) :
    r.composeRead (readOf m (slotBase n + 4)) Memory.blank =
      (r.claimSlot m n).2.answer m (.data (leBytes 4 (r.claimSlot m n).1)) := by
  have hmaster : (readOf m (slotBase n + 4)).master = m := rfl
  have hword : ∀ u : Run, u.readWord true (slotBase n + 4) = .claim n := fun u => by
    simp [Run.readWord, regionOf_claimWord n hn]
  simp [Run.composeRead, Run.makeClaim, readOf_words, hmaster, hp, hword, Run.wordAnswer]

/-- A SCANNER's read of a claim word is answered 1, and makes no claim (R27). -/
theorem Run.composeRead_noClaim (r : Run) (m n : Nat) (hn : n < 64) (hp : r.isProcessor m = false) :
    r.composeRead (readOf m (slotBase n + 4)) Memory.blank = r.answer m (.data (leBytes 4 1)) := by
  have hmaster : (readOf m (slotBase n + 4)).master = m := rfl
  have hword : ∀ u : Run, u.readWord false (slotBase n + 4) = .value 1 := fun u => by
    simp [Run.readWord, regionOf_claimWord n hn]
  simp [Run.composeRead, Run.makeClaim, readOf_words, hmaster, hp, hword, Run.wordAnswer]

/-- Settles O18: the read's one word is the claim word, which the Slot Unit answers by the slot's state. -/
theorem claimReadGrantsAFreeSlot : Obligations.ClaimReadGrantsAFreeSlot := by
  unfold Obligations.ClaimReadGrantsAFreeSlot
  intro s m n hm hn hready
  have hwf : (Instr.claimRead m n).wf = true := by simp [Instr.wf, hm, hn]
  have haddr : (readOf m (slotBase n + 4)).addr < frameBytes := by simp only [readOf, slotBase, frameBytes]; omega
  have hexec : exec (.claimRead m n) s = .next (s.act (fun r => r.arriveControl (readOf m (slotBase n + 4)))) := by
    show outcome _ (s.busTransfer _) = _
    rw [outcome_wf _ _ hwf, s.busTransfer_control _ hready haddr]
  have hpass : (Run.of s).readWord ((Run.of s).isProcessor m) (slotBase n + 4) ≠ .pass := by
    simp only [Run.readWord, regionOf_claimWord n hn]
    split <;> simp
  refine ⟨fun hagent => ?_, fun p hagent => ?_⟩
  · have hread : (Run.of s).arriveControl (readOf m (slotBase n + 4)) =
        ((Run.of s).claimSlot m n).2.answer m (.data (leBytes 4 ((Run.of s).claimSlot m n).1)) := by
      rw [Run.arriveControl_read _ m _ (.inl hagent) hpass,
        Run.composeRead_claim _ m n hn (by simp [Run.isProcessor, hagent, Agent.cls])]
    refine ⟨fun hfree => ?_, fun hbusy => ?_⟩
    · have hclaim : (Run.of s).claimSlot m n =
          (0, (Run.of s).modSlot n (fun x => { x with state := .claimed, claimer := some m })) := if_pos hfree
      rw [hexec, State.act_to s _ _ (hread.trans (by rw [hclaim])) rfl rfl]
      rfl
    · have hclaim : (Run.of s).claimSlot m n = (1, Run.of s) := if_neg hbusy
      rw [hexec, State.act_to s _ _ (hread.trans (by rw [hclaim])) rfl rfl]
      rfl
  · have hread : (Run.of s).arriveControl (readOf m (slotBase n + 4)) = (Run.of s).answer m (.data (leBytes 4 1)) := by
      rw [Run.arriveControl_read _ m _ (.inr ⟨p, hagent⟩) hpass,
        Run.composeRead_noClaim _ m n hn (by simp [Run.isProcessor, hagent, Agent.cls])]
    rw [hexec, State.act_to s _ _ hread rfl rfl]
    rfl

/-! ### The consumer index word (R59, R60) -/

/-- A write of one word of frame 0 that does not pass to memory: the Slot Unit takes or refuses the word, one violation
is counted if it is refused or withheld, and the write is answered (R28, R34). -/
theorem Run.arriveControl_write (r : Run) (m a v : Nat) (hv : v < 4294967296)
    (hm : r.settings.agent m = .processor ∨ ∃ p, r.settings.agent m = .scanner p)
    (hpass : r.writeWord (r.isProcessor m) m a ≠ .pass) :
    r.arriveControl (writeOf m a v) =
      Run.answer (match r.takeWord m a v (r.writeWord (r.isProcessor m) m a) with
        | (some (b, why), u) => u.violation m b why
        | (none, u) => u) m .written := by
  have hpassed : r.passedWords (writeOf m a v) = [] := by
    simp only [Run.passedWords, writeOf_words]
    simpa [writeOf] using hpass
  have hmaster : (writeOf m a v).master = m := rfl
  have hwrite : (writeOf m a v).write = true := rfl
  have hcompose : r.arriveControl (writeOf m a v) = r.composeWrite (writeOf m a v) := by
    obtain hm | ⟨p, hm⟩ := hm <;> simp [Run.arriveControl, hmaster, hm, hpassed, hwrite]
  rw [hcompose]
  simp only [Run.composeWrite, writeOf_words, hmaster, List.map_cons, List.map_nil, List.foldl_cons, List.foldl_nil,
    writeOf_wordValue _ _ _ hv, Option.orElse]
  obtain ⟨_ | ⟨b, why⟩, u⟩ := r.takeWord m a v (r.writeWord (r.isProcessor m) m a) <;> rfl

/-- A consumer index value fits when it lies in 0 to 63 and does not pass the producer index (R59). -/
theorem SlotUnit.consumerFits_iff (u : SlotUnit) (v : Nat) :
    u.consumerFits v = true ↔ v ≤ 63 ∧ (v + 64 - u.consumer) % 64 ≤ (u.producer + 64 - u.consumer) % 64 := by
  rw [SlotUnit.consumerFits, Bool.and_eq_true, decide_eq_true_iff, decide_eq_true_iff, SlotUnit.unread]

/-- While the control area is in service a violation is counted and its notice taken (R34, R57). -/
theorem Run.violation_inService (r : Run) (m a : Nat) (why : Reason) (h : r.startup.inService = true) :
    r.violation m a why = { r with
      path := r.path.countViolation (r.settings.agent m).cls,
      slot := r.slot.takeNotice (.violation m (r.settings.agent m) a why) } :=
  Run.notice_inService _ _ h

/-- Settles O24: the consumer index word is a PROCESSOR's to write, within the producer index. -/
theorem consumerIndexMayNotPassTheProducer : Obligations.ConsumerIndexMayNotPassTheProducer := by
  unfold Obligations.ConsumerIndexMayNotPassTheProducer
  intro s m v hm hv hready
  have hwf : (Instr.consumerIndexWrite m v).wf = true := by simp [Instr.wf, hm, hv]
  have hexec : exec (.consumerIndexWrite m v) s = .next (s.act (fun r => r.arriveControl (writeOf m 260 v))) := by
    show outcome _ (s.busTransfer _) = _
    rw [outcome_wf _ _ hwf, s.busTransfer_control _ hready (show 260 < frameBytes by decide)]
  have hword : ∀ b, (Run.of s).writeWord b m 260 = if b then .consumer else .withhold .classRegion := fun _ => rfl
  refine ⟨fun hagent => ?_, fun p hagent => ?_⟩
  · have hp : (Run.of s).isProcessor m = true := by simp [Run.isProcessor, hagent, Agent.cls]
    have hwrite := (Run.of s).arriveControl_write m 260 v hv (.inl hagent) (by rw [hp, hword]; simp)
    rw [hp, hword] at hwrite
    refine ⟨fun hfits => ?_, fun hpasses => ?_⟩
    · have htaken : (Run.of s).writeConsumer v = (.taken, { Run.of s with
          slot := { s.slot with consumer := v, line := s.slot.producer != v } }) :=
        if_pos ((s.slot.consumerFits_iff v).2 hfits)
      rw [hexec, State.act_to s _ _ (hwrite.trans (by simp [Run.takeWord, htaken]; rfl)) rfl rfl]
      rfl
    · have hrefused : (Run.of s).writeConsumer v = (.refused, Run.of s) :=
        if_neg (mt (s.slot.consumerFits_iff v).1 hpasses)
      rw [hexec, State.act_to s _ ((Run.of s).violation m 260 .ringIndex |>.answer m .written)
        (hwrite.trans (by simp [Run.takeWord, hrefused])) (Run.violation_todo ..) (Run.violation_pass ..),
        Run.violation_inService _ _ _ _ hready.1]
      rfl
  · have hp : (Run.of s).isProcessor m = false := by simp [Run.isProcessor, hagent, Agent.cls]
    have hwrite := (Run.of s).arriveControl_write m 260 v hv (.inr ⟨p, hagent⟩) (by rw [hp, hword]; simp)
    rw [hp, hword] at hwrite
    rw [hexec, State.act_to s _ ((Run.of s).violation m 260 .classRegion |>.answer m .written) hwrite
      (Run.violation_todo ..) (Run.violation_pass ..), Run.violation_inService _ _ _ _ hready.1]
    rfl

end Sys2Proof.Machine

namespace Sys2Proof.Machine

open Sys2Proof.Config

/-! ### The ends of the Slot Unit's work (R50, R54, R57, R60) -/

/-- The record of a slot that is in the table (R41). -/
theorem Run.slotAt_of_getElem? (r : Run) (n : Nat) (x : SlotRec) (hx : r.slot.slots[n]? = some x) : r.slotAt n = x := by
  rw [Run.slotAt, List.getD_eq_getElem?_getD, hx]
  rfl

/-- An end report, where the slot's record is known and in hand (R54). -/
theorem Run.endReport_set (r : Run) (n : Nat) (e : Ended) (w : List (Nat × List Byte)) (x : SlotRec)
    (hx : r.slot.slots[n]? = some x) (h : x.inHand = true) :
    r.endReport n e w = { r with slot := { r.slot with
      slots := r.slot.slots.set n { x with outcome := some e, jobRef := none },
      work := r.slot.work ++ [.writeBack n (writeBackWrites n e w)] } } := by
  rw [Run.endReport_inHand r n e w (by rw [r.slotAt_of_getElem? n x hx]; exact h), modify_eq_set_of_getElem? _ n _ x hx]

/-- Settles O39: the write's end leaves the record whole and reports its request DONE. -/
theorem settingsWriteEndsTheRequest : Obligations.SettingsWriteEndsTheRequest := by
  unfold Obligations.SettingsWriteEndsTheRequest
  intro s bytes x more r hwriting hops hx hr hhand
  let told : Run := { Run.of s with startup := { s.startup with configWriting := none, settingsOps := more } }
  have hends : told.endDone x.slot 1 [] = _ :=
    told.endReport_set x.slot { done := true, code := .ok, count := 1 } [] r hr hhand
  have hexec : exec .settingsWriteDone s = .next (s.settingsWritten bytes) := by
    show execSettingsWriteDone s = _
    rw [execSettingsWriteDone, hwriting]
    exact outcome_wf _ _ rfl
  rw [hexec, State.settingsWritten, State.act_to _ _ (told.endDone x.slot 1 [])
    (by simp [Run.of, hops, hx, Run.settingsOver, told]) (Run.endReport_todo ..) (Run.endReport_pass ..), hends]
  rfl

/-- The last write of a write-back is made, and the Slot Unit ends the request (R54). -/
theorem State.writeBackDone (s : State) (n : Nat) (ws : List MemWrite) (w : MemWrite) (rest : List WorkJob)
    (hport : s.path.port = .mover .slotUnit .slotWork) (hwork : s.slot.work = .writeBack n ws :: rest)
    (hlen : ws.length = s.slot.workDone + 1) (hw : ws[s.slot.workDone]? = some w) :
    exec .writeBackDone s = .next ((s.freePort.writeMem w).act (fun r => r.writeBackOver n)) := by
  have hlast : s.lastWriteBack = true := by simp [State.lastWriteBack, State.moving, hport, hwork, hlen]
  have hwork' : s.freePort.slot.work = .writeBack n ws :: rest := hwork
  have hw' : ws[s.freePort.slot.workDone]? = some w := hw
  have hover : (if ws.length ≤ (Run.of (s.freePort.writeMem w)).slot.workDone + 1 then
      (Run.of (s.freePort.writeMem w)).writeBackOver n else (Run.of (s.freePort.writeMem w)).workGoesOn) =
      (Run.of (s.freePort.writeMem w)).writeBackOver n := if_pos (Nat.le_of_eq hlen)
  show execWriteBackDone s = _
  rw [execWriteBackDone, outcome_wf _ _ rfl, if_pos hlast]
  simp only [State.completeAccess, hport, State.completeWork, hwork', hw']
  exact congrArg _ (State.act_congr _ _ _ hover)

/-- The Slot Unit once the write-back of a request is over: the head job has gone, and the slot is DONE or FAILED as the
outcome recorded for it says (R54). -/
def SlotUnit.requestOver (u : SlotUnit) (n : Nat) (x : SlotRec) (e : Ended) (rest : List WorkJob) : SlotUnit :=
  { u with
    slots := u.slots.set n { x with state := if e.done then .done else .failed },
    work := rest, workDone := 0, acceptData := [], acceptFault := false, acceptKindFault := false }

/-- A request with its outcome recorded is over when its write-back is, and a notice is taken if one is asked for (R54,
R58). -/
theorem Run.writeBackOver_ended (r : Run) (n : Nat) (x : SlotRec) (e : Ended) (job : WorkJob) (rest : List WorkJob)
    (hwork : r.slot.work = job :: rest) (hx : r.slot.slots[n]? = some x) (he : x.outcome = some e) :
    r.writeBackOver n =
      if x.notify = some true then
        Run.notice { r with slot := r.slot.requestOver n x e rest } (.slotDone n x.kind e.done e.code e.count)
      else { r with slot := r.slot.requestOver n x e rest } := by
  have hat : r.workOver.slotAt n = x := r.workOver.slotAt_of_getElem? n x hx
  have hended : r.workOver.modSlot n (fun x => { x with state := if e.done then .done else .failed }) =
      { r with slot := r.slot.requestOver n x e rest } := by
    simp only [Run.modSlot, Run.workOver, modify_eq_set_of_getElem? _ n _ x hx, hwork, List.drop_succ_cons, List.drop_zero]
    rfl
  simp only [Run.writeBackOver, hat, he, hended]

/-- Settles O37: the last write is made where it belongs, and the recorded outcome decides how the slot ends. -/
theorem writeBackEndsTheSlot : Obligations.WriteBackEndsTheSlot := by
  unfold Obligations.WriteBackEndsTheSlot
  intro s n ws w rest x e hservice hport hwork hlen hw hx he u
  have hover := Run.writeBackOver_ended (Run.of (s.freePort.writeMem w)) n x e _ rest hwork hx he
  rw [s.writeBackDone n ws w rest hport hwork hlen hw]
  by_cases hask : x.notify = some true
  · rw [if_pos hask] at hover
    rw [State.act_to _ _ _ hover (Run.notice_todo ..) (Run.notice_pass ..), Run.notice_inService _ _ hservice, if_pos hask]
    rfl
  · rw [if_neg hask] at hover
    rw [State.act_to _ _ _ hover rfl rfl, if_neg hask]
    rfl

/-! ### Notice records (R57, R60) -/

/-- The producer index passes every marked position up to the first that is not (R57). -/
theorem passMarked_replicate (k : Nat) (more : List Bool) (p : Nat) (hp : p < 64) (hmore : more.head? ≠ some true) :
    passMarked (List.replicate k true ++ more) p = (more, (p + k) % 64) := by
  induction k generalizing p with
  | zero =>
    rw [Nat.add_zero, Nat.mod_eq_of_lt hp]
    match more, hmore with
    | [], _ => rfl
    | false :: _, _ => rfl
    | true :: _, h => exact absurd rfl h
  | succ k ih =>
    show passMarked (List.replicate k true ++ more) ((p + 1) % 64) = _
    rw [ih _ (Nat.mod_lt _ (by decide)), Nat.mod_add_mod, Nat.add_assoc, Nat.add_comm 1 k]

/-- The write of a notice record is made, and the Slot Unit marks its position (R57). -/
theorem State.noticeWriteDone (s : State) (pos : Nat) (x : Notice) (rest : List WorkJob)
    (hport : s.path.port = .mover .slotUnit .slotWork) (hwork : s.slot.work = .notice pos x :: rest) :
    exec .noticeWriteDone s =
      .next { s.freePort with
        mem := s.mem.write (512 + 16 * pos) x.bytes,
        slot := SlotUnit.recordWritten { s.slot with
          work := rest, workDone := 0, acceptData := [], acceptFault := false, acceptKindFault := false } pos } := by
  have hnotice : s.noticeInPort = true := by simp [State.noticeInPort, State.moving, hport, hwork]
  have hwork' : s.freePort.slot.work = .notice pos x :: rest := hwork
  show execNoticeWriteDone s = _
  rw [execNoticeWriteDone, outcome_wf _ _ rfl, if_pos hnotice]
  simp only [State.completeAccess, hport, State.completeWork, hwork']
  rw [State.act_to _ _ _ rfl rfl rfl]
  simp only [Run.noticeOver, Run.workOver, Run.of_slot, State.writeMem_slot, State.freePort_slot, hwork]
  rfl

/-- Settles O38: the record's mark is set, and the index passes the marks that stand at it. -/
theorem noticeWriteAdvancesTheProducerIndex : Obligations.NoticeWriteAdvancesTheProducerIndex := by
  unfold Obligations.NoticeWriteAdvancesTheProducerIndex
  intro s pos x rest hport hwork hproducer hpos
  rw [s.noticeWriteDone pos x rest hport hwork]
  refine ⟨fun k more hnext hreserved hmore => ?_, fun i hi hbehind hlt hhead => ?_⟩
  · have hplace : (pos + 64 - s.slot.producer) % 64 = 0 := by rw [hnext]; omega
    have hpassed : passMarked (s.slot.reserved.set ((pos + 64 - s.slot.producer) % 64) true) s.slot.producer =
        (more, (s.slot.producer + 1 + k) % 64) := by
      rw [hplace, hreserved, Nat.add_assoc, Nat.add_comm 1 k]
      exact passMarked_replicate (k + 1) more s.slot.producer hproducer hmore
    simp only [SlotUnit.recordWritten, hpassed]
    rfl
  · have hplace : (pos + 64 - s.slot.producer) % 64 = i + 1 := by omega
    have hstays : passMarked (s.slot.reserved.set ((pos + 64 - s.slot.producer) % 64) true) s.slot.producer =
        (s.slot.reserved.set (i + 1) true, s.slot.producer) := by
      rw [hplace]
      obtain ⟨more, hmore⟩ := List.head?_eq_some_iff.1 hhead
      rw [hmore]
      rfl
    simp only [SlotUnit.recordWritten, hstays]
    rfl

end Sys2Proof.Machine

namespace Sys2Proof.Machine

open Sys2Proof.Config

/-! ### The sixteen reads of an acceptance (R50, R51) -/

/-- The completion of a read of the acceptance that heads the work list (R37, R50). -/
theorem State.completeAccess_acceptance (s : State) (n : Nat) (rest : List WorkJob) (bad : List Nat)
    (hport : s.path.port = .mover .slotUnit .slotWork) (hwork : s.slot.work = .acceptance n :: rest) :
    let a := slotBase n + 32 * s.slot.workDone
    let mem := s.mem.learnFaults a 32 bad
    s.completeAccess bad = (s.freePort.learn a 32 bad).act (fun r =>
      r.acceptRead n (s.mem.readBytes a 32) (mem.faults a 32)
        (decide (s.slot.workDone = 0) && mem.faults (slotBase n + 8) 4)) := by
  have hwork' : s.freePort.slot.work = .acceptance n :: rest := hwork
  simp only [State.completeAccess, hport, State.completeWork, hwork']
  rfl

/-- A request that fails at its acceptance: its slot stays POSTED with the outcome, and the write-back is listed (R51,
R54). -/
theorem Run.rejected_posted (r : Run) (n : Nat) (c : Code) (x : SlotRec) (hx : r.slot.slots[n]? = some x)
    (hposted : x.state = .posted) (hout : x.outcome = none) :
    r.rejected n c = { r with slot := { r.slot with
      slots := r.slot.slots.set n { x with outcome := some { done := false, code := c, count := 0 }, jobRef := none },
      work := r.slot.work ++
        [.writeBack n [{ addr := slotBase n + 12, bytes := leBytes 2 c.value ++ leBytes 2 0 }]] } } :=
  r.endReport_set n { done := false, code := c, count := 0 } [] x hx (by simp [SlotRec.inHand, hposted, hout])

/-- The kind byte names the kind that it is the value of, and no other (R196). -/
theorem reqKind_eq_some_iff (q : List Byte) (k : Kind) : reqKind q = some k ↔ k.value = byteAt q 8 := by
  refine ⟨fun h => ?_, fun h => reqKind_of_value q k h.symm⟩
  simpa using List.find?_some h

/-- The level of a queued kind is bad where it lies outside those that the kind takes (R51). -/
theorem badLevel_iff (k : Kind) (level : Nat) :
    badLevel k level = true ↔ (k = .fetch ∧ 3 < level) ∨ (k = .file ∧ (level < 1 ∨ 3 < level)) ∨
      ((k = .importVol ∨ k = .exportVol) ∧ level ≠ 3) := by
  cases k <;> simp [badLevel]

section
variable (r : Run) (n : Nat) (q : List Byte) (x : SlotRec) (job : WorkJob) (rest : List WorkJob)
  (hwork : r.slot.work = job :: rest) (hx : r.slot.slots[n]? = some x) (hposted : x.state = .posted)
  (hout : x.outcome = none)
include hwork hx hposted hout

/-- A request whose acceptance met a parity fault fails with MEMORY_PARITY (R50, log entry 39). -/
theorem Run.acceptSlot_faulted (kindFault : Bool) :
    r.workOver.acceptSlot n q true kindFault = { r with slot := { r.workOver.slot with
      slots := r.slot.slots.set n { x with
        kind := if kindFault then none else reqKind q,
        notify := if kindFault then none else some (reqNotify q),
        jobRef := none, outcome := some { done := false, code := .memoryParity, count := 0 } },
      work := rest ++ [.writeBack n [{ addr := slotBase n + 12, bytes := leBytes 2 10 ++ leBytes 2 0 }]] } } := by
  let y : SlotRec := { x with
    kind := if kindFault then none else reqKind q, notify := if kindFault then none else some (reqNotify q) }
  have hread : r.workOver.modSlot n (fun x => { x with
      kind := if kindFault then none else reqKind q, notify := if kindFault then none else some (reqNotify q) }) =
      { r with slot := { r.workOver.slot with slots := r.slot.slots.set n y, work := rest } } := by
    simp only [Run.modSlot, Run.workOver, modify_eq_set_of_getElem? _ n _ x hx, hwork, List.drop_succ_cons, List.drop_zero]
    rfl
  have hy : (r.slot.slots.set n y)[n]? = some y := List.getElem?_set_self (List.getElem?_eq_some_iff.1 hx).1
  rw [Run.acceptSlot, if_pos rfl, hread, Run.rejected_posted _ n .memoryParity y hy hposted hout]
  simp only [List.set_set]
  rfl

/-- A request that its kind or its level lets fail at once has its kind, its notify flag and its acceptance number (R50,
R51). -/
theorem Run.acceptSlot_badRequest (kindFault : Bool) (hbad : ∀ k, reqKind q = some k → badLevel k (reqLevel q) = true) :
    r.workOver.acceptSlot n q false kindFault = { r with slot := { r.workOver.slot with
      slots := r.slot.slots.set n { x with
        kind := reqKind q, notify := some (reqNotify q), age := some r.slot.nextAge,
        jobRef := none, outcome := some { done := false, code := .badRequest, count := 0 } },
      nextAge := satInc 4294967295 r.slot.nextAge,
      work := rest ++ [.writeBack n [{ addr := slotBase n + 12, bytes := leBytes 2 13 ++ leBytes 2 0 }]] } } := by
  let y : SlotRec := { x with kind := reqKind q, notify := some (reqNotify q), age := some r.slot.nextAge }
  let u : Run := { r with slot := { r.workOver.slot with
    slots := r.slot.slots.set n y, work := rest, nextAge := satInc 4294967295 r.slot.nextAge } }
  have hread : r.workOver.takeAge.2.modSlot n (fun x =>
      { x with kind := reqKind q, notify := some (reqNotify q), age := some r.workOver.takeAge.1 }) = u := by
    simp only [Run.modSlot, Run.takeAge, Run.workOver, modify_eq_set_of_getElem? _ n _ x hx, hwork, List.drop_succ_cons,
      List.drop_zero]
    rfl
  have hfails : r.workOver.validate n q = u.rejected n .badRequest := by
    simp only [Run.validate, hread]
    cases hk : reqKind q with
    | none => rfl
    | some k => exact if_pos (hbad k hk)
  have hy : (r.slot.slots.set n y)[n]? = some y := List.getElem?_set_self (List.getElem?_eq_some_iff.1 hx).1
  rw [Run.acceptSlot, if_neg Bool.false_ne_true, hfails, Run.rejected_posted u n .badRequest y hy hposted hout]
  simp only [u, List.set_set]
  rfl

end

/-- The sixteenth read of an acceptance is taken by the Slot Unit, with the faults of all sixteen (R50). -/
theorem State.acceptanceReadDone_faults (s : State) (n : Nat) (rest : List WorkJob) (bad : List Nat)
    (hport : s.path.port = .mover .slotUnit .slotWork) (hwork : s.slot.work = .acceptance n :: rest)
    (hdone : s.slot.workDone = 15) :
    exec (.acceptanceReadDone bad) s = .next ((s.freePort.learn (slotBase n + 480) 32 bad).act (fun r =>
      r.workOver.acceptSlot n (s.request n)
        (s.slot.acceptFault || (s.mem.learnFaults (slotBase n + 480) 32 bad).faults (slotBase n + 480) 32)
        s.slot.acceptKindFault)) := by
  have hlast : s.lastAcceptance = true := by
    simp [State.lastAcceptance, State.moving, hport, SlotUnit.acceptsNext, hwork, hdone]
  show execAcceptanceReadDone bad s = _
  rw [execAcceptanceReadDone, outcome_wf _ _ rfl, if_pos hlast, s.completeAccess_acceptance n rest bad hport hwork, hdone]
  refine congrArg _ (State.act_congr _ _ _ ?_)
  simp [Run.acceptRead, hdone, State.request]

/-- Settles O34: one read of the acceptance after another, and the failures that need no more than its bytes. -/
theorem acceptanceFailsBadRequests : Obligations.AcceptanceFailsBadRequests := by
  unfold Obligations.AcceptanceFailsBadRequests
  intro s n rest bad hport hwork a mem
  refine ⟨fun hmore => ?_, ?_⟩
  · have hread : (Run.of (s.freePort.learn a 32 bad)).acceptRead n (s.mem.readBytes a 32) (mem.faults a 32)
        (decide (s.slot.workDone = 0) && mem.faults (slotBase n + 8) 4) = _ := if_neg (by simp; omega)
    show execMemoryAccessComplete bad s = _
    rw [execMemoryAccessComplete, outcome_wf _ _ rfl, s.completeAccess_acceptance n rest bad hport hwork,
      State.act_to _ _ _ hread rfl rfl]
    rfl
  · intro x hdone hx hposted hout q faulted level ended cleared kind hkind
    have hk : reqKind q = kind := Option.ext fun k => by rw [reqKind_eq_some_iff, hkind k]
    have ha : a = slotBase n + 480 := by simp only [a, hdone]
    have hmem : mem = s.mem.learnFaults (slotBase n + 480) 32 bad := by simp only [mem, ha]
    rw [s.acceptanceReadDone_faults n rest bad hport hwork hdone, ← hmem]
    refine ⟨fun hfault => ?_, fun hclean hbad => ?_⟩
    · have hends := Run.acceptSlot_faulted (Run.of (s.freePort.learn (slotBase n + 480) 32 bad)) n q x _ rest hwork hx
        hposted hout s.slot.acceptKindFault
      rw [hk] at hends
      rw [show (s.slot.acceptFault || mem.faults (slotBase n + 480) 32) = true from hfault,
        State.act_to _ _ _ hends rfl rfl, hmem]
      rfl
    · have hlevel : ∀ k, reqKind q = some k → badLevel k (reqLevel q) = true := by
        intro k hq
        have hsome : kind = some k := hk.symm.trans hq
        rw [badLevel_iff]
        simpa [hsome, reqLevel, level] using hbad
      have hends := Run.acceptSlot_badRequest (Run.of (s.freePort.learn (slotBase n + 480) 32 bad)) n q x _ rest hwork hx
        hposted hout s.slot.acceptKindFault hlevel
      rw [hk] at hends
      rw [show (s.slot.acceptFault || mem.faults (slotBase n + 480) 32) = false from hclean,
        State.act_to _ _ _ hends rfl rfl, hmem]
      rfl

/-! ### OPEN ACCOUNT and CLOSE ACCOUNT (R185, R186) -/

section
variable {s : State} {n : Nat} {x : SlotRec} {rest : List WorkJob} (h : s.Accepts n x rest)
include h

/-- OPEN ACCOUNT opens a CLOSED account with everything 0 (R185). -/
theorem State.Accepts.openAccount (hk : byteAt (s.request n) 8 = 19) :
    exec (.acceptanceReadDone []) s =
      .next (if 127 < byteAt (s.request n) 16 then s.acceptFails n x rest .openAccount .badRequest
        else if (s.store.accounts.getD (byteAt (s.request n) 16) Account.closed).isOpen then
          s.acceptFails n x rest .openAccount .alreadyOpen
        else { s.acceptEnds n x rest .openAccount 1 [] with
          store := { s.store with accounts := s.store.accounts.modify (byteAt (s.request n) 16) (fun _ =>
            { isOpen := true, total := 0, loss := 0, plain := 0, certified := 0, statutory := 0 }) } }) := by
  by_cases hnumber : 127 < byteAt (s.request n) 16
  · rw [if_pos hnumber]
    exact h.immediate_fails .openAccount hk (by decide) .badRequest (if_pos hnumber)
  rw [if_neg hnumber]
  by_cases hopen : (s.store.accounts.getD (byteAt (s.request n) 16) Account.closed).isOpen = true
  · rw [if_pos hopen]
    exact h.immediate_fails .openAccount hk (by decide) .alreadyOpen ((if_neg hnumber).trans (if_pos hopen))
  · rw [if_neg hopen]
    exact h.immediate_to .openAccount hk (by decide) _
      ((if_neg hnumber).trans ((if_neg hopen).trans (h.begun_endDone _ rfl 1 []))) rfl rfl

/-- CLOSE ACCOUNT closes an OPEN account that no grant names and that owes nothing (R186). -/
theorem State.Accepts.closeAccount (hk : byteAt (s.request n) 8 = 20) :
    exec (.acceptanceReadDone []) s =
      .next (if 127 < byteAt (s.request n) 16 then s.acceptFails n x rest .closeAccount .badRequest
        else if !(s.store.accounts.getD (byteAt (s.request n) 16) Account.closed).isOpen then
          s.acceptFails n x rest .closeAccount .accountClosed
        else if s.fee.accountCount (byteAt (s.request n) 16) ≠ 0 then s.acceptFails n x rest .closeAccount .accountBusy
        else if (s.store.accounts.getD (byteAt (s.request n) 16) Account.closed).total ≠ 0 then
          s.acceptFails n x rest .closeAccount .unsettled
        else { s.acceptEnds n x rest .closeAccount 1 [] with
          store := { s.store with accounts :=
            s.store.accounts.modify (byteAt (s.request n) 16) (fun y => { y with isOpen := false }) } }) := by
  by_cases hnumber : 127 < byteAt (s.request n) 16
  · rw [if_pos hnumber]
    exact h.immediate_fails .closeAccount hk (by decide) .badRequest (if_pos hnumber)
  rw [if_neg hnumber]
  by_cases hclosed : (!(s.store.accounts.getD (byteAt (s.request n) 16) Account.closed).isOpen) = true
  · rw [if_pos hclosed]
    exact h.immediate_fails .closeAccount hk (by decide) .accountClosed ((if_neg hnumber).trans (if_pos hclosed))
  rw [if_neg hclosed]
  by_cases hbusy : s.fee.accountCount (byteAt (s.request n) 16) ≠ 0
  · rw [if_pos hbusy]
    exact h.immediate_fails .closeAccount hk (by decide) .accountBusy
      ((if_neg hnumber).trans ((if_neg hclosed).trans (if_pos hbusy)))
  rw [if_neg hbusy]
  by_cases howed : (s.store.accounts.getD (byteAt (s.request n) 16) Account.closed).total ≠ 0
  · rw [if_pos howed]
    exact h.immediate_fails .closeAccount hk (by decide) .unsettled
      ((if_neg hnumber).trans ((if_neg hclosed).trans ((if_neg hbusy).trans (if_pos howed))))
  · rw [if_neg howed]
    exact h.immediate_to .closeAccount hk (by decide) _ ((if_neg hnumber).trans ((if_neg hclosed).trans
      ((if_neg hbusy).trans ((if_neg howed).trans (h.begun_endDone _ rfl 1 []))))) rfl rfl

end

/-- Settles O35: each kind makes its checks in order, and the request that passes changes its account alone. -/
theorem openAccountOpensAClosedAccount : Obligations.OpenAccountOpensAClosedAccount := by
  unfold Obligations.OpenAccountOpensAClosedAccount
  exact fun s n x rest h => ⟨h.openAccount, h.closeAccount⟩

end Sys2Proof.Machine

namespace Sys2Proof.Machine

open Sys2Proof.Config

/-! ### The last start-up write (R61, R99, R192, R193) -/

/-- A drive whose LOAD has just been issued (R89, R94, R99). -/
def Drive.beginsLoad (v : Drive) (why : LoadFor) (now : Nat) : Drive :=
  { v with
    state := .loading, loadFor := why, reloadNext := false, lastSector := none,
    command := some { command := .load, buf := 0, start := 0, count := 0, pos := 0, issuedAt := now, discard := false } }

/-- A LOAD changes the record of its drive only (R89). -/
theorem Run.beginLoad_eq (r : Run) (d : Nat) (why : LoadFor) :
    r.beginLoad d why = { r with drives := r.drives.modify d (fun v => v.beginsLoad why r.now) } := by
  unfold Run.beginLoad Run.issue Run.modDrive
  simp only [List.modify_modify_eq]
  rfl

/-- The blocks once the power-up LOAD of each of the four drives has been issued (R99). -/
def Run.withLoads (r : Run) : Run :=
  { r with
    startup := { r.startup with loadsIssued := true },
    drives := [0, 1, 2, 3].foldl (fun l d => l.modify d (fun v => v.beginsLoad .powerUp r.now)) r.drives }

/-- The power-up LOADs are issued, where they have not been (R99). -/
theorem Run.issueLoads_first (r : Run) (h : r.startup.loadsIssued = false) : r.issueLoads = r.withLoads := by
  simp only [Run.withLoads, Run.issueLoads, h, Bool.false_eq_true, if_false, List.foldl_cons, List.foldl_nil, Run.beginLoad_eq]

/-- The four drives are each given their one LOAD. -/
theorem getElem?_foldl_modify_four (l : List Drive) (g : Drive → Drive) (d : Nat) (v : Drive) (hd : d < 4)
    (hv : l[d]? = some v) : ([0, 1, 2, 3].foldl (fun l d => l.modify d g) l)[d]? = some (g v) := by
  simp only [List.foldl_cons, List.foldl_nil, List.getElem?_modify, hv]
  interval_cases d <;> rfl

/-- Where no volume is UNVERIFIED no label check is made (R67). -/
theorem Run.createLabelChecks_none (r : Run) (h : ∀ v, some v ∈ r.store.volumes → v.role ≠ .unverified) :
    r.createLabelChecks = r := by
  unfold Run.createLabelChecks
  generalize r.store.volumes = vs at h
  induction vs with
  | nil => rfl
  | cons o vs ih =>
    rw [List.foldl_cons]
    cases o with
    | none => exact ih fun v hv => h v (List.mem_cons_of_mem _ hv)
    | some v =>
      dsimp only
      rw [if_neg (h v List.mem_cons_self)]
      exact ih fun w hw => h w (List.mem_cons_of_mem _ hw)

/-- The blocks once the last start-up write has completed with no notice kept for later: the control area is in service
with position 0 of the ring reserved for STARTED (R61). -/
def State.initializedSlots (s : State) : State :=
  { s with
    mem := s.mem.write (slotBase 63) (leBytes 4 0), path := { s.path with port := .free },
    slot := { SlotUnit.start with reserved := [false] }, startup := { s.startup with initNext := none } }

/-- The last start-up write completes, and the start-up sequence is looked at again (R61, R192, R193). -/
theorem State.initializationDone (s : State) (hnext : s.startup.initNext = some 72)
    (hport : s.path.port = .mover .startUp .startWrite) (hheld : s.slot.held = []) (hstage : s.startup.stage ≠ .failed) :
    exec .initializationDone s = .next (s.initializedSlots.act (fun r => r.issueLoads.push .startup)) := by
  have hwrites : startWrites s.startup = 73 := if_neg hstage
  have hlast : s.lastStartWrite = true := by
    simp [State.lastStartWrite, State.moving, hport, hnext, hwrites, hstage]
  have hnext' : s.freePort.startup.initNext = some 72 := hnext
  have hstarts : (if 72 + 1 < startWrites s.startup then
        { Run.of (s.freePort.writeMem (startWrite s.freePort.startup 72)) with
          startup := { s.startup with initNext := some (72 + 1) } }
      else if s.startup.stage = .failed then
        { Run.of (s.freePort.writeMem (startWrite s.freePort.startup 72)) with
          startup := { s.startup with initNext := none } }
      else (Run.of (s.freePort.writeMem (startWrite s.freePort.startup 72))).initialized) =
      (Run.of s.initializedSlots).issueLoads.push .startup := by
    rw [hwrites, if_neg (by decide), if_neg hstage]
    simp only [Run.initialized, Run.of_slot, State.writeMem_slot, State.freePort_slot, hheld, List.foldl_nil]
    rfl
  show execInitializationDone s = _
  rw [execInitializationDone, outcome_wf _ _ rfl, if_pos hlast]
  simp only [State.completeAccess, hport, State.completeStart, hnext']
  exact congrArg (fun r => Host.Outcome.next (s.initializedSlots.withRun (Run.settle fuel r))) hstarts

/-- Settles O15: after a power-up the LOADs are all that the last write lets begin, and after a system reset that waits
for nothing STARTED is taken. -/
theorem initializationPutsTheSlotUnitInService : Obligations.InitializationPutsTheSlotUnitInService := by
  unfold Obligations.InitializationPutsTheSlotUnitInService
  intro s hnext hport hheld wrote
  refine ⟨fun hstage hloads hreported => ?_, fun hstage hloads hstarted hcause hsettled hcalm hroles => ?_⟩
  · have hissue := Run.issueLoads_first (Run.of s.initializedSlots) hloads
    have hwaits : (Run.of s.initializedSlots).withLoads.startupStep = (Run.of s.initializedSlots).withLoads := by
      have hstage' : (Run.of s.initializedSlots).withLoads.startup.stage = .drives := hstage
      have hreported' : (Run.of s.initializedSlots).withLoads.startup.driveReported = [false, false, false, false] :=
        hreported
      simp [Run.startupStep, hstage', hreported']
    refine ⟨s.initializedSlots.withRun (Run.of s.initializedSlots).withLoads, ?_, rfl,
      by simp [Run.withLoads, State.initializedSlots, StartUp.inService, hstage], fun d v hd hv => ?_⟩
    · rw [s.initializationDone hnext hport hheld (by simp [hstage]),
        State.act_then _ _ ((Run.of s.initializedSlots).withLoads.push .startup) _ .startup
          (congrArg (Run.push · .startup) hissue) rfl hwaits rfl rfl]
    · exact getElem?_foldl_modify_four s.drives (fun v => v.beginsLoad .powerUp s.now) d v hd hv
  · have hissue : (Run.of s.initializedSlots).issueLoads = Run.of s.initializedSlots := if_pos hloads
    have hstep : (Run.of s.initializedSlots).startupStep = (Run.of s.initializedSlots).takeStarted := by
      have hstage' : (Run.of s.initializedSlots).startup.stage = .done := hstage
      have hready : (Run.of s.initializedSlots).startup.initNext = none ∧
          (!(Run.of s.initializedSlots).startup.started) = true ∧
          ((Run.of s.initializedSlots).startup.cause = .powerUp ∨
            (Run.of s.initializedSlots).startup.settleReported = true) :=
        ⟨rfl, by simp [State.initializedSlots, hstarted], .inr hsettled⟩
      simp only [Run.startupStep, hstage']
      exact if_pos hready
    have htaken : (Run.of s.initializedSlots).takeStarted = Run.wantPass { Run.of s.initializedSlots with
        startup := { s.startup with initNext := none, started := true },
        slot := { SlotUnit.start with
          reserved := [false],
          work := [.notice 0 (.started .systemReset s.startup.batteryGood s.startup.settingsGood)] } } := by
      unfold Run.takeStarted
      dsimp only
      rw [Run.createLabelChecks_none _ hroles, ite_self, ← hcause]
      rfl
    rw [s.initializationDone hnext hport hheld (by simp [hstage]),
      State.act_then_dull _ _ ((Run.of s.initializedSlots).push .startup) (Run.of s.initializedSlots).takeStarted .startup []
        (congrArg (Run.push · .startup) hissue) rfl hstep (by rw [htaken]; exact hcalm)
        (by rw [htaken]; exact fun _ hx => absurd hx List.not_mem_nil), htaken]
    rfl

end Sys2Proof.Machine

namespace Sys2Proof.Machine

open Sys2Proof.Config

/-! ### Consequences in a part without assignments (R104, R109 to R111) -/

/-- A consequence that changes no block's record while no drive has an assignment: the look at a drive, the service of an
empty frame-wait queue, the taking of no waiting close, and a safe point that is not reached. -/
def Todo.still (p : Parts) : Todo → Prop
  | .depart _ => True
  | .placeTasks _ => True
  | .service => p.frame.waitQueue = []
  | .closes => p.filing.closeOps = []
  | .safePoint job => ∀ u : Run, u.toParts = p → u.safePoint job = u
  | _ => False

/-- Such a consequence changes nothing, and lists none but the look at a drive. -/
theorem Run.consequence_still (p : Parts) (ha : p.sched.assigns = List.replicate 4 Assign.clear) (r : Run) (t : Todo)
    (hr : r.toParts = p) (ht : t.still p) (hd : ∀ x ∈ r.todo, x.still p) :
    (r.consequence t).toParts = p ∧ ∀ x ∈ (r.consequence t).todo, x.still p := by
  subst hr
  have nothing : ∀ u : Run, u = r → u.toParts = r.toParts ∧ ∀ x ∈ u.todo, x.still r.toParts := by
    rintro u rfl
    exact ⟨rfl, hd⟩
  have hclear := fun d => r.assignAt_calm ha d
  cases t with
  | depart d => exact nothing _ (r.depart_idle d (by rw [hclear d]; rfl) (by rw [hclear d]; rfl))
  | service => exact nothing _ (r.service_idle ht)
  | closes => exact nothing _ (r.closeStep_idle ht)
  | safePoint job => exact nothing _ (ht r rfl)
  | placeTasks d =>
    obtain h | h := r.placeTasks_idle d (by rw [hclear d]; rfl)
    · exact nothing _ h
    · show (r.placeTasks d).toParts = r.toParts ∧ ∀ x ∈ (r.placeTasks d).todo, x.still r.toParts
      rw [h]
      refine ⟨rfl, fun x hx => ?_⟩
      obtain hx | hx := List.mem_append.1 hx
      · exact hd x hx
      · rw [List.mem_singleton.1 hx]
        trivial
  | _ => exact False.elim ht

/-- A command's effect is its own change, where it leaves no assignment and no queued job and causes only such
consequences. -/
theorem State.act_unassigned (s : State) (f : Run → Run) (r : Run) (h : f (Run.of s) = r)
    (ha : r.sched.assigns = List.replicate 4 Assign.clear) (hq : r.sched.queues = [[], [], [], []])
    (ht : ∀ x ∈ r.todo, x.still r.toParts) : s.act f = s.withRun r :=
  State.act_still s f r h (Todo.still r.toParts) (fun u t hu => Run.consequence_still r.toParts ha u t hu)
    (.inl (by rw [hq]; rfl)) ht

/-- The look at every drive lists nothing else. -/
theorem Run.lookAtDrives_still (r : Run) (p : Parts) (h : ∀ x ∈ r.todo, x.still p) :
    ∀ x ∈ r.lookAtDrives.todo, x.still p := by
  intro x hx
  rw [r.lookAtDrives_todo] at hx
  obtain hx | hx := List.mem_append.1 hx
  · exact h x hx
  · simp only [List.mem_cons, List.not_mem_nil, or_false] at hx
    obtain rfl | rfl | rfl | rfl | rfl | rfl | rfl | rfl := hx <;> trivial

/-! ### The end of the one job there is (R102, R114, R116) -/

/-- Without a waiting order none is dropped (R114, R116). -/
theorem Run.dropOrders_none (r : Run) (job : Nat) (h : r.picker.orders = []) : r.dropOrders job = r := by
  unfold Run.dropOrders
  rw [h]
  rfl

/-- A change of every assignment record that leaves a clear one clear changes nothing while all are. -/
theorem Run.mapAssigns_calm (r : Run) (h : r.sched.assigns = List.replicate 4 Assign.clear) (f : Assign → Assign)
    (hf : f Assign.clear = Assign.clear) : r.sched.assigns.map f = r.sched.assigns := by
  rw [h, List.map_replicate, hf]

/-- Without an assignment a job has no drive to release (R111, R114). -/
theorem Run.releaseDrives_unassigned (r : Run) (job : Nat) (ha : r.sched.assigns = List.replicate 4 Assign.clear)
    (ho : r.picker.orders = []) : r.releaseDrives job = r := by
  have hincoming : Assign.clear.incoming = none := rfl
  unfold Run.releaseDrives
  rw [r.dropOrders_none job ho]
  simp only [r.assignAt_calm ha, hincoming, List.filter_false, List.foldl_nil]
  rw [r.mapAssigns_calm ha _ (by simp [Assign.clear])]

/-- Without an assignment a job is in no flip list (R109). -/
theorem Run.leaveFlips_unassigned (r : Run) (job : Nat) (ha : r.sched.assigns = List.replicate 4 Assign.clear) :
    r.leaveFlips job = r := by
  unfold Run.leaveFlips
  rw [r.mapAssigns_calm ha]
  rfl

/-- With no job suspended no entry leaves the suspension list (R115). -/
theorem Run.keepEntries_none (r : Run) (p : Suspension → Bool) (h : r.sched.suspended = []) : r.keepEntries p = r := by
  have hkeep : r.sched.suspended.filter p = r.sched.suspended := by rw [h]; rfl
  have hall : r.sched.suspended.all p = true := by rw [h]; rfl
  simp [Run.keepEntries, hkeep, hall]

/-- With no job suspended the end of a job requeues none (R115). -/
theorem Run.preemptorEnded_none (r : Run) (job : Nat) (h : r.sched.suspended = []) : r.preemptorEnded job = r := by
  have hback : r.sched.jobs.filter (fun j =>
      ((r.sched.suspended.filter (fun e => e.preemptor == job)).map (fun e => e.victim)).contains j.id &&
        j.state == .suspended) = [] := by
    rw [h]
    simp
  simp only [Run.preemptorEnded, hback, List.map_nil, List.isEmpty_nil, if_true]
  exact r.keepEntries_none _ h

/-- Without a job no drive is awaited (R114). -/
theorem Run.reserveDrives_none (r : Run) (h : r.sched.jobs = []) : r.reserveDrives = r := by
  have hnone : ∀ d, firstJob (r.sched.jobs.filter (fun j => j.awaited.contains d)) = none := fun d => by rw [h]; rfl
  simp only [Run.reserveDrives, List.foldl_cons, List.foldl_nil, hnone]

/-- The one job there is ends, with no drive assigned to it and none suspended: its record goes and it leaves its queue
(R102, R114, R116). -/
theorem Run.jobEnd_last (r : Run) (j : Job) (hj : r.sched.jobs = [j]) (hs : r.sched.suspended = [])
    (ha : r.sched.assigns = List.replicate 4 Assign.clear) (hw : r.frame.waitQueue = []) (ho : r.picker.orders = [])
    (hq : r.sched.queues.map (List.filter (· ≠ j.id)) = [[], [], [], []]) :
    r.jobEnd j.id =
      (Run.lookAtDrives { r with sched := { r.sched with jobs := [], queues := [[], [], [], []] } }).wantPass := by
  let u : Run := { r with sched := { r.sched with jobs := [], queues := [[], [], [], []] } }
  have hleft : r.leaveQueue j.id = { r with sched := { r.sched with queues := [[], [], [], []] } } := by
    unfold Run.leaveQueue
    rw [← hq]
    simp only [ne_eq, decide_not, bne, beq_eq_decide]
  have hgone : ([j].filter (fun k => k.id != j.id)) = [] := by simp
  have hwait : r.frame.waitQueue.filter (fun e => e.job != j.id) = r.frame.waitQueue := by rw [hw]; rfl
  unfold Run.jobEnd
  rw [r.releaseDrives_unassigned j.id ha ho, hleft,
    Run.leaveFlips_unassigned { r with sched := { r.sched with queues := [[], [], [], []] } } j.id ha]
  dsimp only
  rw [hj, hgone, hwait, r.mapAssigns_calm ha _ rfl, Run.keepEntries_none u _ hs, Run.preemptorEnded_none u _ hs,
    Run.reserveDrives_none u rfl]

end Sys2Proof.Machine

namespace Sys2Proof.Machine

open Sys2Proof.Config

/-! ### CANCEL (R47, R116) -/

/-- A write of CANCEL to the state word of a request that goes on is taken (R47, R48). -/
theorem Run.writeState_cancel (r : Run) (m n : Nat)
    (h : (r.slotAt n).state = .accepted ∨ (r.slotAt n).state = .active) :
    r.writeState m n cancelValue = (.taken, r.cancelSlot n) := by
  obtain h | h := h <;> simp [Run.writeState, h]

/-- The state in which the slot of a cancelled request is CANCELLING (R47). -/
def State.cancelling (s : State) (n : Nat) : State := s.withSlot n (fun x => { x with state := .cancelling })

/-- CANCEL of a request that goes on is the Slot Unit's own change, and what follows from it (R47). -/
theorem State.cancel_taken (s : State) (m n : Nat) (hm : m < 16) (hn : n < 64) (hready : s.Ready)
    (hagent : s.settings.agent m = .processor)
    (hstate : (s.slotRec n).state = .accepted ∨ (s.slotRec n).state = .active) :
    exec (.cancel m n) s = .next (s.act (fun r => (r.cancelSlot n).answer m .written)) := by
  have hwf : (Instr.cancel m n).wf = true := by simp [Instr.wf, hm, hn]
  show outcome _ (s.busTransfer _) = _
  rw [outcome_wf _ _ hwf, s.busTransfer_taken m n _ _ hready hn (by decide) hagent
    ((Run.of s).writeState_cancel m n hstate)]
  rfl

/-- What a command does, and the answer that follows it, where the first causes only consequences that change nothing. -/
theorem State.act_answered (s : State) (g : Run → Run) (r : Run) (m : Nat) (x : BusAnswer) (h : g (Run.of s) = r)
    (ha : r.sched.assigns = List.replicate 4 Assign.clear) (hq : r.sched.queues = [[], [], [], []])
    (ht : ∀ t ∈ r.todo, t.still (r.answer m x).toParts) :
    s.act (fun u => (g u).answer m x) = s.withRun (r.answer m x) :=
  State.act_unassigned s _ (r.answer m x) (by rw [h]) ha hq ht

/-- A request that no job carries out goes on to its end (R47, R55). -/
theorem State.cancelSlot_jobless (s : State) (m n : Nat)
    (h : (s.slotRec n).jobRef = some .operation ∨ (s.slotRec n).jobRef = none) :
    s.act (fun r => (r.cancelSlot n).answer m .written) = (s.cancelling n).answering m .written := by
  have hslot : (Run.of s).cancelSlot n = Run.of (s.cancelling n) := by
    have hwho : ((Run.of s).slotAt n).jobRef = (s.slotRec n).jobRef := rfl
    obtain h | h := h <;> simp only [Run.cancelSlot, hwho, h] <;> rfl
  rw [State.act_to s _ ((Run.of (s.cancelling n)).answer m .written) (by rw [hslot]) rfl rfl]
  rfl

/-- The cancel of a request that a job carries out is handed to that job (R47, R116). -/
theorem State.cancelSlot_job (s : State) (m n id : Nat) (h : (s.slotRec n).jobRef = some (.job id)) :
    s.act (fun r => (r.cancelSlot n).answer m .written) =
      (s.cancelling n).act (fun r => (r.cancelJob id).answer m .written) := by
  have hslot : (Run.of s).cancelSlot n = (Run.of (s.cancelling n)).cancelJob id := by
    have hwho : ((Run.of s).slotAt n).jobRef = some (.job id) := h
    simp only [Run.cancelSlot, hwho]
    rfl
  exact congrArg (fun r => s.withRun (Run.settle fuel (Run.answer r m .written))) hslot

/-- The record of a job that has taken a cancel (R116). -/
def Job.cancelled (j : Job) : Job := { j with cancelTaken := true }

/-- The working copy in which a job has taken a cancel (R116). -/
def Run.tellCancel (r : Run) (id : Nat) : Run := r.modJob id Job.cancelled

/-- The record of a job that has just taken a cancel (R116). -/
theorem Run.jobAt_cancelTaken (r : Run) (id : Nat) (j : Job) (h : r.jobAt id = some j) :
    (r.modJob id (fun j => { j with cancelTaken := true })).jobAt id = some j.cancelled :=
  (r.jobAt_modJob id Job.cancelled (fun _ => rfl)).trans (by rw [h]; rfl)

/-- An IMPORT or EXPORT whose order is in progress lets its move end, and another ends at once (R76, R77, R116). -/
theorem Run.cancelJob_move (r : Run) (id : Nat) (j : Job) (h : r.jobAt id = some j)
    (hkind : (∃ cell, j.kind = .importIn cell) ∨ ∃ serial, j.kind = .exportOut serial) :
    r.cancelJob id = if r.picker.jobMoving id then r.tellCancel id
      else (r.tellCancel id).moveJobEnds j.cancelled (some .aborted) [] := by
  simp only [Run.cancelJob, r.jobAt_cancelTaken id j h]
  obtain ⟨c, hk⟩ | ⟨c, hk⟩ := hkind <;> (simp only [Job.cancelled, hk]; rfl)

/-- The cancel of a FETCH (R116, R132). -/
theorem Run.cancelJob_fetch (r : Run) (id : Nat) (j : Job) (h : r.jobAt id = some j) (hkind : j.kind = .fetch) :
    r.cancelJob id = (r.tellCancel id).cancelFetch j.cancelled := by
  simp only [Run.cancelJob, r.jobAt_cancelTaken id j h]
  simp only [Job.cancelled, hkind]
  rfl

/-- The cancel of a FILE (R116, R153). -/
theorem Run.cancelJob_file (r : Run) (id : Nat) (j : Job) (h : r.jobAt id = some j) (hkind : j.kind = .file) :
    r.cancelJob id = (r.tellCancel id).cancelBurn j.cancelled := by
  simp only [Run.cancelJob, r.jobAt_cancelTaken id j h]
  simp only [Job.cancelled, hkind]
  rfl

/-- An IMPORT or EXPORT job that fails for its request (R76, R77). -/
theorem Run.moveJobEnds_failed (r : Run) (j : Job) (n : Nat) (c : Code) (w : List (Nat × List Byte)) (h : j.slot = some n) :
    r.moveJobEnds j (some c) w = (r.endReport n { done := false, code := c, count := 0 } []).jobEnd j.id := by
  unfold Run.moveJobEnds
  rw [h]
  rfl

/-! ### The cancel of the one job there is -/

/-- The request of slot `n` goes on with the one job there is, no drive is assigned, no job is suspended or waits for
frames, and no picker order waits. -/
structure State.Lone (s : State) (n : Nat) (j : Job) : Prop where
  jobRef : (s.slotRec n).jobRef = some (.job j.id)
  outcome : (s.slotRec n).outcome = none
  lt : n < s.slot.slots.length
  jobs : s.sched.jobs = [j]
  suspended : s.sched.suspended = []
  assigns : s.sched.assigns = List.replicate 4 Assign.clear
  waitQueue : s.frame.waitQueue = []
  orders : s.picker.orders = []

/-- The Slot Unit once a cancelled request has ended FAILED with ABORTED and its write-back is listed (R54, R132, R153). -/
def SlotUnit.aborts (u : SlotUnit) (n : Nat) (results : List (Nat × List Byte)) : SlotUnit :=
  { u with
    slots := u.slots.modify n (fun x =>
      { x with state := .cancelling, outcome := some { done := false, code := .aborted, count := 0 }, jobRef := none }),
    work := u.work ++ [.writeBack n (writeBackWrites n { done := false, code := .aborted, count := 0 } results)] }

/-- The Scheduler once its one job has ended. -/
def Scheduler.idle (x : Scheduler) : Scheduler := { x with jobs := [], queues := [[], [], [], []] }

section
variable {s : State} {n : Nat} {j : Job} (h : s.Lone n j)
include h

/-- The job that the cancel is handed to. -/
theorem State.Lone.jobAt : (Run.of (s.cancelling n)).jobAt j.id = some j := by
  show s.sched.jobs.find? _ = _
  simp [h.jobs]

/-- The one job once it has taken the cancel. -/
theorem State.Lone.told_jobs : ((Run.of (s.cancelling n)).tellCancel j.id).sched.jobs = [j.cancelled] := by
  show s.sched.jobs.map _ = _
  simp [h.jobs]

/-- The end report of the cancelled request (R54). -/
theorem State.Lone.endReport (r : Run) (hr : r.slot = (s.cancelling n).slot) (w : List (Nat × List Byte)) :
    r.endReport n { done := false, code := .aborted, count := 0 } w = { r with slot := s.slot.aborts n w } := by
  have hat : r.slotAt n = { s.slotRec n with state := .cancelling } := by
    rw [Run.slotAt, hr]
    exact s.slotRec_withSlot n _ h.lt
  rw [Run.endReport_inHand r n _ w (by rw [hat]; simp [SlotRec.inHand, h.outcome]), hr]
  simp only [State.cancelling, State.withSlot, List.modify_modify_eq]
  rfl

/-- The end of the one job, in a working copy that has left the Scheduler and the picker as the cancel found them (R116). -/
theorem State.Lone.jobEnd (hq : s.sched.queues.map (List.filter (· ≠ j.id)) = [[], [], [], []]) (r : Run)
    (hs : r.sched = ((Run.of (s.cancelling n)).tellCancel j.id).sched) (hw : r.frame.waitQueue = [])
    (hp : r.picker = s.picker) :
    r.jobEnd j.id = (Run.lookAtDrives { r with sched := s.sched.idle }).wantPass := by
  have hend := r.jobEnd_last j.cancelled (by rw [hs]; exact h.told_jobs) (by rw [hs]; exact h.suspended)
    (by rw [hs]; exact h.assigns) hw (by rw [hp]; exact h.orders) (by rw [hs]; exact hq)
  rw [hs] at hend
  exact hend

/-- A cancelled IMPORT or EXPORT that waits ends at once (R76, R77). -/
theorem State.Lone.cancel_move (m : Nat) (hq : s.sched.queues.map (List.filter (· ≠ j.id)) = [[], [], [], []])
    (hkind : (∃ cell, j.kind = .importIn cell) ∨ ∃ serial, j.kind = .exportOut serial)
    (hmoving : s.picker.jobMoving j.id = false) (hslot : j.slot = some n) :
    (s.cancelling n).act (fun r => (r.cancelJob j.id).answer m .written) =
      { s with
        path := { s.path with answer := some (m, .written) }, slot := s.slot.aborts n [], sched := s.sched.idle } := by
  let u : Run := { (Run.of (s.cancelling n)).tellCancel j.id with slot := s.slot.aborts n [] }
  have hcancel : (Run.of (s.cancelling n)).cancelJob j.id =
      (Run.lookAtDrives { u with sched := s.sched.idle }).wantPass := by
    have hslot' : j.cancelled.slot = some n := hslot
    have hwaits : (Run.of (s.cancelling n)).picker.jobMoving j.id = false := hmoving
    rw [Run.cancelJob_move _ j.id j h.jobAt hkind, hwaits, if_neg Bool.false_ne_true,
      Run.moveJobEnds_failed _ _ n _ _ hslot', h.endReport ((Run.of (s.cancelling n)).tellCancel j.id) rfl []]
    exact h.jobEnd hq u rfl h.waitQueue rfl
  rw [State.act_answered _ (fun r => r.cancelJob j.id) _ m .written hcancel h.assigns rfl
    (Run.lookAtDrives_still _ _ fun _ hx => absurd hx List.not_mem_nil)]
  rfl

end

/-! ### A FILE that is cancelled while it waits (R18, R153) -/

/-- A FILING frame is SCAN again, for the master that owned it (R18). -/
def Frame.toScan (f : Frame) : Frame :=
  match f with
  | .filing _ _ owner _ => .scan owner
  | _ => f

/-- The frame of one page returns to SCAN (R18). -/
def Run.pageToScan (r : Run) (p : BurnPage) : Run :=
  match r.frameAt p.frame with
  | .filing _ _ owner _ => r.setFrame p.frame (.scan owner)
  | _ => r

/-- The pages' frames return to SCAN one by one. -/
theorem Run.framesToScan_pages (r : Run) (b : BurnJob) : r.framesToScan b = b.pages.foldl Run.pageToScan r := rfl

/-- The return of a frame to SCAN changes frame records alone. -/
theorem Run.pageToScan_eq (r : Run) (p : BurnPage) : r.pageToScan p = r.withFrames (r.pageToScan p).frame.frames := by
  unfold Run.pageToScan
  split
  · exact r.setFrame_eq _ _
  · rfl

/-- The frame records after one frame has returned to SCAN. -/
theorem Run.frameAt_pageToScan (r : Run) (p : BurnPage) (k : Nat) :
    (r.pageToScan p).frameAt k = if p.frame = k then (r.frameAt k).toScan else r.frameAt k := by
  unfold Run.pageToScan
  split
  next tag info owner hs hf =>
    obtain ⟨hpos, hget⟩ := r.frameAt_pos p.frame (by rw [hf]; exact Frame.noConfusion)
    have hle : p.frame ≤ r.frame.frames.length := by
      have := (List.getElem?_eq_some_iff.1 hget).1
      omega
    rw [r.frameAt_setFrame]
    by_cases hk : p.frame = k
    · subst hk
      simp [hpos, hle, hf, Frame.toScan]
    · simp [hk, Ne.symm hk]
  next hf =>
    by_cases hk : p.frame = k
    · subst hk
      rw [if_pos rfl]
      cases hfr : r.frameAt p.frame with
      | filing tag info owner hs => exact absurd hfr (hf tag info owner hs)
      | _ => rfl
    · rw [if_neg hk]

/-- The return of a FILE's frames to SCAN changes frame records alone. -/
theorem Run.framesToScan_eq (r : Run) (b : BurnJob) : r.framesToScan b = r.withFrames (r.framesToScan b).frame.frames := by
  rw [r.framesToScan_pages]
  induction b.pages generalizing r with
  | nil => rfl
  | cons p ps ih =>
    rw [List.foldl_cons, ih (r.pageToScan p), r.pageToScan_eq p]
    rfl

/-- A frame that is SCAN again stays so. -/
theorem Frame.toScan_toScan (f : Frame) : f.toScan.toScan = f.toScan := by cases f <;> rfl

/-- The frames of a FILE are SCAN again, and no other frame has changed (R18). -/
theorem Run.frameAt_framesToScan (r : Run) (b : BurnJob) (k : Nat) :
    (r.framesToScan b).frameAt k = if ∃ p ∈ b.pages, p.frame = k then (r.frameAt k).toScan else r.frameAt k := by
  rw [r.framesToScan_pages]
  induction b.pages generalizing r with
  | nil => simp
  | cons p ps ih =>
    rw [List.foldl_cons, ih, r.frameAt_pageToScan]
    by_cases hk : p.frame = k
    · simp [hk, Frame.toScan_toScan]
    · simp [hk]

section
variable {s : State} {n : Nat} {j : Job} (h : s.Lone n j)
include h

/-- A cancelled FILE that waits, none of its pages PLACED, ends at once and its frames are SCAN again (R153). -/
theorem State.Lone.cancel_file (m : Nat) (hq : s.sched.queues.map (List.filter (· ≠ j.id)) = [[], [], [], []])
    (hkind : j.kind = .file) (hstate : j.state = .queued ∨ j.state = .waitingMedia) (hcloses : s.filing.closeOps = [])
    (b : BurnJob) (hburns : s.filing.burns = [b]) (hjob : b.job = j.id) (hslot : b.slot = some n)
    (hplaced : ∀ p ∈ b.pages, p.placed = none) :
    (s.cancelling n).act (fun r => (r.cancelJob j.id).answer m .written) =
      { s with
        path := { s.path with answer := some (m, .written) }, slot := s.slot.aborts n (fileResults b),
        sched := s.sched.idle, filing := { s.filing with burns := [] },
        frame := { s.frame with
          frames := (((Run.of (s.cancelling n)).tellCancel j.id).framesToScan b).frame.frames } } := by
  let told : Run := (Run.of (s.cancelling n)).tellCancel j.id
  let u : Run := { told.withFrames (told.framesToScan b).frame.frames with
    slot := s.slot.aborts n (fileResults b), filing := { s.filing with burns := [] } }
  have hburn : told.burnAt j.cancelled.id = some b := by
    show s.filing.burns.find? _ = _
    simp [hburns, hjob, Job.cancelled]
  have hcancel : (Run.of (s.cancelling n)).cancelJob j.id =
      (Run.lookAtDrives { u with sched := s.sched.idle }).wantPass.push .closes := by
    have hatOnce : told.cancelBurn j.cancelled = told.burnEndsFailed b .aborted := by
      have hstate' : j.cancelled.state = .queued ∨ j.cancelled.state = .waitingMedia := hstate
      obtain hw | hw := hstate' <;> simp only [Run.cancelBurn, hw, hburn]
    have hnone : (b.pages.filter (fun p => p.placed.isSome)).length = 0 := by
      rw [List.length_eq_zero_iff, List.filter_eq_nil_iff]
      intro p hp
      simp [hplaced p hp]
    have hgone : told.filing.burns.filter (fun x => x.job != b.job) = [] := by
      show s.filing.burns.filter _ = _
      simp [hburns]
    rw [Run.cancelJob_file _ j.id j h.jobAt hkind, hatOnce]
    simp only [Run.burnEndsFailed, hslot, hnone]
    rw [told.framesToScan_eq b, h.endReport _ rfl (fileResults b)]
    unfold Run.burnOver
    rw [show ({ told.withFrames (told.framesToScan b).frame.frames with slot := s.slot.aborts n (fileResults b) } :
      Run).filing.burns.filter (fun x => x.job != b.job) = [] from hgone, hjob]
    exact congrArg (Run.push · .closes) (h.jobEnd hq u rfl h.waitQueue rfl)
  rw [State.act_answered _ (fun r => r.cancelJob j.id) _ m .written hcancel h.assigns rfl]
  · rfl
  · intro x hx
    obtain hx | hx := List.mem_append.1 hx
    · exact Run.lookAtDrives_still _ _ (fun _ hx => absurd hx List.not_mem_nil) x hx
    · rw [List.mem_singleton.1 hx]
      exact hcloses

end

/-! ### A FETCH that is cancelled (R132) -/

/-- No frame has a hold of a holder, so that dropping them all changes nothing (R46). -/
theorem Run.dropHolds_none (r : Run) (x : Holder) (hnone : ∀ f ∈ r.frame.frames, x ∉ f.holders) : r.dropHolds x = r := by
  have hat : ∀ k, x ∉ (r.frameAt k).holders := by
    intro k
    by_cases hk : r.frameAt k = .empty
    · rw [hk]
      exact List.not_mem_nil
    · exact hnone _ (List.mem_of_getElem? (r.frameAt_pos k hk).2)
  unfold Run.dropHolds
  generalize List.range r.frame.frames.length = l
  induction l with
  | nil => rfl
  | cons i l ih => rw [List.foldl_cons, r.dropHold_of_notMem _ x (hat _), ih]

/-- Set-aside entries of a slot are given back (R174). -/
theorem Run.giveBack_slot (r : Run) (n : Nat) :
    r.giveBack (fun g => g.slot == n) = { r with fee := { r.fee with grants := r.fee.grants.map (fun o => o.bind (fun g =>
      if g.state = .setAside ∧ g.slot = n then none else some g)) } } := by
  simp only [Run.giveBack, Run.mapGrants, beq_iff_eq]

/-- What is left after grants have been given back was there before. -/
theorem mem_of_mem_map_bind (gs : List (Option Grant)) (p : Grant → Prop) [DecidablePred p] (g : Grant)
    (hg : some g ∈ gs.map (fun o => o.bind (fun g => if p g then none else some g))) : some g ∈ gs := by
  obtain ⟨_ | k, hk, he⟩ := List.mem_map.1 hg
  · exact absurd he (by simp)
  · rw [Option.bind_some] at he
    split at he
    · exact absurd he (by simp)
    · rwa [← he]

/-- The results of a FETCH none of whose pages is FINAL: ABORTED for each (R131, log entry 23). -/
theorem Run.fetchResults_aborted (r : Run) (f : FetchJob) (hcode : ∀ p ∈ f.pages, p.code = none) :
    r.fetchResults f = [(256, padTo 256 (f.pages.flatMap (fun _ => fetchEntry 0 .aborted none)))] := by
  have hentry : ∀ p ∈ f.pages, r.pageEntry p = fetchEntry 0 .aborted none := fun p hp => by
    simp [Run.pageEntry, PageEntry.sealedPage, hcode p hp]
  unfold Run.fetchResults
  rw [List.flatMap_congr hentry]

/-- What a FETCH that ends with ABORTED has held is given up: its place in the frame-wait queue, its record, its holds and
its grants (R131, R132). -/
def Run.fetchReleased (r : Run) (f : FetchJob) : Run :=
  ((Run.releaseHolds { r with
      frame := { r.frame with waitQueue := r.frame.waitQueue.filter (fun e => e.job != f.job) },
      retr := { r.retr with fetches := r.retr.fetches.filter (fun g => g.job != f.job) } } f.slot).giveBack
    (fun g => g.slot == f.slot)).withdraw (fun g => g.slot == f.slot)

/-- The working copy in which a FETCH has reported ABORTED and given up what it has held (R131, R132). -/
def Run.fetchAborted (r : Run) (f : FetchJob) : Run :=
  (r.endReport f.slot { done := false, code := .aborted, count := (f.pages.filter PageEntry.sealedPage).length }
    (r.fetchResults f)).fetchReleased f

/-- A FETCH that ends with ABORTED: its report, what it gives up, the end of its job, and its page tasks passed on (R126,
R131, R132). -/
theorem Run.abortFetch_eq (r : Run) (f : FetchJob) :
    r.abortFetch f =
      ((((r.fetchAborted f).retr.tasks.filter (fun t => t.carrier == some f.job && !t.placed)).map (fun t => t.frame)).foldl
        (fun r n => r.passTask n) ((r.fetchAborted f).jobEnd f.job)).serveFirst := by
  unfold Run.abortFetch Run.fetchAborted Run.fetchReleased
  rfl

/-- The Fee Meter once a slot's set-aside entries have been given back (R132, R174). -/
def FeeMeter.givenBack (x : FeeMeter) (n : Nat) : FeeMeter :=
  { x with grants := x.grants.map (fun o => o.bind (fun g => if g.state = .setAside ∧ g.slot = n then none else some g)) }

section
variable {s : State} {n : Nat} {j : Job} (h : s.Lone n j)
include h

/-- A cancelled FETCH that waits without a frame or a page task ends at once, and gives back the grants that it had set
aside (R132). -/
theorem State.Lone.cancel_fetch (m : Nat) (hq : s.sched.queues.map (List.filter (· ≠ j.id)) = [[], [], [], []])
    (hkind : j.kind = .fetch) (hstate : j.state = .queued ∨ j.state = .waitingMedia) (htasks : s.retr.tasks = [])
    (hgrants : ∀ g, some g ∈ s.fee.grants → g.frame ≠ none → g.slot ≠ n)
    (f : FetchJob) (hfetches : s.retr.fetches = [f]) (hjob : f.job = j.id) (hslot : f.slot = n)
    (hcode : ∀ p ∈ f.pages, p.code = none) (hholds : ∀ x ∈ s.frame.frames, Holder.slot n ∉ x.holders) :
    (s.cancelling n).act (fun r => (r.cancelJob j.id).answer m .written) =
      { s with
        path := { s.path with answer := some (m, .written) },
        slot := s.slot.aborts n [(256, padTo 256 (f.pages.flatMap (fun _ => fetchEntry 0 .aborted none)))],
        sched := s.sched.idle, retr := { s.retr with fetches := [] }, fee := s.fee.givenBack n } := by
  let told : Run := (Run.of (s.cancelling n)).tellCancel j.id
  let results : List (Nat × List Byte) := [(256, padTo 256 (f.pages.flatMap (fun _ => fetchEntry 0 .aborted none)))]
  let u : Run := { told with slot := s.slot.aborts n results, retr := { s.retr with fetches := [] } }
  let v : Run := { u with fee := s.fee.givenBack n }
  have hatOnce : told.cancelFetch j.cancelled = told.abortFetch f := by
    have hfetch : told.fetchAt j.cancelled.id = some f := by
      show s.retr.fetches.find? _ = _
      simp [hfetches, hjob, Job.cancelled]
    have hstate' : j.cancelled.state = .queued ∨ j.cancelled.state = .waitingMedia := hstate
    obtain hw | hw := hstate' <;> simp only [Run.cancelFetch, hw, hfetch]
  have hreport : told.endReport f.slot
      { done := false, code := .aborted, count := (f.pages.filter PageEntry.sealedPage).length } (told.fetchResults f) =
      { told with slot := s.slot.aborts n results } := by
    have hcount : (f.pages.filter PageEntry.sealedPage).length = 0 := by
      rw [List.length_eq_zero_iff, List.filter_eq_nil_iff]
      intro p hp
      simp [PageEntry.sealedPage, hcode p hp]
    rw [hcount, told.fetchResults_aborted f hcode, hslot]
    exact h.endReport told rfl results
  have hreleased : ({ told with slot := s.slot.aborts n results } : Run).fetchReleased f = v := by
    have hwait : s.frame.waitQueue.filter (fun e => e.job != f.job) = s.frame.waitQueue := by rw [h.waitQueue]; rfl
    have hgone : s.retr.fetches.filter (fun g => g.job != f.job) = [] := by simp [hfetches]
    have hrecords : ({ told with
        slot := s.slot.aborts n results,
        frame := { s.frame with waitQueue := s.frame.waitQueue.filter (fun e => e.job != f.job) },
        retr := { s.retr with fetches := s.retr.fetches.filter (fun g => g.job != f.job) } } : Run) = u := by
      rw [hwait, hgone]
      rfl
    have hheld : u.releaseHolds n = u := by
      unfold Run.releaseHolds
      rw [u.dropHolds_none (.slot n) hholds]
      rfl
    have hkept : v.withdraw (fun g => g.slot == n) = v := v.withdraw_none _ fun g hg hframe => by
      have hold := mem_of_mem_map_bind s.fee.grants (fun g => g.state = .setAside ∧ g.slot = n) g hg
      simpa using hgrants g hold (Option.isSome_iff_ne_none.1 hframe)
    unfold Run.fetchReleased
    rw [hslot]
    refine (congrArg (fun r : Run => ((r.releaseHolds n).giveBack (fun g => g.slot == n)).withdraw
      (fun g => g.slot == n)) hrecords).trans ?_
    rw [hheld, u.giveBack_slot n]
    exact hkept
  have hcancel : (Run.of (s.cancelling n)).cancelJob j.id =
      (Run.lookAtDrives { v with sched := s.sched.idle }).wantPass.serveFirst := by
    rw [Run.cancelJob_fetch _ j.id j h.jobAt hkind]
    refine hatOnce.trans ?_
    have haborted : told.fetchAborted f = v := (congrArg (fun r : Run => r.fetchReleased f) hreport).trans hreleased
    rw [told.abortFetch_eq f, haborted, show v.retr.tasks = [] from htasks, hjob]
    exact congrArg Run.serveFirst (h.jobEnd hq v rfl h.waitQueue rfl)
  rw [State.act_answered _ (fun r => r.cancelJob j.id) _ m .written hcancel h.assigns rfl]
  · rfl
  · intro x hx
    have hlooks := Run.lookAtDrives_todo { v with sched := s.sched.idle }
    have hserved : (Run.lookAtDrives { v with sched := s.sched.idle }).wantPass.serveFirst.todo =
        .service :: (Run.lookAtDrives { v with sched := s.sched.idle }).todo := by
      simp only [Run.serveFirst, Run.wantPass_todo, hlooks]
      rfl
    rw [hserved] at hx
    obtain rfl | hx := List.mem_cons.1 hx
    · exact h.waitQueue
    · exact Run.lookAtDrives_still _ _ (fun _ hx => absurd hx List.not_mem_nil) x hx

end

end Sys2Proof.Machine

namespace Sys2Proof.Machine

open Sys2Proof.Config

/-! ### A FETCH that is cancelled while it reads (R114, R132) -/

/-- A job leaves queues that are empty as they are (R103). -/
theorem Run.leaveQueue_empty (r : Run) (job : Nat) (hq : r.sched.queues = [[], [], [], []]) : r.leaveQueue job = r := by
  have hsame : r.sched.queues.map (fun q => q.filter (fun i => i != job)) = r.sched.queues := by rw [hq]; rfl
  unfold Run.leaveQueue
  rw [hsame]

/-- A FETCH job that is STOPPING, with every need unplaced (R114). -/
def Job.stopped (j : Job) : Job :=
  { j with state := .stopping, needs := j.needs.map (fun x => { x with place := .unplaced }) }

/-- The one job there is, a FETCH without a task that is not placed, becomes STOPPING, and its safe point is looked for
(R114). -/
theorem Run.stopJob_placed (r : Run) (j : Job) (hj : r.sched.jobs = [j]) (hkind : j.kind = .fetch)
    (hq : r.sched.queues = [[], [], [], []]) (ha : r.sched.assigns = List.replicate 4 Assign.clear)
    (ho : r.picker.orders = []) (htasks : ∀ t ∈ r.retr.tasks, t.placed = true) :
    r.stopJob j.id =
      (Run.push { r with sched := { r.sched with jobs := [j.stopped] } } (.safePoint j.id)).lookAtDrives := by
  have hat : r.jobAt j.id = some j := by
    show r.sched.jobs.find? _ = _
    simp [hj]
  have hunplaced : r.retr.tasks.filter (fun t => t.carrier == some j.id && !t.placed) = [] := by
    rw [List.filter_eq_nil_iff]
    intro t ht
    simp [htasks t ht]
  have hburn : j.kind.isBurn = false := by rw [hkind]; rfl
  let u : Run := { r with sched := { r.sched with jobs := [{ j with state := .stopping }] } }
  let v : Run := { r with sched := { r.sched with jobs := [j.stopped] } }
  have hstate : r.setJobState j.id .stopping = u := by
    simp [Run.setJobState, Run.modJob, hj, u]
  have hneeds : u.setNeeds j.id (fun x => { x with place := .unplaced }) = v := by
    simp [Run.setNeeds, Run.modJob, u, v, Job.stopped]
  have hpass : v.passTasks j.id = v := by
    unfold Run.passTasks
    rw [show v.retr.tasks.filter (fun t => t.carrier == some j.id && !t.placed) = [] from hunplaced]
    rfl
  unfold Run.stopJob
  rw [hat]
  simp only [hburn, Bool.false_eq_true, if_false, hstate, u.leaveQueue_empty j.id hq,
    show u.retr.tasks.filter (fun t => t.carrier == some j.id && !t.placed) = [] from hunplaced, List.map_nil,
    List.foldl_nil, u.dropOrders_none j.id ho, hneeds, v.leaveFlips_unassigned j.id ha, hpass]
  rfl

section
variable {s : State} {n : Nat} {j : Job} (h : s.Lone n j)
include h

/-- A cancelled FETCH whose one task is placed becomes STOPPING and waits for the task's end (R114, R132). -/
theorem State.Lone.cancel_running (m : Nat) (hq : s.sched.queues = [[], [], [], []]) (hkind : j.kind = .fetch)
    (hstate : j.state = .running) (t : Task) (htasks : s.retr.tasks = [t]) (hcarrier : t.carrier = some j.id)
    (hphase : t.phase ≠ .unplaced) :
    (s.cancelling n).act (fun r => (r.cancelJob j.id).answer m .written) =
      { (s.cancelling n).answering m .written with sched := { s.sched with jobs := [j.cancelled.stopped] } } := by
  have hplaced : t.placed = true := by simpa [Task.placed] using hphase
  let told : Run := (Run.of (s.cancelling n)).tellCancel j.id
  let u : Run := { told with sched := { s.sched with jobs := [j.cancelled.stopped] } }
  have hstop : told.cancelFetch j.cancelled = (u.push (.safePoint j.id)).lookAtDrives := by
    have hrunning : j.cancelled.state = .running := hstate
    have hreads : told.retr.tasks.any (fun t => t.carrier == some j.cancelled.id && t.placed) = true := by
      show s.retr.tasks.any _ = true
      simp [htasks, hcarrier, hplaced, Job.cancelled]
    simp only [Run.cancelFetch, hrunning]
    rw [if_pos hreads]
    exact told.stopJob_placed j.cancelled h.told_jobs hkind hq h.assigns h.orders fun x hx => by
      have hx : x ∈ s.retr.tasks := hx
      rw [htasks] at hx
      rwa [List.mem_singleton.1 hx]
  have hcancel : (Run.of (s.cancelling n)).cancelJob j.id = (u.push (.safePoint j.id)).lookAtDrives :=
    (Run.cancelJob_fetch _ j.id j h.jobAt hkind).trans hstop
  have hunsafe : ∀ w : Run, w.toParts = (u.answer m .written).toParts → w.safePoint j.id = w := by
    intro w hw
    have hsched : w.sched = u.sched := (congrArg (fun p : Parts => p.sched) hw).trans rfl
    have hretr : w.retr.tasks = [t] := (congrArg (fun p : Parts => p.retr.tasks) hw).trans htasks
    refine w.safePoint_idle j.id fun k hk => ?_
    have hk : k = j.cancelled.stopped := by
      have hfind : w.sched.jobs.find? (fun x => x.id == j.id) = some k := hk
      rw [hsched] at hfind
      simpa [u, Job.cancelled, Job.stopped, eq_comm] using hfind
    subst hk
    have hfetch : j.cancelled.stopped.kind.isBurn = false := by rw [show j.cancelled.stopped.kind = .fetch from hkind]; rfl
    have hid : j.cancelled.stopped.id = j.id := rfl
    simp [Run.atSafePoint, hfetch, hretr, hcarrier, hplaced, hid]
  rw [State.act_answered _ (fun r => r.cancelJob j.id) _ m .written hcancel h.assigns hq]
  · rfl
  · refine Run.lookAtDrives_still _ _ fun x hx => ?_
    rw [List.mem_singleton.1 hx]
    exact hunsafe

end

/-- Settles O22: the Slot Unit makes the slot CANCELLING, and the rest is what the job's cancel does. -/
theorem cancelMakesTheSlotCancelling : Obligations.CancelMakesTheSlotCancelling := by
  unfold Obligations.CancelMakesTheSlotCancelling
  intro s m n hm hn hready hagent hstate told aborted
  have htaken := s.cancel_taken m n hm hn hready hagent hstate
  have hjob : ∀ id, (s.slotRec n).jobRef = some (.job id) →
      exec (.cancel m n) s = .next ((s.cancelling n).act (fun r => (r.cancelJob id).answer m .written)) :=
    fun id h => by rw [htaken, s.cancelSlot_job m n id h]
  refine ⟨fun h => by rw [htaken, s.cancelSlot_jobless m n h]; rfl, hjob, fun id j h hj hkind hmoving => ?_,
    fun j href hout hlt hjobs hsuspended hassigns hwait horders hmoving hflight hcloses hstreams hgrants => ?_⟩
  · have hcancel : (Run.of (s.cancelling n)).cancelJob id = (Run.of (s.cancelling n)).tellCancel id := by
      have hmoves : (Run.of (s.cancelling n)).picker.jobMoving id = true := hmoving
      rw [Run.cancelJob_move (Run.of (s.cancelling n)) id j hj hkind, hmoves, if_pos rfl]
    rw [hjob id h, State.act_to _ _ (((Run.of (s.cancelling n)).tellCancel id).answer m .written) (by rw [hcancel]) rfl rfl]
    rfl
  · have lone : s.Lone n j := ⟨href, hout, hlt, hjobs, hsuspended, hassigns, hwait, horders⟩
    rw [hjob j.id href]
    refine ⟨fun hwaits hq htasks => ⟨fun hkind hslot => ?_, fun b hkind hburns hb hslot hpages => ?_,
      fun f hkind hfetches hf hslot hcode hholds => ?_⟩,
      fun t f hkind hrunning hq htasks hfetches hcarrier hphase => ?_⟩
    · rw [lone.cancel_move m hq hkind hmoving hslot]
      rfl
    · refine ⟨_, congrArg _ (lone.cancel_file m hq hkind hwaits hcloses b hburns hb hslot fun p hp => (hpages p hp).1), rfl,
        fun p hp tag info owner hs hframe => ?_, fun k hk => ?_⟩
      · refine (Run.frameAt_framesToScan _ b p.frame).trans ((if_pos ⟨p, hp, rfl⟩).trans ?_)
        exact congrArg Frame.toScan hframe
      · exact (Run.frameAt_framesToScan _ b k).trans (if_neg fun ⟨p, hp, he⟩ => hk p hp he)
    · rw [lone.cancel_fetch m hq hkind hwaits htasks hgrants f hfetches hf hslot hcode hholds]
      rfl
    · rw [lone.cancel_running m hq hkind hrunning t htasks hcarrier hphase]
      rfl

end Sys2Proof.Machine

namespace Sys2Proof.Machine

open Sys2Proof.Config

/-! ### When the mechanism's events are taken (R83, R190) -/

/-- Past the start-up sequence the mechanism's events are taken. -/
theorem StartUp.acting_done (u : StartUp) (h : u.stage = .done) : u.acting = true := by simp [StartUp.acting, h]

/-- Past the start-up sequence, with no start-up write to come, the control area is in service (R23). -/
theorem StartUp.inService_done (u : StartUp) (h : u.stage = .done) (hn : u.initNext = none) : u.inService = true := by
  simp [StartUp.inService, h, hn]

/-- The move in progress, while the mechanism's events are taken. -/
theorem State.moveInProgress_acting (s : State) (h : s.startup.acting = true) : s.moveInProgress = s.picker.move :=
  if_pos h

/-! ### The hatch: its button, its sensors and its window (R78, R79, R80) -/

/-- The button of a hatch that may be released asks for its release (R78). -/
theorem State.hatchButton (s : State) (h : s.startup.acting = true) :
    exec .hatchButton s = .next (s.act (fun r => r.askRelease .button)) := by
  show execHatchButton s = _
  rw [execHatchButton, outcome_wf _ _ rfl]
  exact congrArg _ (if_pos h)

/-- A release asked of a LOCKED hatch with no audit in its way makes it RELEASE_PENDING (R78). -/
theorem Run.askRelease_locked (r : Run) (cause : ReleaseCause) (h : r.picker.hatch = .locked) (ha : r.picker.audit = none)
    (hs : r.startup.stage = .done) :
    r.askRelease cause =
      Run.push { r with picker := { r.picker with hatch := .releasePending, releaseCause := cause } } .hatch := by
  simp [Run.askRelease, h, ha, hs]

/-- A release asked while an audit stands in its way is noted to follow it; the first cause asked stays (R78). -/
theorem Run.askRelease_audit (r : Run) (cause : ReleaseCause)
    (h : r.picker.hatch = .auditing ∨ (r.picker.hatch = .locked ∧ r.picker.audit.isSome = true)) :
    r.askRelease cause =
      { r with picker := { r.picker with pendingRelease := some (r.picker.pendingRelease.getD cause) } } := by
  obtain h | ⟨h, ha⟩ := h
  · simp [Run.askRelease, h]
  · simp [Run.askRelease, h, ha]

/-- A hatch on its way to release, or released, takes no further ask (R78). -/
theorem Run.askRelease_released (r : Run) (cause : ReleaseCause)
    (h : r.picker.hatch = .releasePending ∨ r.picker.hatch = .released ∨ r.picker.hatch = .opened) :
    r.askRelease cause = r := by
  obtain h | h | h := h <;> simp [Run.askRelease, h]

/-- With no OPEN HATCH request waiting none ends. -/
theorem Run.endHatchOps_none (r : Run) (h : r.picker.hatchOps = []) : r.endHatchOps = r := by
  have hpicker : ({ r.picker with hatchOps := [] } : Picker) = r.picker := by rw [← h]
  simp only [Run.endHatchOps, h, List.foldl_nil, hpicker]

/-- The hatch is released once the arm is at rest, with a notice and the window timer started (R78). -/
theorem Run.hatchStep_alone (r : Run) (h : r.picker.hatch = .releasePending) (hm : r.picker.state ≠ .moving)
    (ho : r.picker.hatchOps = []) :
    r.hatchStep = Run.notice { r with picker := { r.picker with hatch := .released, windowStart := some r.now } }
      (.hatchReleased r.picker.releaseCause) := by
  unfold Run.hatchStep
  rw [if_pos ⟨h, hm⟩]
  dsimp only
  rw [Run.endHatchOps_none]
  exact ho

/-- The lamp is lit in RELEASED and OPEN (R78, R79). -/
theorem Picker.lampOn_iff (p : Picker) : p.lampOn = true ↔ p.hatch = .released ∨ p.hatch = .opened := by
  cases h : p.hatch <;> simp [Picker.lampOn, h]

/-- The lock is set but in RELEASED and OPEN (R78). -/
theorem Picker.lockSet_iff (p : Picker) :
    p.lockSet = true ↔ p.hatch = .locked ∨ p.hatch = .releasePending ∨ p.hatch = .auditing := by
  cases h : p.hatch <;> simp [Picker.lockSet, h]

/-- Settles O46, by the state of the hatch: what the button asks for, and what the hatch then does at once. -/
theorem hatchButtonAsksForARelease : Obligations.HatchButtonAsksForARelease := by
  unfold Obligations.HatchButtonAsksForARelease
  intro s hstage hnext
  rw [s.hatchButton (s.startup.acting_done hstage)]
  refine ⟨fun hlocked haudit => ?_, fun haudit => ?_, fun hreleased => ?_,
    fun p => ⟨p.lampOn_iff, p.lockSet_iff⟩⟩
  · have hask := (Run.of s).askRelease_locked .button hlocked haudit hstage
    refine ⟨fun hrest hops => ?_, fun hmoving => ?_⟩
    · rw [State.act_then s _ _ _ .hatch hask rfl (Run.hatchStep_alone _ rfl hrest hops) (by simp) (by simp),
        Run.notice_inService _ _ (s.startup.inService_done hstage hnext)]
      rfl
    · rw [State.act_then s _ _ _ .hatch hask rfl (Run.hatchStep_moving _ hmoving) rfl rfl]
      rfl
  · rw [State.act_to s _ _ ((Run.of s).askRelease_audit .button haudit) rfl rfl]
    rfl
  · rw [State.act_to s _ _ ((Run.of s).askRelease_released .button hreleased) rfl rfl]
    rfl

/-- Without a waiting order the arm is not granted (R71). -/
theorem Run.armStep_none (r : Run) (h : r.picker.orders = []) : r.armStep = r := by
  simp [Run.armStep, h, bestOrder]

/-- A waiting audit begins its re-homing when no move is in progress (R80). -/
theorem Run.auditStep_begins (r : Run) (a : Audit) (h : r.picker.audit = some a) (hw : a.phase = .waiting)
    (hm : r.picker.move = none) :
    r.auditStep = Run.auditMove { r with picker := { r.picker with audit := some { a with phase := .running } } }
      .reHome none .nothing := by
  simp [Run.auditStep, h, hw, hm]

/-- An audit waits while a move is in progress (R80, log entry 36). -/
theorem Run.auditStep_waits (r : Run) (hm : r.picker.move.isSome = true) : r.auditStep = r := by
  have hmove : r.picker.move ≠ none := Option.isSome_iff_ne_none.1 hm
  unfold Run.auditStep
  split
  · rfl
  · exact if_neg fun h => hmove h.2

/-- The opening of a hatch for which no request waits changes the picker only (R79). -/
theorem Run.hatchOpen_alone (r : Run) (ho : r.picker.hatchOps = []) :
    r.hatchOpen = { r with picker := { r.picker with
      hatch := .opened, windowStart := none, pendingRelease := none,
      audit := match r.picker.audit with
        | none => none
        | some a => if a.phase = .waiting then none else some { a with phase := .stopping } } } := by
  unfold Run.hatchOpen
  rw [Run.endHatchOps_none]
  · cases haudit : r.picker.audit with
    | none => rfl
    | some a =>
      obtain ⟨phase, created, missing⟩ := a
      cases phase <;> rfl
  · exact ho

/-- Settles O47: the window's expiry and the opening cause nothing more, and what the closing causes is the first step of
the audit it begins. -/
theorem hatchSensorsAndTheReleaseWindow : Obligations.HatchSensorsAndTheReleaseWindow := by
  unfold Obligations.HatchSensorsAndTheReleaseWindow
  intro s hacting
  refine ⟨fun t hwindow hreleased horders => ?_, fun hshut hops => ?_, fun hopen => ?_⟩
  · have hexec : exec .releaseWindowExpiry s = .next ((s.reach (t + windowLimit)).act Run.windowOver) := by
      show execReleaseWindowExpiry s = _
      rw [execReleaseWindowExpiry, outcome_wf _ _ rfl, hwindow]
      exact congrArg _ (if_pos hreleased)
    rw [hexec, State.act_then _ _ _ _ .arm rfl rfl (Run.armStep_none _ horders) rfl rfl]
    rfl
  · have hexec : exec .hatchOpened s = .next (s.act Run.hatchOpen) := by
      show execHatchOpened s = _
      rw [execHatchOpened, outcome_wf _ _ rfl]
      exact congrArg _ (if_pos ⟨hacting, hshut⟩)
    rw [hexec, State.act_to s _ _ ((Run.of s).hatchOpen_alone hops) rfl rfl]
    rfl
  · intro began
    have hexec : exec .hatchClosed s = .next (s.act Run.hatchClose) := by
      show execHatchClosed s = _
      rw [execHatchClosed, outcome_wf _ _ rfl]
      exact congrArg _ (if_pos ⟨hacting, hopen⟩)
    rw [hexec]
    refine ⟨fun hrest => ?_, fun hmoving => ?_⟩
    · rw [State.act_then s _ _ _ .audit rfl rfl (Run.auditStep_begins _ (began .waiting) rfl rfl hrest) rfl rfl]
      rfl
    · rw [State.act_then s _ _ _ .audit rfl rfl (Run.auditStep_waits _ hmoving) rfl rfl]
      rfl

end Sys2Proof.Machine

namespace Sys2Proof.Machine

open Sys2Proof.Config

/-! ### The ends of an order's move (R72, R73, R74) -/

/-- In a quiet part the mechanism's events are taken. -/
theorem State.Quiet.acting {s : State} (h : s.Quiet) : s.startup.acting = true := by
  obtain ⟨-, hstage, -⟩ := h
  exact s.startup.acting_done hstage

/-- In a quiet part the control area is in service. -/
theorem State.Quiet.inService {s : State} (h : s.Quiet) : s.startup.inService = true := by
  obtain ⟨-, hstage, -, hnext, -⟩ := h
  exact s.startup.inService_done hstage hnext

/-- In a calm part no picker order waits. -/
theorem Parts.Calm.orders {p : Parts} (h : p.Calm) : p.picker.orders = [] := by
  obtain ⟨-, -, -, -, -, -, -, horders, -⟩ := h
  exact horders

/-- The arm's report ends the move in progress (R72). -/
theorem State.moveEnd (s : State) (m : Move) (hacting : s.startup.acting = true) (hm : s.picker.move = some m)
    (hreport : m.endsByReport = true) : exec .moveEnd s = .next (s.act (fun r => r.moveEnds m)) := by
  show execMoveEnd s = _
  rw [execMoveEnd, outcome_wf _ _ rfl, s.moveInProgress_acting hacting, hm]
  exact congrArg _ (if_pos hreport)

/-- The probe that begins an IMPORT move reports (R73). -/
theorem State.importProbeResult (s : State) (m : Move) (o : Order) (p : Probe) (hwf : p.wf = true)
    (hacting : s.startup.acting = true) (hm : s.picker.move = some m) (hwhat : m.what = .order o)
    (hkind : o.kind = .importIn) (hprobed : m.probed = false) :
    exec (.importProbeResult p) s = .next (s.act (fun r => r.importProbed m o p)) := by
  show execImportProbeResult p s = _
  rw [execImportProbeResult, outcome_wf (.importProbeResult p) _ hwf, s.moveInProgress_acting hacting, hm]
  simp only [hwhat]
  exact congrArg _ (if_pos ⟨hkind, by rw [hprobed]; rfl⟩)

/-- The report of a move's end is the report for every order but an IMPORT whose platter has not been probed. -/
theorem Move.endsByReport_order (m : Move) (o : Order) (hwhat : m.what = .order o) (hkind : o.kind ≠ .importIn) :
    m.endsByReport = true := by
  simp [Move.endsByReport, hwhat, hkind]

/-- A move that serves no waiting requester ends in a quiet part: besides what it did to the volume table and the drives
the picker is IDLE, and nothing follows. -/
theorem State.Quiet.act_moveOver {s : State} (hq : s.Quiet) (f : Run → Run) (u : Run) (o : Order) (code : Option Code)
    (n c : Nat) (hf : f (Run.of s) = (u.push (.orderEnded o code n c)).moveOver) (store : Store) (drives : List Drive)
    (hu : u.toParts = { s.toParts with store := store, drives := drives }) (htodo : u.todo = [])
    (ho : o.requester = .nobody) (hcode : code = none ∨ o.kind = .mount ∨ o.kind = .importIn ∨ o.drive = none) :
    s.act f = { s with store := store, drives := drives, picker := { s.picker with state := .idle, move := none } } := by
  obtain ⟨hcalm, -, -, -, haudit, hhatch⟩ := hq
  have hparts : ((u.push (.orderEnded o code n c)).moveOver).toParts =
      { s.toParts with store := store, drives := drives, picker := { s.picker with state := .idle, move := none } } := by
    show { u.toParts with picker := { u.picker with state := .idle, move := none } } = _
    rw [hu]
  have hlisted : ((u.push (.orderEnded o code n c)).moveOver).todo = [.orderEnded o code n c, .hatch, .audit, .arm] := by
    show u.todo ++ _ ++ _ ++ _ ++ _ = _
    rw [htodo]
    rfl
  rw [State.act_dull s f _ hf (by rw [hparts]; exact hcalm)]
  · unfold State.withRun
    rw [hparts]
  · rw [hlisted, hparts]
    intro t ht
    simp only [List.mem_cons, List.not_mem_nil, or_false] at ht
    obtain rfl | rfl | rfl | rfl := ht
    · exact ⟨ho, hcode⟩
    · exact hhatch
    · exact haudit
    · trivial

/-- A MOUNT or FLIP ends with its volume in the drive, which begins its LOAD (R72). -/
theorem Run.moveEnds_intoDrive (r : Run) (m : Move) (o : Order) (n d : Nat) (side : Side) (hwhat : m.what = .order o)
    (hkind : o.kind = .mount ∨ o.kind = .flip) (hdest : m.dest = some (.drive d)) (hcarried : m.carried = .volume n)
    (hside : o.side = some side) :
    r.moveEnds m = ((r.intoDrive n d side).push (.orderEnded o none 0 0)).moveOver := by
  obtain hkind | hkind := hkind <;> simp [Run.moveEnds, hwhat, hkind, hdest, hcarried, hside]

/-- An UNMOUNT or EXPORT ends with its volume in the destination cell (R72). -/
theorem Run.moveEnds_intoCell (r : Run) (m : Move) (o : Order) (n c : Nat) (hwhat : m.what = .order o)
    (hkind : o.kind = .unmount ∨ o.kind = .exportOut) (hdest : m.dest = some (.cell c))
    (hcarried : m.carried = .volume n) :
    r.moveEnds m = ((r.shelveVolume n c).push (.orderEnded o none n c)).moveOver := by
  obtain hkind | hkind := hkind <;> simp [Run.moveEnds, hwhat, hkind, hdest, hcarried]

/-- A drive into which a volume has been put has the volume and the side, and its LOAD in progress (R72, R94). -/
theorem Run.intoDrive_eq (r : Run) (n d : Nat) (side : Side) :
    r.intoDrive n d side =
      { r.placeVolume n (.drive d) with
        drives := r.drives.modify d (fun v =>
          Drive.beginsLoad { v with volume := some (.serial n), side := side } .mount r.now) } := by
  unfold Run.intoDrive
  rw [Run.beginLoad_eq]
  simp only [Run.modDrive, List.modify_modify_eq]
  rfl

/-- Settles O42: the move's own change is that of the volume's place, and in a quiet part nothing follows it. -/
theorem moveEndPutsTheVolumeInItsPlace : Obligations.MoveEndPutsTheVolumeInItsPlace := by
  unfold Obligations.MoveEndPutsTheVolumeInItsPlace
  intro s m o n hq hm hwhat ho hcarried
  refine ⟨fun d side hkind hdest hside => ?_, fun c hkind hdest => ?_⟩
  · have hreport := m.endsByReport_order o hwhat (by obtain h | h := hkind <;> simp [h])
    rw [s.moveEnd m hq.acting hm hreport,
      hq.act_moveOver _ _ o none 0 0 ((Run.of s).moveEnds_intoDrive m o n d side hwhat hkind hdest hcarried hside) _ _
        (by rw [Run.intoDrive_eq]; rfl) (by rw [Run.intoDrive_eq]; rfl) ho (.inl rfl)]
    rfl
  · have hreport := m.endsByReport_order o hwhat (by obtain h | h := hkind <;> simp [h])
    rw [s.moveEnd m hq.acting hm hreport,
      hq.act_moveOver _ _ o none n c ((Run.of s).moveEnds_intoCell m o n c hwhat hkind hdest hcarried) _ s.drives
        rfl rfl ho (.inl rfl)]
    rfl

/-- A strip whose serial is recorded nowhere, as MISSING or as the volume being moved lets the platter be carried
(R73). -/
theorem Run.importProbed_carries (r : Run) (m : Move) (o : Order) (serial : Nat) (blank : Bool)
    (h : r.locOf serial = none ∨ r.locOf serial = some .missing ∨ o.volume = some serial) :
    r.importProbed m o (.strip serial blank) =
      { r with picker := { r.picker with move := some { m with probed := true, strip := some (serial, blank) } } } := by
  obtain h | h | h := h
  · simp [Run.importProbed, h]
  · simp [Run.importProbed, h]
  · cases hloc : r.locOf serial with
    | none => simp [Run.importProbed, hloc]
    | some l => cases l <;> simp [Run.importProbed, hloc, h]

/-- An unreadable strip ends an IMPORT move, with a recorded volume back in its cell (R73). -/
theorem Run.importProbed_unreadable (r : Run) (m : Move) (o : Order) (n c : Nat) (hv : o.volume = some n)
    (hc : o.cell = some c) :
    r.importProbed m o .unreadable =
      ((r.modVolume n (fun v => { v with loc := .cell c })).push (.orderEnded o (some .badRequest) 0 0)).moveOver := by
  simp [Run.importProbed, hv, hc]

/-- Settles O43: a strip that lets the platter be carried changes the move only, and an unreadable one ends it. -/
theorem importPlatterIsProbedBeforeItIsCarried : Obligations.ImportPlatterIsProbedBeforeItIsCarried := by
  unfold Obligations.ImportPlatterIsProbedBeforeItIsCarried
  intro s m o hacting hm hwhat hkind hprobed
  refine ⟨fun serial blank hpos hlt hloc => ?_, fun n c hq ho hv hc => ?_⟩
  · have hwf : (Probe.strip serial blank).wf = true := by simp [Probe.wf, serialWf, hpos, hlt]
    rw [s.importProbeResult m o _ hwf hacting hm hwhat hkind hprobed,
      State.act_to s _ _ ((Run.of s).importProbed_carries m o serial blank hloc) rfl rfl]
    rfl
  · rw [s.importProbeResult m o _ rfl hacting hm hwhat hkind hprobed,
      hq.act_moveOver _ _ o _ 0 0 ((Run.of s).importProbed_unreadable m o n c hv hc) _ s.drives rfl rfl ho
        (.inr (.inr (.inl hkind)))]
    rfl

/-- Without a waiting order none ends. -/
theorem Run.endOrders_none (r : Run) (p : Order → Bool) (code : Code) (h : r.picker.orders = []) :
    r.endOrders p code = r := by
  have hpicker : ({ r.picker with orders := [] } : Picker) = r.picker := by rw [← h]
  simp only [Run.endOrders, h, List.filter_nil, List.foldl_nil, hpicker]

/-- A fault in an order's move, with no audit and no waiting order: the picker is in FAULT, what the hand holds stays noted,
and the order ends with PICKER_FAULT after its notice (R74). -/
theorem Run.pickerFault_order (r : Run) (m : Move) (o : Order) (hwhat : m.what = .order o) (ha : r.picker.audit = none)
    (horders : r.picker.orders = []) :
    r.pickerFault m =
      ((Run.notice { r with picker := { r.picker with
          state := .fault, move := none, handUnrecorded := r.picker.handUnrecorded || m.carried == .unrecorded } }
        (.pickerFault o.kind ((r.volumeIn .hand).map (fun v => v.serial)))).push
          (.orderEnded o (some .pickerFault) 0 0)).push .hatch := by
  simp only [Run.pickerFault, Run.faultNotice, Picker.faultsAfter, hwhat, Run.push_picker, Run.notice_picker, ha]
  rw [Run.endOrders_none]
  rw [Run.push_picker, Run.notice_picker]
  exact horders

/-- The end of the move timer faults the picker with the clock at its deadline (R74, log entry 6). -/
theorem State.moveTimeout (s : State) (m : Move) (hacting : s.startup.acting = true) (hm : s.picker.move = some m) :
    exec .moveTimeout s = .next ((s.reach (m.startedAt + moveLimit)).act (fun r => r.pickerFault m)) := by
  show execMoveTimeout s = _
  rw [execMoveTimeout, outcome_wf _ _ rfl, s.moveInProgress_acting hacting, hm]

/-- Settles O44: the fault's notice is taken in service, and in a quiet part nothing follows the end of the order. -/
theorem moveTimeoutPutsThePickerInFault : Obligations.MoveTimeoutPutsThePickerInFault := by
  unfold Obligations.MoveTimeoutPutsThePickerInFault
  intro s m o hq hm hwhat ho hkind
  obtain ⟨hcalm, -, -, -, haudit, hhatch⟩ := id hq
  have hfault := (Run.of (s.reach (m.startedAt + moveLimit))).pickerFault_order m o hwhat haudit hcalm.orders
  rw [Run.notice_inService _ _ hq.inService] at hfault
  rw [s.moveTimeout m hq.acting hm, State.act_dull _ _ _ hfault hcalm]
  · rfl
  · intro t ht
    obtain rfl | rfl : t = .orderEnded o (some .pickerFault) 0 0 ∨ t = .hatch := by simpa [Run.push] using ht
    · exact ⟨ho, .inr hkind⟩
    · exact hhatch

end Sys2Proof.Machine

namespace Sys2Proof.Machine

open Sys2Proof.Config

/-! ### The hand-off cells (R64, R75) -/

/-- A report of PLACED is taken with the gate open, in a cell that is not occupied (R75). -/
theorem State.handoffPlaced (s : State) (c : Nat) (hc : c < 2) (hacting : s.startup.acting = true) :
    exec (.handoffPlaced c) s =
      .next (if s.picker.gateOpen (88 + c) = true ∧ (Run.of s).cellOccupied (88 + c) = false then
        s.act (fun r => r.setMark (88 + c) true) else s) := by
  have ha : s.acting = true := hacting
  show execHandoffPlaced c s = _
  rw [execHandoffPlaced, outcome_wf (.handoffPlaced c) _ (decide_eq_true hc)]
  simp only [ha, true_and, Bool.not_eq_true']

/-- A report of TAKEN is taken with the gate open (R75). -/
theorem State.handoffTaken (s : State) (c : Nat) (hc : c < 2) (hacting : s.startup.acting = true) :
    exec (.handoffTaken c) s =
      .next (if s.picker.gateOpen (88 + c) = true then s.act (fun r => r.handTaken (88 + c)) else s) := by
  have ha : s.acting = true := hacting
  show execHandoffTaken c s = _
  rw [execHandoffTaken, outcome_wf (.handoffTaken c) _ (decide_eq_true hc)]
  simp only [ha, true_and]

/-- A taken platter that no record names leaves a clear mark (R75). -/
theorem Run.handTaken_unrecorded (r : Run) (c : Nat) (hv : r.volumeIn (.cell c) = none) (ho : r.picker.orders = []) :
    r.handTaken c = r.setMark c false := by
  simp only [Run.handTaken, hv]
  exact Run.endOrders_none _ _ _ ho

/-- The volume table without the records of a serial (R64). -/
def Store.without (x : Store) (serial : Nat) : Store :=
  { x with volumes := x.volumes.map (fun o => match o with
      | some v => if v.serial = serial then none else some v
      | none => none) }

/-- A BLANK volume that is not MISSING, as the BLANK count counts it (R137). -/
def Volume.blankHere (v : Volume) : Bool := v.role == .blank && v.loc != .missing

/-- The BLANK count is the number of records that count (R137). -/
theorem Store.blankCount_eq (x : Store) : x.blankCount = x.volumes.countP (fun o => o.any Volume.blankHere) := by
  rw [List.countP_eq_length_filter]
  unfold Store.blankCount
  congr 2
  funext o
  cases o <;> rfl

/-- The removal of records none of which is BLANK leaves the BLANK count (R137). -/
theorem Store.blankCount_without (x : Store) (serial : Nat)
    (h : ∀ v, some v ∈ x.volumes → v.serial = serial → v.role ≠ .blank) :
    (x.without serial).blankCount = x.blankCount := by
  rw [Store.blankCount_eq, Store.blankCount_eq, Store.without, List.countP_map]
  refine List.countP_congr fun o ho => ?_
  cases o with
  | none => rfl
  | some v =>
    by_cases hs : v.serial = serial
    · simp [hs, Volume.blankHere, h v ho hs]
    · simp [hs]

/-- No record has a removed serial. -/
theorem Store.volume_without (x : Store) (serial : Nat) : (x.without serial).volume serial = none := by
  refine congrArg Option.join (List.find?_eq_none.2 fun o ho => ?_)
  obtain ⟨o', -, rfl⟩ := List.mem_map.1 ho
  cases o' with
  | none => exact Bool.false_ne_true
  | some v => by_cases hs : v.serial = serial <;> simp [hs]

/-- Records of which none is BLANK are removed without a notice, and the blocks are told (R64). -/
theorem Run.removeVolume_unblank (r : Run) (serial : Nat)
    (h : ∀ v, some v ∈ r.store.volumes → v.serial = serial → v.role ≠ .blank) :
    r.removeVolume serial = Run.push { r with store := r.store.without serial } (.volumeGone serial) := by
  have hcount := r.store.blankCount_without serial h
  have hwatch : Run.blankWatch r.store.blankCount { r with store := r.store.without serial } =
      { r with store := r.store.without serial } := if_neg fun hlow => by
    have hlt : (r.store.without serial).blankCount < r.store.blankCount := hlow.1
    omega
  exact congrArg (Run.push · (.volumeGone serial)) hwatch

/-- The blocks once the platter in a hand-off cell has been taken with the record of its volume (R75). -/
def Run.handEmptied (r : Run) (c serial : Nat) : Run := { r.setMark c false with store := r.store.without serial }

/-- A taken volume that the filing pair does not need is removed from the table (R64, R75). -/
theorem Run.handTaken_recorded (r : Run) (c : Nat) (v : Volume) (hv : r.volumeIn (.cell c) = some v)
    (ho : r.picker.orders = []) (hpair : r.store.pair.claims v.serial = false)
    (hblank : ∀ x, some x ∈ r.store.volumes → x.serial = v.serial → x.role ≠ .blank) :
    r.handTaken c = (r.handEmptied c v.serial).push (.volumeGone v.serial) := by
  have hpair' : (r.setMark c false).store.pair.claims v.serial = false := hpair
  simp only [Run.handTaken, hv, Option.map_some, hpair', Bool.false_eq_true, if_false]
  rw [(r.setMark c false).removeVolume_unblank v.serial hblank]
  exact Run.endOrders_none _ _ _ ho

/-- With no job waiting for frames none loses its volume. -/
theorem Run.waitLosesVolume_none (r : Run) (serial : Nat) (h : r.frame.waitQueue = []) :
    r.waitLosesVolume serial = r := by
  simp [Run.waitLosesVolume, h]

/-- Where no work waits and the filing pair does not name it, a volume that has left the table is missed by no block (R112,
R154). -/
theorem Run.volumeGone_calm (r : Run) (serial : Nat) (hc : r.toParts.Calm) (hpair : r.store.pair.names serial = false)
    (hloc : r.locOf serial ≠ some .missing) : r.volumeGone serial = r.wantPass := by
  obtain ⟨hjobs, -, -, -, hwait, -⟩ := hc
  have hlosesPair : r.pairLosesVolume serial = r := by simp [Run.pairLosesVolume, hpair]
  have hneeds : r.pairNeedsLose serial = r := by simp [Run.pairNeedsLose, hjobs]
  have hexchanges : r.exchangesLose serial = r := if_neg fun h => hloc h.1
  simp only [Run.volumeGone, hlosesPair, hneeds, hexchanges, r.waitLosesVolume_none serial hwait, hjobs, List.foldl_nil]

/-- Settles O45: each report by whether the gate is open; a volume removed from a quiet part is missed by no block. -/
theorem handOffSensorsSetAndClearTheMark : Obligations.HandOffSensorsSetAndClearTheMark := by
  unfold Obligations.HandOffSensorsSetAndClearTheMark
  intro s c hc hacting
  rw [s.handoffPlaced c hc hacting, s.handoffTaken c hc hacting]
  refine ⟨fun hgate => ⟨fun hfree => ?_, fun hv ho => ?_, fun v hv hq hclaims hnames hblank => ?_⟩,
    fun hgate => ⟨?_, ?_⟩⟩
  · rw [if_pos ⟨hgate, hfree⟩, State.act_quiet _ _ rfl rfl]
    rfl
  · rw [if_pos hgate, State.act_to s _ _ ((Run.of s).handTaken_unrecorded _ hv ho) rfl rfl]
    rfl
  · obtain ⟨hcalm, -⟩ := hq
    have htaken := (Run.of s).handTaken_recorded _ v hv hcalm.orders hclaims hblank
    have hloc : ((Run.of s).handEmptied (88 + c) v.serial).locOf v.serial = none :=
      congrArg (Option.map _) (s.store.volume_without v.serial)
    have hrest : ({ ((Run.of s).handEmptied (88 + c) v.serial).push (.volumeGone v.serial) with todo := [] } : Run) =
        (Run.of s).handEmptied (88 + c) v.serial := rfl
    have htold := ((Run.of s).handEmptied (88 + c) v.serial).volumeGone_calm v.serial hcalm hnames (by simp [hloc])
    rw [if_pos hgate, State.act_then_dull s _ _ _ (.volumeGone v.serial) [] htaken rfl
      ((congrArg (Run.consequence · _) hrest).trans htold) hcalm (fun _ hx => absurd hx List.not_mem_nil)]
    rfl
  · rw [if_neg fun h => Bool.false_ne_true (hgate.symm.trans h.1)]
  · rw [if_neg fun h => Bool.false_ne_true (hgate.symm.trans h)]

end Sys2Proof.Machine

namespace Sys2Proof.Machine

open Sys2Proof.Config

/-! ### A running audit (R80, R81, R82) -/

/-- The re-homing that begins an audit reports (R80). -/
theorem State.reHomeEnd (s : State) (m : Move) (holds : Bool) (hacting : s.startup.acting = true)
    (hm : s.picker.move = some m) (hwhat : m.what = .reHome) :
    exec (.reHomeEnd holds) s = .next (s.act (fun r => r.afterReHome m holds)) := by
  show execReHomeEnd holds s = _
  rw [execReHomeEnd, outcome_wf (.reHomeEnd holds) _ rfl, s.moveInProgress_acting hacting, hm]
  exact congrArg _ (if_pos hwhat)

/-- An audit's probe reports, and the audit goes on (R81). -/
theorem State.probeResult (s : State) (m : Move) (c : Nat) (p : Probe) (hwf : p.wf = true)
    (hacting : s.startup.acting = true) (hm : s.picker.move = some m) (hwhat : m.what = .probe c) :
    exec (.probeResult p) s = .next (s.act (fun r => (r.probed c p).auditNext (Run.auditProbe (c + 1)))) := by
  show execProbeResult p s = _
  rw [execProbeResult, outcome_wf (.probeResult p) _ hwf, s.moveInProgress_acting hacting, hm]
  simp only [hwhat]

/-- A running audit goes on to its next move (R80). -/
theorem Run.auditNext_running (r : Run) (next : Run → Run) (a : Audit) (h : r.picker.audit = some a)
    (hrun : a.phase = .running) : r.auditNext next = next r := by
  simp [Run.auditNext, h, hrun]

/-- The audit goes on to the probe of a cell there is (R80). -/
theorem Run.auditProbe_cell (r : Run) (c : Nat) (h : c < 90) : r.auditProbe c = r.auditMove (.probe c) none .nothing :=
  if_pos h

/-- After H1 the audit ends, with the arm at rest (R82). -/
theorem Run.auditProbe_last (r : Run) (a : Audit) (h : r.picker.audit = some a) :
    r.auditProbe 90 = Run.auditEnd { r with picker := { r.picker with state := .idle, move := none } } a := by
  simp [Run.auditProbe, h]

/-- The blocks once the arm knows that the hand holds no platter that no record names (R74, R80). -/
def Run.handKnown (r : Run) : Run := { r with picker := { r.picker with handUnrecorded := false } }

/-- A re-homing that finds an empty hand, with no volume recorded in it, goes on to cell 0 (R80). -/
theorem Run.afterReHome_empty (r : Run) (m : Move) (a : Audit) (h : r.picker.audit = some a) (hrun : a.phase = .running)
    (hv : r.volumeIn .hand = none) :
    r.afterReHome m false = r.handKnown.auditMove (.probe 0) none .nothing := by
  have hstart : r.afterReHome m false = r.handKnown.auditNext (Run.auditProbe 0) := by
    simp [Run.afterReHome, hv, Run.handKnown]
  rw [hstart, r.handKnown.auditNext_running _ a h hrun, Run.auditProbe_cell _ 0 (by decide)]

/-- A re-homing that finds a recorded volume in the hand puts it into a cell (R80). -/
theorem Run.afterReHome_volume (r : Run) (m : Move) (a : Audit) (v : Volume) (c : Nat) (h : r.picker.audit = some a)
    (hrun : a.phase = .running) (hv : r.volumeIn .hand = some v) (hc : r.putAwayCell (some v.serial) = some c) :
    r.afterReHome m true = r.handKnown.auditMove .putAway (some (.cell c)) (.volume v.serial) := by
  have hc' : r.handKnown.putAwayCell (some v.serial) = some c := hc
  have hstart : r.afterReHome m true = r.handKnown.auditNext (fun r =>
      match r.putAwayCell (some v.serial) with
      | none => r.pickerFault m
      | some c => r.auditMove .putAway (some (.cell c)) (.volume v.serial)) := by
    simp only [Run.afterReHome, hv, if_true, Option.map_some, Option.isNone_some]
    rfl
  rw [hstart, r.handKnown.auditNext_running _ a h hrun, hc']

/-- The EXPORT jobs that wait for a volume in the hand are listed to act again (R77). -/
theorem Run.wakeExports_eq (r : Run) (n : Nat) :
    r.wakeExports n = { r with
      todo := r.todo ++ (r.sched.jobs.filter (fun j => j.kind == .exportOut n && j.state == .running)).map
        (fun j => .exportAct j.id) } := by
  have hjobs := r.foldl_push
    ((r.sched.jobs.filter (fun j => j.kind == .exportOut n && j.state == .running)).map (fun j => j.id)) .exportAct
  rw [List.foldl_map, List.map_map] at hjobs
  exact hjobs

/-- A volume put away by the audit is in its cell, the EXPORT jobs that wait for it act again, and the audit goes on to
cell 0 (R77, R80). -/
theorem Run.moveEnds_putAway (r : Run) (m : Move) (a : Audit) (n c : Nat) (h : r.picker.audit = some a)
    (hrun : a.phase = .running) (hwhat : m.what = .putAway) (hdest : m.dest = some (.cell c))
    (hcarried : m.carried = .volume n) :
    r.moveEnds m = ((r.handKnown.shelveVolume n c).wakeExports n).auditMove (.probe 0) none .nothing := by
  simp only [Run.moveEnds, hwhat, hdest, hcarried]
  show ((r.handKnown.shelveVolume n c).wakeExports n).auditNext (Run.auditProbe 0) = _
  have hsame : ((r.handKnown.shelveVolume n c).wakeExports n).picker = r.handKnown.picker := by rw [Run.wakeExports_eq]; rfl
  rw [Run.auditNext_running _ _ a (by rw [hsame]; exact h) hrun, Run.auditProbe_cell _ 0 (by decide)]

/-- The probe of a cell where no volume is recorded, and that holds nothing or an unreadable strip, sets or clears its mark
only (R81). -/
theorem Run.probed_mark (r : Run) (c : Nat) (p : Probe) (mark : Bool) (hv : r.volumeIn (.cell c) = none)
    (hp : (p = .nothing ∧ mark = false) ∨ (p = .unreadable ∧ mark = true)) : r.probed c p = r.setMark c mark := by
  obtain ⟨rfl, rfl⟩ | ⟨rfl, rfl⟩ := hp <;> simp [Run.probed, hv]

/-- The probe that finds the volume recorded in its cell clears the mark (R81). -/
theorem Run.probed_found (r : Run) (c : Nat) (v : Volume) (blank : Bool) (hv : r.volumeIn (.cell c) = some v) :
    r.probed c (.strip v.serial blank) = r.setMark c false := by
  simp [Run.probed, hv]

/-- A probe that changes only the mark of its cell takes a running audit on to the next cell (R80, R81). -/
theorem State.probe_next (s : State) (m : Move) (a : Audit) (c : Nat) (p : Probe) (mark : Bool) (hwf : p.wf = true)
    (hacting : s.startup.acting = true) (hm : s.picker.move = some m) (ha : s.picker.audit = some a)
    (hrun : a.phase = .running) (hwhat : m.what = .probe c) (hc : c < 89)
    (hprobed : (Run.of s).probed c p = (Run.of s).setMark c mark) :
    exec (.probeResult p) s =
      .next { s with picker := { s.picker with
        marks := s.picker.marks.set c mark, state := .moving,
        move := some { what := .probe (c + 1), startedAt := s.now, src := none, dest := none, carried := .nothing,
                       probed := false, strip := none } } } := by
  have hnext : ((Run.of s).probed c p).auditNext (Run.auditProbe (c + 1)) =
      ((Run.of s).setMark c mark).auditMove (.probe (c + 1)) none .nothing := by
    rw [hprobed, ((Run.of s).setMark c mark).auditNext_running _ a ha hrun, Run.auditProbe_cell _ _ (by omega)]
  rw [s.probeResult m c p hwf hacting hm hwhat, State.act_to s _ _ hnext rfl rfl]
  rfl

/-- The picker after the probe of H1 that found nothing, with the audit over: the hatch is LOCKED and the arm at rest
(R82). -/
def Picker.audited (p : Picker) : Picker :=
  { p with
    marks := p.marks.set 89 false, state := .idle, move := none, audit := none, hatch := .locked,
    windowStart := none }

/-- The start-up record after an audit: the power-up audit is over once one ends in step 5 or 6 (R192, log entry 76). -/
def StartUp.audited (u : StartUp) : StartUp :=
  { u with auditDone := u.auditDone || u.stage == .drives || u.stage == .audit }

/-- The AUDIT_DONE notice of an audit that ends: the records it created, and the volumes MISSING that were not so at its
start (R82). -/
def Store.auditReport (x : Store) (a : Audit) : Notice :=
  .auditDone a.created (x.missing.filter (fun n => !a.missingBefore.contains n)).length

/-- The blocks once an audit is over: the hatch is LOCKED, its window stopped, and AUDIT_DONE taken (R82). -/
def Run.auditOver (r : Run) (a : Audit) : Run :=
  Run.notice { r with picker := { r.picker with audit := none, hatch := .locked, windowStart := none } }
    (r.store.auditReport a)

/-- An audit ends with no order waiting, no volume UNVERIFIED and no release pending: the start-up sequence and the arm go
on (R82). -/
theorem Run.auditEnd_alone (r : Run) (a : Audit) (ho : r.picker.orders = [])
    (hroles : ∀ v, some v ∈ r.store.volumes → v.role ≠ .unverified) (hp : r.picker.pendingRelease = none) :
    r.auditEnd a = (Run.push { r.auditOver a with startup := r.startup.audited } .startup).push .arm := by
  have hpicker : (r.auditOver a).picker = { r.picker with audit := none, hatch := .locked, windowStart := none } :=
    Run.notice_picker ..
  have hstartup : (r.auditOver a).startup = r.startup := Run.notice_startup ..
  have hstore : (r.auditOver a).store = r.store := Run.notice_store ..
  have hkept : ((r.auditOver a).endOrders (r.auditOver a).orderLost .volumeMissing).createLabelChecks = r.auditOver a := by
    rw [Run.endOrders_none _ _ _ (by rw [hpicker]; exact ho), Run.createLabelChecks_none _ (by rw [hstore]; exact hroles)]
  have hpending : (r.auditOver a).picker.pendingRelease = none := by rw [hpicker]; exact hp
  unfold Run.auditEnd
  simp only [Run.auditOver, Store.auditReport] at hkept hpending hstartup ⊢
  rw [hkept]
  simp only [hpending, hstartup]
  rfl

/-- The blocks after the last probe of an audit in service found nothing in H1 (R82). -/
def Run.audited (r : Run) (a : Audit) : Run :=
  { r with picker := r.picker.audited, startup := r.startup.audited, slot := r.slot.takeNotice (r.store.auditReport a) }

/-- The blocks once the mark of H1 is clear and the arm at rest, with the audit still to end. -/
def Run.lastProbed (r : Run) : Run :=
  { r with picker := { r.picker with marks := r.picker.marks.set 89 false, state := .idle, move := none } }

/-- The last probe of an audit in service, of an H1 where nothing is recorded and nothing found: the audit ends (R81,
R82). -/
theorem Run.lastProbe (r : Run) (a : Audit) (ha : r.picker.audit = some a) (hrun : a.phase = .running)
    (hv : r.volumeIn (.cell 89) = none) (hservice : r.startup.inService = true) (ho : r.picker.orders = [])
    (hroles : ∀ v, some v ∈ r.store.volumes → v.role ≠ .unverified) (hp : r.picker.pendingRelease = none) :
    (r.probed 89 .nothing).auditNext (Run.auditProbe 90) = ((r.audited a).push .startup).push .arm := by
  have hlast : (r.setMark 89 false).auditProbe 90 = r.lastProbed.auditEnd a := (r.setMark 89 false).auditProbe_last a ha
  have htold : r.lastProbed.auditOver a = { r.lastProbed with
      picker := r.picker.audited, slot := r.slot.takeNotice (r.store.auditReport a) } := Run.notice_inService _ _ hservice
  rw [r.probed_mark 89 .nothing false hv (.inl ⟨rfl, rfl⟩), (r.setMark 89 false).auditNext_running _ a ha hrun, hlast,
    r.lastProbed.auditEnd_alone a ho hroles hp, htold]
  rfl

/-- The end of an audit of a calm part past its start-up sequence causes nothing more. -/
theorem State.act_audited (s : State) (f : Run → Run) (a : Audit)
    (hf : f (Run.of s) = (((Run.of s).audited a).push .startup).push .arm) (hcalm : s.toParts.Calm)
    (hstage : s.startup.stage = .done) (hstarted : s.startup.started = true) :
    s.act f = { s.noticing (s.store.auditReport a) with picker := s.picker.audited } := by
  have hstartup : s.startup.audited = s.startup := by
    have hdrives : (s.startup.stage == .drives) = false := by rw [hstage]; rfl
    have haudit : (s.startup.stage == .audit) = false := by rw [hstage]; rfl
    rw [StartUp.audited, hdrives, haudit, Bool.or_false, Bool.or_false]
  rw [State.act_dull s f _ hf hcalm]
  · show { s.noticing (s.store.auditReport a) with picker := s.picker.audited, startup := s.startup.audited } = _
    rw [hstartup]
    rfl
  · intro t ht
    obtain rfl | rfl : t = .startup ∨ t = .arm := by simpa [Run.push, Run.audited] using ht
    · exact .inl ⟨hstage, hstarted⟩
    · trivial

/-- The blocks past step 6 of the start-up sequence (R192). -/
def Run.pastAudit (r : Run) : Run := { r with startup := { r.startup with stage := .done } }

/-- The blocks once a power-up's STARTED has been taken at position 0 (R61, R192). -/
def Run.withStarted (r : Run) : Run :=
  { r with
    startup := { r.startup with started := true },
    slot := { r.slot with
      work := r.slot.work ++ [.notice 0 (.started .powerUp r.startup.batteryGood r.startup.settingsGood)] } }

/-- Step 6 of the start-up sequence ends with its audit (R192). -/
theorem Run.startupStep_audited (r : Run) (hstage : r.startup.stage = .audit) (hdone : r.startup.auditDone = true) :
    r.startupStep = (r.pastAudit.push .startup).push .arm := by
  simp [Run.startupStep, hstage, hdone, Run.pastAudit]

/-- STARTED is taken at position 0 once nothing of a power-up is left to wait for (R61, R192). -/
theorem Run.startupStep_starts (r : Run) (hstage : r.startup.stage = .done) (hnext : r.startup.initNext = none)
    (hstarted : r.startup.started = false) (hcause : r.startup.cause = .powerUp) :
    r.startupStep = r.withStarted.wantPass := by
  simp [Run.startupStep, hstage, hnext, hstarted, hcause, Run.takeStarted, Run.withStarted]

/-- The working copy with these consequences still to be taken. -/
def Run.listing (r : Run) (ts : List Todo) : Run := { r with todo := ts }

/-- The first of the consequences listed is taken, and the others are settled. -/
theorem Run.settle_listing (n : Nat) (r r' : Run) (t : Todo) (ts : List Todo) (h : (r.listing ts).consequence t = r') :
    Run.settle (n + 1) (r.listing (t :: ts)) = Run.settle n r' := by
  rw [Run.settle_cons n _ t ts rfl]
  exact congrArg (Run.settle n) h

/-- What follows the end of the power-up audit in a calm part: step 6 is over, the grant of the arm finds no order, and
STARTED is taken (R61, R192). -/
theorem Run.settle_audited (u : Run) (htodo : u.todo = []) (hcalm : u.toParts.Calm) (hstage : u.startup.stage = .audit)
    (hdone : u.startup.auditDone = true) (hnext : u.startup.initNext = none) (hstarted : u.startup.started = false)
    (hcause : u.startup.cause = .powerUp) :
    (Run.settle fuel ((u.push .startup).push .arm)).toParts = u.pastAudit.withStarted.toParts := by
  have hlisted : (u.push .startup).push .arm = u.listing [.startup, .arm] := by
    simp only [Run.push, Run.listing, htodo, List.nil_append, List.cons_append]
  have hstep : (u.listing [.arm]).consequence .startup = u.pastAudit.listing [.arm, .startup, .arm] :=
    (u.listing [.arm]).startupStep_audited hstage hdone
  have hgrant : (u.pastAudit.listing [.startup, .arm]).consequence .arm = u.pastAudit.listing [.startup, .arm] :=
    Run.armStep_none _ hcalm.orders
  have hstart : (u.pastAudit.listing [.arm]).consequence .startup = u.pastAudit.withStarted.wantPass.listing [.arm] :=
    (u.pastAudit.listing [.arm]).startupStep_starts rfl hnext hstarted hcause
  have hfuel : fuel = 999997 + 1 + 1 + 1 := rfl
  rw [hlisted, hfuel, Run.settle_listing _ _ _ _ _ hstep, Run.settle_listing _ _ _ _ _ hgrant,
    Run.settle_listing _ _ _ _ _ hstart, Run.settle_dull _ (u.pastAudit.withStarted.wantPass.listing [.arm]) hcalm]
  · rfl
  · intro t ht
    obtain rfl : t = .arm := List.mem_singleton.1 ht
    trivial

/-- The end of the power-up audit of a calm part ends the start-up sequence (R61, R192). -/
theorem State.act_audited_started (s : State) (f : Run → Run) (a : Audit)
    (hf : f (Run.of s) = (((Run.of s).audited a).push .startup).push .arm) (hcalm : s.toParts.Calm)
    (hstage : s.startup.stage = .audit) (hnext : s.startup.initNext = none) (hstarted : s.startup.started = false)
    (hcause : s.startup.cause = .powerUp) :
    s.act f = { s.noticing (s.store.auditReport a) with
      picker := s.picker.audited,
      startup := { s.startup with auditDone := true, stage := .done, started := true },
      slot := { (s.noticing (s.store.auditReport a)).slot with
        work := (s.noticing (s.store.auditReport a)).slot.work ++
          [.notice 0 (.started .powerUp s.startup.batteryGood s.startup.settingsGood)] } } := by
  have hdone : s.startup.audited = { s.startup with auditDone := true } := by
    have haudit : (s.startup.stage == .audit) = true := by rw [hstage]; rfl
    rw [StartUp.audited, haudit, Bool.or_true]
  unfold State.act State.withRun
  rw [hf, Run.settle_audited ((Run.of s).audited a) rfl hcalm hstage (congrArg (·.auditDone) hdone) hnext hstarted hcause]
  show { s.noticing (s.store.auditReport a) with
    picker := s.picker.audited, startup := { s.startup.audited with stage := .done, started := true },
    slot := { (s.noticing (s.store.auditReport a)).slot with
      work := (s.noticing (s.store.auditReport a)).slot.work ++
        [WorkJob.notice 0 (.started .powerUp s.startup.batteryGood s.startup.settingsGood)] } } = _
  rw [hdone]

/-- Settles O48: the re-homing, the put-away and each probe by what the arm finds; the end of the audit by whether it is
that of the power-up. -/
theorem auditGoesFromCellToCell : Obligations.AuditGoesFromCellToCell := by
  unfold Obligations.AuditGoesFromCellToCell
  intro s m a hacting hm ha hrun told ended onTo
  refine ⟨fun hwhat hv => ?_, fun v c hwhat hv hc => ?_, fun n c hwhat hdest hcarried => ?_,
    fun c hwhat hc hv p mark hp => ?_, fun c v blank hwhat hc hv hpos hlt => ?_,
    fun hwhat hv hcalm hnext hp hroles => ?_⟩
  · rw [s.reHomeEnd m false hacting hm hwhat, State.act_to s _ _ ((Run.of s).afterReHome_empty m a ha hrun hv) rfl rfl]
    rfl
  · rw [s.reHomeEnd m true hacting hm hwhat,
      State.act_to s _ _ ((Run.of s).afterReHome_volume m a v c ha hrun hv hc) rfl rfl]
    rfl
  · have hreport : m.endsByReport = true := by simp [Move.endsByReport, hwhat]
    have hput := (Run.of s).moveEnds_putAway m a n c ha hrun hwhat hdest hcarried
    rw [Run.wakeExports_eq] at hput
    rw [s.moveEnd m hacting hm hreport, State.act_following s _ _ hput rfl rfl rfl]
    rfl
  · have hwf : p.wf = true := by obtain ⟨rfl, -⟩ | ⟨rfl, -⟩ := hp <;> rfl
    rw [s.probe_next m a c p mark hwf hacting hm ha hrun hwhat hc ((Run.of s).probed_mark c p mark hv hp)]
  · have hwf : (Probe.strip v.serial blank).wf = true := by simp [Probe.wf, serialWf, hpos, hlt]
    rw [s.probe_next m a c _ false hwf hacting hm ha hrun hwhat hc ((Run.of s).probed_found c v blank hv)]
  · have ho := hcalm.orders
    rw [s.probeResult m 89 .nothing rfl hacting hm hwhat]
    refine ⟨fun hstage hstarted => ?_, fun hstage hstarted hcause => ?_⟩
    · have hservice := s.startup.inService_done hstage hnext
      rw [s.act_audited _ a ((Run.of s).lastProbe a ha hrun hv hservice ho hroles hp) hcalm hstage hstarted]
      rfl
    · have hservice : s.startup.inService = true := by simp [StartUp.inService, hstage, hnext]
      rw [s.act_audited_started _ a ((Run.of s).lastProbe a ha hrun hv hservice ho hroles hp) hcalm hstage hnext
        hstarted hcause]
      rfl

end Sys2Proof.Machine

namespace Sys2Proof.Machine

open Sys2Proof.Config

/-! ### A good control-area check (R83, R144, R149, R156, R170, R190, R191) -/

/-- Steps 3 and 4 of a power-up begin after a good check (R190). -/
def State.checkPassed (s : State) : State :=
  { s with
    mem := s.mem.checked .good,
    startup := { s.startup with stage := .drives, batteryGood := s.store.good, checkCode := 0, initNext := some 0 } }

/-- The store is taken as steps 3 and 4 begin (R191). -/
theorem State.checkDone_good (s : State) (hstage : s.startup.stage = .checking) :
    exec (.controlAreaCheckDone .good) s = .next (s.checkPassed.act Run.checkStore) := by
  show execControlAreaCheckDone .good s = _
  rw [execControlAreaCheckDone, outcome_wf (.controlAreaCheckDone .good) _ rfl, if_pos hstage]
  rfl

/-- The blocks with a store, and with more notices kept to follow STARTED (R61). -/
def Run.keeping (r : Run) (x : Store) (told : List Notice) : Run :=
  { r with store := x, slot := { r.slot with held := r.slot.held ++ told } }

/-- A notice taken before the control area is in service is kept to follow STARTED (R61, log entry 15). -/
theorem Run.notice_held (r : Run) (n : Notice) (hs : r.startup.inService = false) (ha : r.startup.acting = true) :
    r.notice n = r.keeping r.store [n] := by
  simp [Run.notice, hs, ha, Run.keeping]

/-- The store with the records that pass a test changed. -/
def Store.changing (x : Store) (f : Volume → Volume) (hit : Volume → Bool) : Store :=
  { x with volumes := x.volumes.map (fun o => o.map (fun v => if hit v then f v else v)) }

/-- A change of no record is none. -/
theorem Store.changing_none (x : Store) (f : Volume → Volume) : x.changing f (fun _ => false) = x := by
  have hid : (fun o : Option Volume => o.map (fun v => if false = true then f v else v)) = id := by
    funext o
    cases o <;> rfl
  rw [Store.changing, hid, List.map_id]

/-- Two like changes one after the other are one of the records that pass either test, where a changed record passes the
second test as before and does not change again. -/
theorem Store.changing_changing (x : Store) (f : Volume → Volume) (hit hit' : Volume → Bool) (hf : ∀ v, f (f v) = f v)
    (hhit : ∀ v, hit' (f v) = hit' v) :
    (x.changing f hit).changing f hit' = x.changing f (fun v => hit v || hit' v) := by
  have heach : ∀ v, (if hit' (if hit v then f v else v) then f (if hit v then f v else v) else if hit v then f v else v) =
      if hit v || hit' v then f v else v := by
    intro v
    cases h : hit v <;> cases h' : hit' v <;> simp [h', hf, hhit]
  simp only [Store.changing, List.map_map]
  congr 2
  funext o
  cases o with
  | none => rfl
  | some v => exact congrArg some (heach v)

/-- A change of the record of one volume. -/
theorem Run.modVolume_changing (r : Run) (n : Nat) (f : Volume → Volume) :
    r.modVolume n f = { r with store := r.store.changing f (fun v => v.serial == n) } := by
  have heach : (fun o : Option Volume => match o with
      | some v => if v.serial = n then some (f v) else some v
      | none => none) = fun o => o.map (fun v => if v.serial == n then f v else v) := by
    funext o
    cases o with
    | none => rfl
    | some v => by_cases hv : v.serial = n <;> simp [hv]
  exact congrArg (fun g => ({ r with store := { r.store with volumes := r.store.volumes.map g } } : Run)) heach

/-- The BLANKS_LOW notice of a change of the store, if it lets the BLANK count fall to a value below 4 (R137). -/
def Store.lowNotices (before after : Store) : List Notice :=
  if after.blankCount < before.blankCount ∧ after.blankCount < 4 then [.blanksLow after.blankCount] else []

/-- A change of a volume record before the control area is in service keeps its BLANKS_LOW notice (R137, log entry 15). -/
theorem Run.claimVolume_held (r : Run) (n : Nat) (f : Volume → Volume) (hs : r.startup.inService = false)
    (ha : r.startup.acting = true) (x : Store) (hx : r.store.changing f (fun v => v.serial == n) = x) :
    r.claimVolume n f = r.keeping x (r.store.lowNotices x) := by
  subst hx
  unfold Run.claimVolume Run.blankWatch Store.lowNotices
  rw [Run.modVolume_changing]
  dsimp only
  split
  · exact Run.notice_held _ _ hs ha
  · rw [Run.keeping, List.append_nil]

/-- A volume made RETIRED (R66). -/
def Volume.retired (v : Volume) : Volume := { v with role := .retired, partner := none, pairClosed := none }

/-- A volume whose label was attempted is RETIRED before the control area is in service (R137, R144). -/
theorem Run.retire_held (r : Run) (tried : Bool) (n : Nat) (hs : r.startup.inService = false)
    (ha : r.startup.acting = true) (x : Store) (hx : r.store.changing Volume.retired (fun v => tried && v.serial == n) = x) :
    (if tried = true then r.retire n else r) = r.keeping x (r.store.lowNotices x) := by
  cases tried with
  | true => exact r.claimVolume_held n Volume.retired hs ha x hx
  | false =>
    have hsame : r.store = x := (r.store.changing_none Volume.retired).symm.trans hx
    subst hsame
    have hnone : r.store.lowNotices r.store = [] := if_neg fun h => lt_irrefl _ h.1
    rw [hnone, Run.keeping, List.append_nil]
    rfl

/-- The blocks over a GOOD store, with every confirmed flag clear and no relocation entry RESERVED (R83, R170). -/
def Run.storeKept (r : Run) : Run := { r with store := r.store.unconfirmed.releaseReserved }

/-- A GOOD store is kept, and its filing pair record looked at (R83, R156, R170). -/
theorem Run.checkStore_good (r : Run) (h : r.store.good = true) :
    r.checkStore = r.storeKept.abandonPair.completeClose.judgeSideB :=
  if_pos h

/-- A LOST store is cleared (R191). -/
theorem Run.checkStore_lost (r : Run) (h : r.store.good = false) : r.checkStore = { r with store := Store.lost } := by
  simp [Run.checkStore, h]

/-- Without a filing pair the step changes nothing. -/
theorem Run.pairChecked_absent (r : Run) (h : r.store.pair = .absent) : r.abandonPair.completeClose.judgeSideB = r := by
  have ha : r.abandonPair = r := by simp [Run.abandonPair, h]
  have hc : r.completeClose = r := by simp [Run.completeClose, h]
  rw [ha, hc]
  simp [Run.judgeSideB, h]

/-- An ACTIVE pair is kept, its side B labels still to be judged where side B is current (R156, log entry 29). -/
theorem Run.pairChecked_active (r : Run) (p q : Nat) (side : Side) (h : r.store.pair = .active p q side) :
    r.abandonPair.completeClose.judgeSideB =
      { r with filing := { r.filing with turned := r.filing.turned || side == .b } } := by
  have ha : r.abandonPair = r := by simp [Run.abandonPair, h]
  have hc : r.completeClose = r := by simp [Run.completeClose, h]
  rw [ha, hc]
  cases side with
  | a =>
    have hsame : (r.filing.turned || Side.a == Side.b) = r.filing.turned := Bool.or_false _
    rw [hsame]
    simp [Run.judgeSideB, h]
  | b =>
    have hturned : (r.filing.turned || Side.b == Side.b) = true := Bool.or_true _
    rw [hturned]
    simp [Run.judgeSideB, h]

/-- An establishment is abandoned before the control area is in service: each volume whose label was attempted is RETIRED
(R144, log entry 89). -/
theorem Run.pairChecked_establishing (r : Run) (p q : Nat) (side : Side) (tp tq : Bool)
    (h : r.store.pair = .establishing p q side tp tq) (hs : r.startup.inService = false) (ha : r.startup.acting = true)
    (first both : Store)
    (hfirst : Store.changing { r.store with pair := .absent } Volume.retired (fun v => tp && v.serial == p) = first)
    (hboth : Store.changing { r.store with pair := .absent } Volume.retired
      (fun v => (tp && v.serial == p) || (tq && v.serial == q)) = both) :
    r.abandonPair.completeClose.judgeSideB =
      (r.keeping first (r.store.lowNotices first)).keeping both (first.lowNotices both) := by
  have hsecond : first.changing Volume.retired (fun v => tq && v.serial == q) = both := by
    rw [← hfirst, ← hboth]
    exact Store.changing_changing _ _ _ _ (fun _ => rfl) (fun _ => rfl)
  have habandon : r.abandonPair = (r.keeping first (r.store.lowNotices first)).keeping both (first.lowNotices both) := by
    simp only [Run.abandonPair, h]
    rw [(r.setPair .absent).retire_held tp p hs ha first hfirst]
    exact (r.keeping first (r.store.lowNotices first)).retire_held tq q hs ha both hsecond
  have hpair : r.abandonPair.store.pair = .absent := by rw [habandon, ← hboth]; rfl
  have hc : r.abandonPair.completeClose = r.abandonPair := by simp [Run.completeClose, hpair]
  rw [hc, ← habandon]
  simp [Run.judgeSideB, hpair]

/-- A volume whose pair is closed (R149). -/
def Volume.shut (v : Volume) : Volume := { v with pairClosed := some true }

/-- The close of a CLOSING pair is completed before the control area is in service (R149). -/
theorem Run.pairChecked_closing (r : Run) (p q : Nat) (side : Side) (cause : CloseCause)
    (h : r.store.pair = .closing p q side cause) (hs : r.startup.inService = false) (ha : r.startup.acting = true) :
    r.abandonPair.completeClose.judgeSideB =
      r.keeping (Store.changing { r.store with pair := .absent } Volume.shut (fun v => v.serial == p || v.serial == q))
        [.pairClosed p q cause] := by
  have habandon : r.abandonPair = r := by simp [Run.abandonPair, h]
  have hshut : (r.modVolume p Volume.shut).modVolume q Volume.shut =
      { r with store := r.store.changing Volume.shut (fun v => v.serial == p || v.serial == q) } := by
    rw [r.modVolume_changing p, ← r.store.changing_changing Volume.shut _ _ (fun _ => rfl) (fun _ => rfl)]
    exact Run.modVolume_changing _ q _
  have hclose : r.completeClose =
      r.keeping (Store.changing { r.store with pair := .absent } Volume.shut (fun v => v.serial == p || v.serial == q))
        [.pairClosed p q cause] := by
    have hstart : r.completeClose =
        (((r.modVolume p Volume.shut).modVolume q Volume.shut).notice (.pairClosed p q cause)).setPair .absent := by
      simp only [Run.completeClose, h]
      rfl
    rw [hstart, Run.notice_held ((r.modVolume p Volume.shut).modVolume q Volume.shut) _ hs ha, hshut]
    rfl
  have hpair : r.completeClose.store.pair = .absent := by rw [hclose]; rfl
  rw [habandon, ← hclose]
  simp [Run.judgeSideB, hpair]

/-- Settles O14, by the state of the store and of the filing pair record: the step causes nothing, so that its effect is its
own change. -/
theorem goodCheckTakesTheStore : Obligations.GoodCheckTakesTheStore := by
  unfold Obligations.GoodCheckTakesTheStore
  intro s hstage kept begun changed
  rw [s.checkDone_good hstage]
  have hgood (x : Run) (h : s.store.good = true)
      (hx : (Run.of s.checkPassed).storeKept.abandonPair.completeClose.judgeSideB = x) :
      Run.checkStore (Run.of s.checkPassed) = x := ((Run.of s.checkPassed).checkStore_good h).trans hx
  refine ⟨⟨rfl, rfl, rfl, rfl, rfl, ?_⟩, fun hlost => ?_, fun h => ⟨fun hp => ?_, fun p q side hp => ?_,
    fun p q side tp tq hp => ?_, fun p q side cause hp => ?_⟩⟩
  · refine List.map_congr_left fun e _ => ?_
    cases e <;> rfl
  · rw [State.act_to _ _ _ ((Run.of s.checkPassed).checkStore_lost hlost) rfl rfl]
    rfl
  · rw [State.act_to _ _ _ (hgood _ h (Run.pairChecked_absent _ hp)) rfl rfl]
    rfl
  · rw [State.act_to _ _ _ (hgood _ h (Run.pairChecked_active _ p q side hp)) rfl rfl]
    rfl
  · intro retired first both blanks low
    have hlow : ∀ x y : Store, x.lowNotices y = low x y := by
      intro x y
      simp only [Store.lowNotices, Store.blankCount_eq, List.countP_eq_length_filter]
      rfl
    rw [State.act_to _ _ _ (hgood _ h (Run.pairChecked_establishing _ p q side tp tq hp rfl rfl first both rfl rfl)) rfl rfl,
      hlow, hlow]
    rfl
  · rw [State.act_to _ _ _ (hgood _ h (Run.pairChecked_closing _ p q side cause hp rfl rfl)) rfl rfl]
    rfl

end Sys2Proof.Machine

namespace Sys2Proof.Machine

open Sys2Proof.Config

/-! ### The record of a drive (R85, R87) -/

/-- The record of a drive after a change of it. -/
theorem Run.driveAt_modDrive (r : Run) (d : Nat) (f : Drive → Drive) (hd : d < r.drives.length) :
    (r.modDrive d f).driveAt d = f (r.driveAt d) := by
  simp [Run.driveAt, Run.modDrive, List.getD_eq_getElem?_getD, hd]

/-- Two changes of a drive's record, one after the other, are one. -/
theorem Run.modDrive_modDrive (r : Run) (d : Nat) (f g : Drive → Drive) :
    (r.modDrive d f).modDrive d g = r.modDrive d (fun v => g (f v)) := by
  simp only [Run.modDrive, List.modify_modify_eq]
  rfl

/-- A change of one record of a list depends on what it makes of that record alone. -/
theorem modify_congr_getD {α : Type} (l : List α) (d : Nat) (f g : α → α) (a : α) (h : f (l.getD d a) = g (l.getD d a)) :
    l.modify d f = l.modify d g := by
  refine List.ext_getElem? fun i => ?_
  rw [List.getElem?_modify, List.getElem?_modify]
  split
  next hdi =>
    subst hdi
    rw [List.getD_eq_getElem?_getD] at h
    cases hl : l[d]? with
    | none => rfl
    | some v =>
      rw [hl] at h
      exact congrArg some h
  next => rfl

/-- A change of a drive's record depends on what it makes of that record alone. -/
theorem State.withDrive_congr (s : State) (d : Nat) (f g : Drive → Drive) (h : f (s.driveRec d) = g (s.driveRec d)) :
    s.withDrive d f = s.withDrive d g :=
  congrArg (fun l : List Drive => ({ s with drives := l } : State)) (modify_congr_getD s.drives d f g Drive.start h)

/-- The command in progress on a drive, of its own kind (R85). -/
theorem State.issued_of_command (s : State) (d : Nat) (c : Issued) (k : Command) (hc : (s.driveRec d).command = some c)
    (hk : c.command = k) : s.issued d k = some c := by
  show (s.driveRec d).command.bind _ = some c
  rw [hc]
  exact if_pos hk

/-- A drive with no unload asked of it becomes READY, and the Scheduler is told (R86). -/
theorem Run.becomeReady_unasked (r : Run) (d : Nat) (h : (r.driveAt d).unloadAsked = false) :
    r.becomeReady d =
      ((r.modDrive d (fun v => { v with state := .ready, readySince := r.now })).push (.driveReady d)).wantPass := by
  unfold Run.becomeReady
  rw [h]
  exact if_neg Bool.false_ne_true

/-! ### A drive enters FAULT (R96) -/

/-- A buffer without a stream has none to end (R88). -/
theorem Run.endStream_idle (r : Run) (i : Nat) (hs : ∀ y ∈ r.mover.streams, y.idx ≠ i) (hp : r.mover.presented ≠ some i) :
    r.endStream i = r := by
  have hat : r.streamAt i = none := by simpa [Run.streamAt] using hs
  have hwaits : (r.mover.presented == some i) = false := by simpa using hp
  have hkept : r.mover.streams.filter (fun y => y.idx != i) = r.mover.streams := by simpa using hs
  simp [Run.endStream, hat, hwaits, hkept]

/-- The record of a drive that has entered FAULT (R96). -/
def Drive.faulted (v : Drive) (timeout : Bool) (cmd : Option Command) : Drive :=
  { v with
    state := .fault, faultTimeout := timeout, faultCommand := cmd, command := none, unloadAsked := false, rereads := [],
    asks := [], reloadNext := false, bufA := Buffer.blank, bufB := Buffer.blank }

section
variable (r : Run) (d : Nat) (hs : ∀ y ∈ r.mover.streams, y.idx / 2 ≠ d)
  (hp : ∀ k, r.mover.presented = some k → k / 2 ≠ d)
include hs hp

/-- The two buffers of a drive without streams have none to end (R88). -/
theorem Run.endStreams_idle : (r.endStream (bufIdx d 0)).endStream (bufIdx d 1) = r := by
  have hidle (b : Nat) (hb : b < 2) : r.endStream (bufIdx d b) = r := by
    have hidx : bufIdx d b / 2 = d := by unfold bufIdx; omega
    exact r.endStream_idle _ (fun y hy h => hs y hy (h ▸ hidx)) fun h => hp _ h hidx
  rw [hidle 0 (by decide), hidle 1 (by decide)]

/-- A drive without a holder, whose buffers are FREE, enters FAULT: the other blocks are told, and a notice is taken (R96). -/
theorem Run.enterFault_idle (timeout : Bool) (cmd : Option Command) (hA : (r.driveAt d).bufA = Buffer.blank)
    (hB : (r.driveAt d).bufB = Buffer.blank) (hh : (r.assignAt d).holder = none) :
    r.enterFault d timeout cmd =
      ((r.modDrive d (fun v => v.faulted timeout cmd)).push (.driveFault d timeout)).notice (.driveFault d timeout cmd) := by
  have hserves : Buffer.blank.serves = none := rfl
  simp only [Run.enterFault, hA, hB, hh, hserves, r.endStreams_idle d hs hp]
  rfl

end

end Sys2Proof.Machine

namespace Sys2Proof.Machine

open Sys2Proof.Config

/-! ### A fault in a quiet part (R95, R96, R112) -/

/-- With no assignment a drive has no flip list to fail (R109, R112). -/
theorem Run.failFlips_calm (r : Run) (h : r.sched.assigns = List.replicate 4 Assign.clear) (d : Nat) (code : Code) :
    r.failFlips d code = r := by
  unfold Run.failFlips
  rw [r.assignAt_calm h, r.modAssign_calm h d _ rfl]
  rfl

/-- Past step 5 of power-up no drive's report is awaited (R99). -/
theorem Run.driveReports_late (r : Run) (d : Nat) (h : r.startup.stage ≠ .drives) : r.driveReports d = r :=
  if_neg fun hw => h hw.2

/-- Where no work waits a drive's FAULT is missed by no block (R97, R112). -/
theorem Run.driveFault_calm (r : Run) (d : Nat) (timeout : Bool) (hc : r.toParts.Calm) (hstage : r.startup.stage ≠ .drives) :
    r.driveFault d timeout = ((r.push .restores).push .pump).wantPass := by
  obtain ⟨hjobs, -, -, hassigns, -, -, htasks, horders, -⟩ := hc
  have hsched : ({ r.sched with jobs := [] } : Scheduler) = r.sched := by rw [← hjobs]
  unfold Run.driveFault
  simp only [r.endOrders_none _ _ horders, r.assignAt_calm hassigns, Assign.clear, List.foldl_nil, htasks, List.filter_nil,
    r.failFlips_calm hassigns]
  rw [r.modAssign_calm hassigns d _ rfl, hjobs, List.map_nil, hsched]
  exact congrArg (fun u => ((u.push .restores).push .pump).wantPass) (r.driveReports_late d hstage)

/-- Where no RESTORE DRIVE is in hand a drive that fails enters FAULT and no request ends (R96, R98). -/
theorem Run.driveFails_unrestored (r : Run) (d : Nat) (timeout : Bool) (k : Command) (h : ∀ y ∈ r.restores, y.drive ≠ d) :
    r.driveFails d timeout k = r.enterFault d timeout (some k) := by
  have hnone : r.restoreOn d .unloading = none := by
    simp only [Run.restoreOn, List.find?_eq_none]
    intro y hy
    simp [h y hy]
  unfold Run.driveFails
  rw [hnone]

/-- A drive whose buffers are FREE keeps them as it enters FAULT (R96). -/
theorem Drive.faulted_idle (v : Drive) (hA : v.bufA = Buffer.blank) (hB : v.bufB = Buffer.blank) (timeout : Bool)
    (cmd : Option Command) :
    v.faulted timeout cmd =
      { v with state := .fault, faultTimeout := timeout, faultCommand := cmd, command := none, unloadAsked := false,
               rereads := [], asks := [], reloadNext := false } := by
  simp only [Drive.faulted, hA, hB]

section
variable {s : State} (hq : s.Quiet) {d : Nat} (hA : (s.driveRec d).bufA = Buffer.blank)
  (hB : (s.driveRec d).bufB = Buffer.blank) (hs : s.mover.streams = []) (hp : s.mover.presented = none)
include hq hA hB hs hp

/-- A drive that does no other work fails in a quiet part: it is in FAULT, a notice is taken, and nothing follows (R96). -/
theorem State.Quiet.act_driveFails (timeout : Bool) (k : Command) :
    s.act (fun r => r.driveFails d timeout k) =
      (s.noticing (.driveFault d timeout (some k))).withDrive d (fun v => v.faulted timeout (some k)) := by
  obtain ⟨hcalm, hstage, -⟩ := id hq
  obtain ⟨-, -, -, hassigns, -, -, -, -, -, -, hrestores⟩ := id hcalm
  have hlate : s.startup.stage ≠ .drives := by simp [hstage]
  let faulty : Run :=
    { (Run.of s).modDrive d (fun v => v.faulted timeout (some k)) with
      slot := s.slot.takeNotice (.driveFault d timeout (some k)) }
  have hfault : (Run.of s).driveFails d timeout k = faulty.push (.driveFault d timeout) := by
    rw [(Run.of s).driveFails_unrestored d timeout k (by simp [hrestores]),
      (Run.of s).enterFault_idle d (by simp [hs]) (by simp [hp]) timeout (some k) hA hB
        (by rw [(Run.of s).assignAt_calm hassigns]; rfl),
      Run.notice_inService _ _ hq.inService]
    rfl
  have hrest : ({ faulty.push (.driveFault d timeout) with todo := [] } : Run) = faulty := rfl
  have htold := faulty.driveFault_calm d timeout hcalm hlate
  rw [State.act_then_dull s _ _ _ (.driveFault d timeout) [] hfault rfl
    ((congrArg (Run.consequence · _) hrest).trans htold) hcalm]
  · rfl
  · intro t ht
    have hnone : faulty.todo = [] := rfl
    obtain rfl | rfl : t = .restores ∨ t = .pump := by simpa [hnone] using ht
    all_goals trivial

/-- The same, where the drive's buffers are FREE already (R96). -/
theorem State.Quiet.act_driveFails_idle (timeout : Bool) (k : Command) :
    s.act (fun r => r.driveFails d timeout k) =
      (s.noticing (.driveFault d timeout (some k))).withDrive d (fun v =>
        { v with state := .fault, faultTimeout := timeout, faultCommand := some k, command := none,
                 unloadAsked := false, rereads := [], asks := [], reloadNext := false }) := by
  rw [hq.act_driveFails hA hB hs hp]
  exact State.withDrive_congr _ d _ _ (Drive.faulted_idle _ hA hB timeout (some k))

end

/-! ### The completions of LOAD, FIND WRITE POINT and UNLOAD (R90, R91, R94) -/

section
variable (s : State) {d : Nat} (hd : d < 4) {c : Issued} (hc : (s.driveRec d).command = some c)
include hd hc

/-- The report of a LOAD in progress after a mount, a flip or a reload is taken (R90). -/
theorem State.loadComplete (result : Option LoadResult) (hwf : optWf LoadResult.wf result = true) (hk : c.command = .load)
    (hfor : (s.driveRec d).loadFor = .mount) :
    exec (.loadComplete d result) s = .next (s.act (fun r => r.loadEnds d result)) := by
  have hissued : (s.issued d .load).isSome = true := by rw [s.issued_of_command d c .load hc hk]; rfl
  show execLoadComplete d result s = _
  rw [execLoadComplete, if_pos ⟨hissued, hfor⟩]
  exact outcome_wf _ _ (by simp [Instr.wf, hd, hwf])

/-- The report of a FIND WRITE POINT in progress is taken (R91). -/
theorem State.findWritePointComplete (result : Option Nat) (hwf : optWf (fun n => decide (n ≤ 524288)) result = true)
    (hk : c.command = .findWritePoint) :
    exec (.findWritePointComplete d result) s = .next (s.act (fun r => r.writePointFound d result)) := by
  have hissued : (s.issued d .findWritePoint).isSome = true := by
    rw [s.issued_of_command d c .findWritePoint hc hk]
    rfl
  show execFindWritePointComplete d result s = _
  rw [execFindWritePointComplete, if_pos hissued]
  exact outcome_wf _ _ (by simp [Instr.wf, hd, hwf])

/-- The report of an UNLOAD in progress is taken (R94). -/
theorem State.unloadComplete (ok : Bool) (hk : c.command = .unload) :
    exec (.unloadComplete d ok) s =
      .next (s.act (fun r => if ok then r.unloadEnds d else r.driveFails d false .unload)) := by
  show execUnloadComplete d ok s = _
  rw [execUnloadComplete, s.issued_of_command d c .unload hc hk]
  exact outcome_wf _ _ (by simp [Instr.wf, hd])

/-- The time limit of a drive's command is reached, with the clock at its deadline at the earliest (R95, log entry 6). -/
theorem State.driveTimeout :
    exec (.driveTimeout d) s =
      .next ((s.reach (c.issuedAt + c.command.limit)).act (fun r => r.timedOut d c)) := by
  have hcommand : ((Run.of s).driveAt d).command = some c := hc
  show execDriveTimeout d s = _
  rw [execDriveTimeout, hcommand]
  exact outcome_wf _ _ (by simp [Instr.wf, hd])

end

/-- The expiry of a command other than RESTORE and a power-up LOAD is that drive's failure (R95). -/
theorem Run.timedOut_fails (r : Run) (d : Nat) (c : Issued)
    (h : c.command = .unload ∨ c.command = .findWritePoint ∨ (c.command = .load ∧ (r.driveAt d).loadFor = .mount)) :
    r.timedOut d c = r.driveFails d true c.command := by
  obtain h | h | ⟨h, hfor⟩ := h
  · simp only [Run.timedOut, h]
  · simp only [Run.timedOut, h]
  · simp only [Run.timedOut, h, hfor, if_true]

/-- Settles O56: the command's expiry and its FAULT report are one failure of the drive, at two clocks. -/
theorem driveTimeoutPutsTheDriveInFault : Obligations.DriveTimeoutPutsTheDriveInFault := by
  unfold Obligations.DriveTimeoutPutsTheDriveInFault
  intro s d c hq _ hd hc hkind hA hB hs hp _ faulted
  have hfails (k : Command) (hk : c.command = k) : s.act (fun r => r.driveFails d false k) = faulted false := by
    subst hk
    exact hq.act_driveFails_idle hA hB hs hp false c.command
  refine ⟨?_, fun hk => ?_, fun hk => ?_, fun hk => ?_⟩
  · let late := s.reach (c.issuedAt + c.command.limit)
    have hlate : late.Quiet := hq
    have hfail := (Run.of late).timedOut_fails d c hkind
    rw [s.driveTimeout hd hc, late.act_congr _ (fun r => r.driveFails d true c.command) hfail,
      hlate.act_driveFails_idle hA hB hs hp]
    rfl
  · rw [s.unloadComplete hd hc false hk, ← hfails .unload hk]
    rfl
  · rw [s.findWritePointComplete hd hc none rfl hk, ← hfails .findWritePoint hk]
    rfl
  · have hfor : (s.driveRec d).loadFor = .mount := by
      obtain h | h | ⟨-, hfor⟩ := hkind
      · exact nomatch h.symm.trans hk
      · exact nomatch h.symm.trans hk
      · exact hfor
    rw [s.loadComplete hd hc none rfl hk hfor, ← hfails .load hk]
    rfl

end Sys2Proof.Machine

namespace Sys2Proof.Machine

open Sys2Proof.Config

/-! ### LOAD reports and the search of the write point (R90, R91) -/

/-- A drive whose LOAD finds a confirmed side is READY, with the report recorded (R90). -/
theorem Run.loadMatched_confirmed (r : Run) (d n : Nat) (blank : Bool) (side : Side) (label : LabelSector)
    (hd : d < r.drives.length) (hask : (r.driveAt d).unloadAsked = false) (h : r.confirmed n side = true) :
    r.loadMatched d n blank side label =
      (((r.modDrive d (fun v =>
        { v with loadReport := some { serial := n, blank := blank, side := side, label := labelReport side label },
                 lastSector := none, command := none, state := .ready, readySince := r.now })).push (.loadReport d)).push
          (.driveReady d)).wantPass := by
  refine (if_pos h).trans ((Run.becomeReady_unasked _ d ?_).trans ?_)
  · show ((r.modDrive d _).driveAt d).unloadAsked = false
    rw [r.driveAt_modDrive d _ hd]
    exact hask
  · simp only [Run.push, Run.modDrive, List.modify_modify_eq]
    rfl

/-- A drive whose LOAD finds an unconfirmed side searches its write point, with the report recorded (R90). -/
theorem Run.loadMatched_unconfirmed (r : Run) (d n : Nat) (blank : Bool) (side : Side) (label : LabelSector)
    (h : r.confirmed n side = false) :
    r.loadMatched d n blank side label =
      (r.modDrive d (fun v =>
        { v with loadReport := some { serial := n, blank := blank, side := side, label := labelReport side label },
                 lastSector := none,
                 command := some { command := .findWritePoint, buf := 0, start := 0, count := 0, pos := 0,
                                   issuedAt := r.now, discard := false } })).push (.loadReport d) := by
  refine (if_neg fun hc => Bool.false_ne_true (h.symm.trans hc)).trans ?_
  simp only [Run.issue, Run.push, Run.modDrive, List.modify_modify_eq]
  rfl

/-- A LOAD that finds the drive's volume and side (R90). -/
theorem Run.loadEnds_matches (r : Run) (d n : Nat) (blank : Bool) (side : Side) (label : LabelSector)
    (hv : (r.driveAt d).volume = some (.serial n)) (hside : (r.driveAt d).side = side) :
    r.loadEnds d (some (.platter n blank side label)) = r.loadMatched d n blank side label :=
  if_pos ⟨by rw [Drive.serial, hv], hside⟩

/-- A LOAD that faults, or finds no platter, another volume or another side, fails (R90, R96). -/
theorem Run.loadEnds_fails (r : Run) (d n : Nat) (side : Side) (result : Option LoadResult)
    (hv : (r.driveAt d).volume = some (.serial n)) (hside : (r.driveAt d).side = side)
    (h : result = none ∨ result = some .noPlatter ∨
      ∃ m blank sd label, result = some (.platter m blank sd label) ∧ (m ≠ n ∨ sd ≠ side)) :
    r.loadEnds d result = r.driveFails d false .load := by
  obtain rfl | rfl | ⟨m, blank, sd, label, rfl, hne⟩ := h
  · rfl
  · rfl
  · refine if_neg fun hm => ?_
    obtain ⟨hserial, hfaces⟩ := hm
    rw [Drive.serial, hv] at hserial
    rw [hside] at hfaces
    exact hne.elim (fun hmn => hmn (Option.some.inj hserial).symm) fun hsd => hsd hfaces.symm

/-- A side is confirmed where no filing pair stands: its write point is raised to what was found, never lowered (R91, R136). -/
theorem Run.confirmSide_unpaired (r : Run) (n : Nat) (side : Side) (found : Nat) (h : r.store.pair = .absent) :
    r.confirmSide n side found =
      r.modVolume n (fun v => v.modSide side (fun x => { x.raise found with confirmed := true })) := by
  have hother : (r.modVolume n (fun v => v.modSide side (fun x => { x.raise found with confirmed := true }))).store.pair.otherOf
      n = none := by
    show r.store.pair.otherOf n = none
    rw [h]
    rfl
  unfold Run.confirmSide
  simp only [hother, ite_self]

/-- The search of the write point confirms the side, and the drive is READY (R91). -/
theorem Run.writePointFound_ready (r : Run) (d n : Nat) (side : Side) (found : Nat) (hd : d < r.drives.length)
    (hv : (r.driveAt d).volume = some (.serial n)) (hside : (r.driveAt d).side = side)
    (hask : (r.driveAt d).unloadAsked = false) (hpair : r.store.pair = .absent) :
    r.writePointFound d (some found) =
      ((((r.modVolume n (fun v => v.modSide side (fun x => { x.raise found with confirmed := true }))).modDrive d
        (fun v => { v with command := none, state := .ready, readySince := r.now })).push (.driveReady d)).wantPass).push
          .pump := by
  have hserial : (r.driveAt d).serial = some n := by rw [Drive.serial, hv]
  simp only [Run.writePointFound, hserial, hside, r.confirmSide_unpaired n side found hpair]
  refine congrArg (Run.push · .pump) ((Run.becomeReady_unasked _ d ?_).trans ?_)
  · rw [Run.commandOver, Run.driveAt_modDrive]
    · exact hask
    · exact hd
  · rw [Run.commandOver, Run.modDrive_modDrive]
    rfl

/-- Settles O49: the report of each completion by whether its side is confirmed; in a quiet part nothing follows but for the
notice of a FAULT. -/
theorem loadReportMakesTheDriveReady : Obligations.LoadReportMakesTheDriveReady := by
  unfold Obligations.LoadReportMakesTheDriveReady
  intro s d n side hq hlen hd hn0 hn hv hside hask
  obtain ⟨hcalm, hstage, -⟩ := id hq
  have hlate : s.startup.stage ≠ .drives := by simp [hstage]
  refine ⟨?_, fun c found hc hk hfound hpair => ?_, fun c result hc hk hfor hA hB hs hp _ hresult => ?_⟩
  · intro c blank label hc hk hfor hwf report done
    have hplatter : optWf LoadResult.wf (some (.platter n blank side label)) = true := by
      simp [optWf, LoadResult.wf, serialWf, hn0, hn, hwf]
    have hdone : done = .next (s.act (fun r => r.loadEnds d (some (.platter n blank side label)))) :=
      s.loadComplete hd hc _ hplatter hk hfor
    have hmatch := (Run.of s).loadEnds_matches d n blank side label hv hside
    refine ⟨fun hconf => ?_, fun hconf => ?_⟩
    · rw [hdone, s.act_dull _ _ (hmatch.trans ((Run.of s).loadMatched_confirmed d n blank side label hlen hask hconf)) hcalm]
      · rfl
      · intro t ht
        obtain rfl | rfl : t = .loadReport d ∨ t = .driveReady d := by simpa [Run.wantPass] using ht
        · trivial
        · exact hlate
    · rw [hdone, s.act_dull _ _ (hmatch.trans ((Run.of s).loadMatched_unconfirmed d n blank side label hconf)) hcalm]
      · rfl
      · intro t ht
        obtain rfl : t = .loadReport d := by simpa using ht
        trivial
  · rw [s.findWritePointComplete hd hc (some found) (by simp [optWf, hfound]) hk,
      s.act_dull _ _ ((Run.of s).writePointFound_ready d n side found hlen hv hside hask hpair) hcalm]
    · rfl
    · intro t ht
      obtain rfl | rfl : t = .driveReady d ∨ t = .pump := by simpa [Run.wantPass] using ht
      · exact hlate
      · trivial
  · have hwf : optWf LoadResult.wf result = true := by
      obtain rfl | rfl | ⟨m, blank, sd, label, rfl, hm0, hm, hlabel, -⟩ := hresult
      · rfl
      · rfl
      · simp [optWf, LoadResult.wf, serialWf, hm0, hm, hlabel]
    have hfails : (Run.of s).loadEnds d result = (Run.of s).driveFails d false .load := by
      refine (Run.of s).loadEnds_fails d n side result hv hside ?_
      obtain h | h | ⟨m, blank, sd, label, h, -, -, -, hne⟩ := hresult
      · exact .inl h
      · exact .inr (.inl h)
      · exact .inr (.inr ⟨m, blank, sd, label, h, hne⟩)
    rw [s.loadComplete hd hc result hwf hk hfor, s.act_congr _ (fun r => r.driveFails d false .load) hfails,
      hq.act_driveFails_idle hA hB hs hp]

end Sys2Proof.Machine

namespace Sys2Proof.Machine

open Sys2Proof.Config

/-! ### The power-up LOADs (R99) -/

/-- The report of a power-up LOAD in progress is taken (R99). -/
theorem State.powerUpLoadComplete (s : State) (d : Nat) (c : Issued) (result : Option LoadResult) (hd : d < 4)
    (hwf : optWf LoadResult.wf result = true) (hc : (s.driveRec d).command = some c) (hk : c.command = .load)
    (hfor : (s.driveRec d).loadFor = .powerUp) :
    exec (.powerUpLoadComplete d result) s = .next (s.act (fun r => r.powerLoadEnds d result)) := by
  have hissued : (s.issued d .load).isSome = true := by rw [s.issued_of_command d c .load hc hk]; rfl
  have hother : ((Run.of s).driveAt d).loadFor ≠ .mount := by
    show (s.driveRec d).loadFor ≠ .mount
    simp [hfor]
  show execPowerUpLoadComplete d result s = _
  rw [execPowerUpLoadComplete, if_pos ⟨hissued, hother⟩]
  exact outcome_wf _ _ (by simp [Instr.wf, hd, hwf])

/-- A drive in which the Inventory records no volume has none to lose (R99). -/
theorem Run.loseOther_unrecorded (r : Run) (d : Nat) (keep : Option Nat) (h : r.volumeIn (.drive d) = none) :
    r.loseOther d keep = r := by
  rw [Run.loseOther, h]

/-- While step 5 of power-up waits for the drives, the start-up sequence is told of each report (R99, R192). -/
theorem Run.driveReports_awaited (r : Run) (d : Nat) (hissued : r.startup.loadsIssued = true)
    (hstage : r.startup.stage = .drives) :
    r.driveReports d =
      Run.push { r with startup := { r.startup with driveReported := r.startup.driveReported.set d true } } .startup :=
  if_pos ⟨hissued, hstage⟩

/-- A drive that holds no platter, and in which the Inventory records none, is EMPTY and has reported (R99). -/
theorem Run.powerLoadEnds_empty (r : Run) (d : Nat) (hissued : r.startup.loadsIssued = true) (hstage : r.startup.stage = .drives)
    (hv : r.volumeIn (.drive d) = none) :
    r.powerLoadEnds d (some .noPlatter) =
      { r.modDrive d (fun v =>
          { v with state := .empty, volume := none, side := .a, loadReport := none, command := none, unloadAsked := false,
                   reloadNext := false, faultTimeout := false, faultCommand := none }) with
        startup := { r.startup with driveReported := r.startup.driveReported.set d true },
        todo := r.todo ++ [.arm] ++ [.startup], pass := true } := by
  simp only [Run.powerLoadEnds, Run.driveEmptied]
  rw [Run.loseOther_unrecorded, Run.driveReports_awaited]
  · rfl
  · exact hissued
  · exact hstage
  · exact hv

/-- No drive holds a serial that none of their records has (R99). -/
theorem Run.heldElsewhere_none (r : Run) (d n : Nat) (h : ∀ x ∈ r.drives, x.volume ≠ some (.serial n)) :
    r.heldElsewhere d n = false := by
  have hother (e : Nat) : (r.driveAt e).serial ≠ some n := by
    have hvol : (r.driveAt e).volume ≠ some (.serial n) := by
      unfold Run.driveAt
      rw [List.getD_eq_getElem?_getD]
      cases he : r.drives[e]? with
      | none => simp [Drive.start]
      | some x => exact h x (List.mem_of_getElem? he)
    intro hs
    unfold Drive.serial at hs
    split at hs
    next m hm => exact hvol (hm.trans (congrArg (fun k => some (DriveVolume.serial k)) (Option.some.inj hs)))
    all_goals exact nomatch hs
  simp [Run.heldElsewhere, hother]

/-- A record that a serial finds has that serial (R65). -/
theorem Store.serial_of_volume (x : Store) (n : Nat) (v : Volume) (h : x.volume n = some v) : v.serial = n := by
  unfold Store.volume at h
  simpa using List.find?_some (Option.join_eq_some_iff.1 h)

/-- A platter that the Inventory records, in this drive or at another place, is recorded in the drive, whose write point is
searched where its side is not confirmed (R99). -/
theorem Run.powerLoadEnds_recorded (r : Run) (d n : Nat) (blank : Bool) (side : Side) (label : LabelSector) (v : Volume)
    (hheld : ∀ x ∈ r.drives, x.volume ≠ some (.serial n)) (hv : r.volume n = some v)
    (hin : r.volumeIn (.drive d) = none ∨ r.volumeIn (.drive d) = some v) (hconf : (v.sideRec side).confirmed = false) :
    r.powerLoadEnds d (some (.platter n blank side label)) =
      ((r.modVolume n (fun v => { v with loc := .drive d, missingOrder := none })).modDrive d (fun v =>
        { v with volume := some (.serial n), side := side, loadFor := .mount, lastSector := none,
                 loadReport := some { serial := n, blank := blank, side := side, label := labelReport side label },
                 command := some { command := .findWritePoint, buf := 0, start := 0, count := 0, pos := 0,
                                   issuedAt := r.now, discard := false } })).push (.loadReport d) := by
  have hlose : r.loseOther d (some n) = r := by
    obtain h | h := hin
    · exact r.loseOther_unrecorded d _ h
    · rw [Run.loseOther, h]
      exact if_pos (congrArg some (r.store.serial_of_volume n v hv).symm)
  have hconfirmed (f : Drive → Drive) : ((r.placeVolume n (.drive d)).modDrive d f).confirmed n side = false := by
    have hplaced : (r.placeVolume n (.drive d)).volume n = some { v with loc := .drive d, missingOrder := none } := by
      rw [Run.placeVolume, Run.volume_modVolume _ n n _ (by exact fun _ => rfl), if_pos rfl, hv]
      rfl
    show (((r.placeVolume n (.drive d)).volume n).map _).getD false = false
    rw [hplaced]
    cases side <;> exact hconf
  simp only [Run.powerLoadEnds, r.heldElsewhere_none d n hheld, Bool.false_eq_true, if_false, hlose, hv]
  rw [Run.loadMatched_unconfirmed _ d n blank side label (hconfirmed _), Run.modDrive_modDrive]
  rfl

/-- Settles O50: while another drive has still to report, neither report takes the start-up sequence on. -/
theorem powerUpLoadReportsTheDrive : Obligations.PowerUpLoadReportsTheDrive := by
  unfold Obligations.PowerUpLoadReportsTheDrive
  intro s d e c hcalm hstage _ hissued _ hd hne he hc hk hfor
  refine ⟨fun hv => ?_, fun n blank side label v hn0 hn hlabel hheld hv hin hconf => ?_⟩
  · have hwaits : (s.startup.driveReported.set d true).all id = false := by
      have hstill : (s.startup.driveReported.set d true)[e]? = some false := by
        rw [List.getElem?_set_ne (Ne.symm hne)]
        exact he
      exact List.all_eq_false.2 ⟨false, List.mem_of_getElem? hstill, Bool.false_ne_true⟩
    rw [s.powerUpLoadComplete d c _ hd rfl hc hk hfor,
      s.act_dull _ _ ((Run.of s).powerLoadEnds_empty d hissued hstage hv) hcalm]
    · rfl
    · intro t ht
      obtain rfl | rfl : t = .arm ∨ t = .startup := by simpa using ht
      · trivial
      · exact .inr ⟨hstage, hwaits⟩
  · have hwf : optWf LoadResult.wf (some (.platter n blank side label)) = true := by
      simp [optWf, LoadResult.wf, serialWf, hn0, hn, hlabel]
    rw [s.powerUpLoadComplete d c _ hd hwf hc hk hfor,
      s.act_dull _ _ ((Run.of s).powerLoadEnds_recorded d n blank side label v hheld hv hin hconf) hcalm]
    · rfl
    · intro t ht
      obtain rfl : t = .loadReport d := by simpa using ht
      trivial

/-! ### UNLOAD and RESTORE (R94, R98) -/

/-- The report of a RESTORE in progress is taken (R98). -/
theorem State.restoreComplete (s : State) (d : Nat) (c : Issued) (present : Option Bool) (hd : d < 4)
    (hc : (s.driveRec d).command = some c) (hk : c.command = .restore) (hkept : c.discard = false) :
    exec (.restoreComplete d present) s = .next (s.act (fun r => r.restored d present)) := by
  show execRestoreComplete d present s = _
  rw [execRestoreComplete, s.issued_of_command d c .restore hc hk]
  simp only [hkept, Bool.false_eq_true, if_false]
  exact outcome_wf _ _ (by simp [Instr.wf, hd])

/-- An unloaded drive waits for the arm, where its order stands and no RESTORE DRIVE has asked for the UNLOAD (R94). -/
theorem Run.unloadEnds_waits (r : Run) (d : Nat) (hd : d < r.drives.length) (hreload : (r.driveAt d).reloadNext = false)
    (hrestores : r.restores = []) :
    r.unloadEnds d = (r.modDrive d (fun v => { v with command := none, unloadAsked := false })).push .arm := by
  have hkept : ((r.modDrive d (fun v => { v with command := none, unloadAsked := false })).driveAt d).reloadNext = false := by
    rw [r.driveAt_modDrive d _ hd]
    exact hreload
  simp only [Run.unloadEnds, hkept, Bool.false_eq_true, if_false, Run.restoreOn, Run.modDrive_restores, hrestores,
    List.find?_nil]

/-- An unloaded drive whose order has ended reloads (R94). -/
theorem Run.unloadEnds_reloads (r : Run) (d n : Nat) (hd : d < r.drives.length) (hreload : (r.driveAt d).reloadNext = true)
    (hstate : (r.driveAt d).state = .unloading) (hv : (r.driveAt d).volume = some (.serial n)) :
    r.unloadEnds d =
      r.modDrive d (fun v => Drive.beginsLoad { v with command := none, unloadAsked := false } .mount r.now) := by
  have hat := r.driveAt_modDrive d (fun v => { v with command := none, unloadAsked := false }) hd
  simp only [Run.unloadEnds, hat, hreload, if_true, Run.reload, hstate, Option.isNone_none, hv, reduceCtorEq, if_false,
    Option.some.injEq, Run.beginLoad_eq]
  exact r.modDrive_modDrive d _ _

/-- A restored drive that holds a platter is out of FAULT, and its UNLOAD follows (R98). -/
theorem Run.restored_unloads (r : Run) (d : Nat) :
    r.restored d (some true) =
      { r.modDrive d (fun v =>
          { v with faultTimeout := false, faultCommand := none, state := .unloading, unloadAsked := false,
                   command := some { command := .unload, buf := 0, start := 0, count := 0, pos := 0,
                                     issuedAt := r.now, discard := false } }) with
        restores := r.restores.map (fun y =>
          if y.drive = d ∧ y.phase = .restoring then { y with phase := .unloading } else y) } := by
  simp only [Run.restored, Run.beginUnload, Run.issue, Run.modDrive_modDrive]
  rfl

/-- The arm takes no order while it is not IDLE (R71). -/
theorem Run.armStep_busy (r : Run) (h : r.picker.state ≠ .idle) : r.armStep = r := by
  have hbusy : r.armFree = false := by simp [Run.armFree, h]
  rw [Run.armStep, hbusy]
  exact if_neg Bool.false_ne_true

/-- Settles O55: an unloaded drive waits for an arm that has no order to grant, or reloads; a restored one unloads. -/
theorem unloadedDriveWaitsForItsOrder : Obligations.UnloadedDriveWaitsForItsOrder := by
  unfold Obligations.UnloadedDriveWaitsForItsOrder
  intro s d c hlen hd hc
  refine ⟨fun hk hstate => ⟨fun hreload hrestores harm => ?_, fun n hreload hv => ?_⟩, fun hk hkept => ?_⟩
  · have hends := (Run.of s).unloadEnds_waits d hlen hreload hrestores
    have hidle (u : Run) (hu : u.picker = s.picker) : u.armStep = u := by
      obtain h | h := harm
      · exact u.armStep_none (by rw [hu]; exact h)
      · exact u.armStep_busy (by rw [hu]; exact h)
    rw [s.unloadComplete hd hc true hk, s.act_then _ _ _ .arm hends rfl (hidle _ rfl) rfl rfl]
    rfl
  · rw [s.unloadComplete hd hc true hk,
      s.act_to _ _ ((Run.of s).unloadEnds_reloads d n hlen hreload hstate hv) rfl rfl]
    rfl
  · rw [s.restoreComplete d c _ hd hc hk hkept, s.act_to _ _ ((Run.of s).restored_unloads d) rfl rfl]
    rfl

end Sys2Proof.Machine

namespace Sys2Proof.Machine

open Sys2Proof.Config

/-! ### The two buffers of a drive (R87) -/

section
variable (v : Drive) (b : Nat) (f : Buffer → Buffer)

@[simp] theorem Drive.buf_modBuf : (v.modBuf b f).buf b = f (v.buf b) := by
  unfold Drive.modBuf Drive.buf
  split <;> rfl

theorem Drive.buf_modBuf_other (hb : b < 2) : (v.modBuf b f).buf (1 - b) = v.buf (1 - b) := by
  obtain rfl | rfl : b = 0 ∨ b = 1 := by omega
  all_goals rfl

@[simp] theorem Drive.modBuf_modBuf (g : Buffer → Buffer) : (v.modBuf b f).modBuf b g = v.modBuf b (fun x => g (f x)) := by
  unfold Drive.modBuf
  split <;> rfl

@[simp] theorem Drive.modBuf_state : (v.modBuf b f).state = v.state := by unfold Drive.modBuf; split <;> rfl
@[simp] theorem Drive.modBuf_command : (v.modBuf b f).command = v.command := by unfold Drive.modBuf; split <;> rfl
@[simp] theorem Drive.modBuf_rereads : (v.modBuf b f).rereads = v.rereads := by unfold Drive.modBuf; split <;> rfl
@[simp] theorem Drive.modBuf_asks : (v.modBuf b f).asks = v.asks := by unfold Drive.modBuf; split <;> rfl
@[simp] theorem Drive.modBuf_unloadAsked : (v.modBuf b f).unloadAsked = v.unloadAsked := by
  unfold Drive.modBuf; split <;> rfl

/-- A drive's command and last sector change apart from its buffers. -/
theorem Drive.modBuf_withCommand (command : Option Issued) (last : Option Nat) :
    ({ v with command := command, lastSector := last } : Drive).modBuf b f =
      { v.modBuf b f with command := command, lastSector := last } := by
  unfold Drive.modBuf
  split <;> rfl

end

/-- A change of a buffer is a change of its drive. -/
theorem Run.modBuf_eq (r : Run) (d b : Nat) (f : Buffer → Buffer) : r.modBuf d b f = r.modDrive d (fun v => v.modBuf b f) := rfl

/-! ### The end of a BURN (R93, R96, R147) -/

/-- The report of a BURN in progress is taken (R93). -/
theorem State.burnComplete (s : State) (d : Nat) (c : Issued) (ok : Bool) (hd : d < 4)
    (hc : (s.driveRec d).command = some c) (hk : c.command = .burn) :
    exec (.burnComplete d ok) s =
      .next (s.act (fun r => if ok then r.burnEnds d c else r.driveFails d false .burn)) := by
  show execBurnComplete d ok s = _
  rw [execBurnComplete, s.issued_of_command d c .burn hc hk]
  exact outcome_wf _ _ (by simp [Instr.wf, hd])

/-- The buffer whose BURN alone has completed OK is the one to verify (R93). -/
theorem Drive.toVerify_burned (v : Drive) (b : Nat) (hb : b < 2) (hstate : (v.buf b).state = .burning)
    (hburned : (v.buf b).burned = true) (hother : (v.buf (1 - b)).burned = false) : v.toVerify = some b := by
  obtain rfl | rfl : b = 0 ∨ b = 1 := by omega
  · exact if_pos ⟨hburned, hstate⟩
  · refine (if_neg fun h => ?_).trans (if_pos ⟨hburned, hstate⟩)
    exact Bool.false_ne_true (hother.symm.trans h.1)

/-- A change of a drive's record depends on what it makes of that record alone. -/
theorem Run.modDrive_congr (r : Run) (d : Nat) (f g : Drive → Drive) (h : f (r.driveAt d) = g (r.driveAt d)) :
    r.modDrive d f = r.modDrive d g :=
  congrArg (fun l : List Drive => ({ r with drives := l } : Run)) (modify_congr_getD r.drives d f g Drive.start h)

/-- A drive whose VERIFY of a buffer's range has just been issued (R93). -/
def Drive.verifies (v : Drive) (b now : Nat) : Drive :=
  { v.modBuf b (fun x => { x with state := .verifying, burned := false }) with
    command := some { command := .verify, buf := b, start := (v.buf b).start, count := (v.buf b).count, pos := 0,
                      issuedAt := now, discard := false } }

/-- A drive at work whose channel is free issues the VERIFY that is due before all else (R89, R93). -/
theorem Run.driveStep_verifies (r : Run) (d b : Nat) (hstate : (r.driveAt d).state = .busy)
    (hc : (r.driveAt d).command = none) (hv : (r.driveAt d).toVerify = some b) :
    r.driveStep d = r.modDrive d (fun v => v.verifies b r.now) := by
  simp only [Run.driveStep, hstate, hc, hv, Option.isSome_none, Bool.false_eq_true, if_false, Run.issue, Run.modBuf_eq,
    Run.modDrive_modDrive]
  exact r.modDrive_congr d _ _ rfl

/-- A drive after its BURN has completed OK: the buffer is to be verified (R93). -/
def Drive.burned (v : Drive) (c : Issued) : Drive :=
  { v.modBuf c.buf (fun b => { b with burned := true }) with
    command := none, lastSector := some (c.start + c.count - 1) }

/-- The VERIFY of a BURN is of the same range (R93). -/
theorem Drive.verifies_burned (v : Drive) (c : Issued) (now : Nat) :
    (v.burned c).verifies c.buf now =
      { v.modBuf c.buf (fun b => { b with state := .verifying, burned := false }) with
        lastSector := some (c.start + c.count - 1),
        command := some { command := .verify, buf := c.buf, start := (v.buf c.buf).start, count := (v.buf c.buf).count,
                          pos := 0, issuedAt := now, discard := false } } := by
  unfold Drive.burned Drive.verifies Drive.modBuf Drive.buf
  split <;> rfl

/-- A BURN that completes OK leaves its buffer to be verified (R93). -/
theorem Run.burnEnds_eq (r : Run) (d : Nat) (c : Issued) :
    r.burnEnds d c = (r.modDrive d (fun v => v.burned c)).push (.drive d) := by
  simp only [Run.burnEnds, Run.modBuf_eq, Run.modDrive_modDrive, Drive.modBuf_withCommand]
  rfl

/-- The holder of a drive, if it has one, is told that the drive has failed (R152). -/
def Run.tellHolder (r : Run) (d : Nat) (code : Code) : Run :=
  match (r.assignAt d).holder with
  | some j => r.push (.burnFails j code)
  | none => r

/-- A drive with a burn in one buffer, the other FREE, enters FAULT: its holder is told, the copy has failed, and a notice is
taken (R96, R147, R152). -/
theorem Run.enterFault_burning (r : Run) (d : Nat) (hs : ∀ y ∈ r.mover.streams, y.idx / 2 ≠ d)
    (hp : ∀ k, r.mover.presented = some k → k / 2 ≠ d) (timeout : Bool) (cmd : Option Command) (b i : Nat) (hb : b < 2)
    (hstate : ((r.driveAt d).buf b).state = .burning) (hserves : ((r.driveAt d).buf b).serves = some (.item i))
    (hother : (r.driveAt d).buf (1 - b) = Buffer.blank) :
    r.enterFault d timeout cmd =
      (((((r.tellHolder d (if timeout then .timeout else .driveFault)).copyResult d i .failed).modDrive d
        (fun v => v.faulted timeout cmd)).push (.driveFault d timeout))).notice (.driveFault d timeout cmd) := by
  have hfree : Buffer.blank.serves = none := rfl
  have hidle (u : Run) (hu : u.mover = r.mover) : (u.endStream (bufIdx d 0)).endStream (bufIdx d 1) = u :=
    u.endStreams_idle d (hu ▸ hs) (hu ▸ hp)
  have htold : (r.tellHolder d (if timeout then .timeout else .driveFault)).mover = r.mover := by
    unfold Run.tellHolder
    split <;> rfl
  have hends := hidle ((r.tellHolder d (if timeout then .timeout else .driveFault)).copyResult d i .failed) htold
  have hfaults := congrArg (fun u : Run => ((u.modDrive d (fun v => v.faulted timeout cmd)).push (.driveFault d timeout)).notice
    (.driveFault d timeout cmd)) hends
  obtain rfl | rfl : b = 0 ∨ b = 1 := by omega
  · have hB : (r.driveAt d).bufB = Buffer.blank := hother
    have hA : (r.driveAt d).bufA.state = .burning := hstate
    have hA' : (r.driveAt d).bufA.serves = some (.item i) := hserves
    simp only [Run.enterFault, hB, hfree, hA, hA']
    exact hfaults
  · have hA : (r.driveAt d).bufA = Buffer.blank := hother
    have hB : (r.driveAt d).bufB.state = .burning := hstate
    have hB' : (r.driveAt d).bufB.serves = some (.item i) := hserves
    simp only [Run.enterFault, hA, hfree, hB, hB']
    exact hfaults

/-- Settles O52: a BURN that completes OK is followed by its VERIFY; one with FAULT by the consequences of the drive's FAULT. -/
theorem burnsAreVerified : Obligations.BurnsAreVerified := by
  unfold Obligations.BurnsAreVerified
  intro s d c hlen hd hstate hc hk hb hburning
  refine ⟨fun hother => ?_, fun i hserves hblank hservice hrestores hs hp => ?_⟩
  · let burned : Run := (Run.of s).modDrive d (fun v => v.burned c)
    have hat : burned.driveAt d = (s.driveRec d).burned c := (Run.of s).driveAt_modDrive d _ hlen
    have hverify : ((s.driveRec d).burned c).toVerify = some c.buf := by
      refine Drive.toVerify_burned _ _ hb ?_ ?_ ?_
      · exact (congrArg Buffer.state (Drive.buf_modBuf ..)).trans hburning
      · exact (congrArg Buffer.burned (Drive.buf_modBuf ..))
      · exact (congrArg Buffer.burned (Drive.buf_modBuf_other _ _ _ hb)).trans hother
    have hstep : burned.driveStep d = burned.modDrive d (fun v => v.verifies c.buf s.now) :=
      burned.driveStep_verifies d c.buf (by rw [hat]; exact (Drive.modBuf_state ..).trans hstate) (by rw [hat]; rfl)
        (hat ▸ hverify)
    rw [Run.modDrive_modDrive] at hstep
    have hrest : ({ burned.push (.drive d) with todo := [] } : Run) = burned := rfl
    rw [s.burnComplete d c true hd hc hk, s.act_then _ _ _ (.drive d) ((Run.of s).burnEnds_eq d c) rfl
      ((congrArg (Run.consequence · _) hrest).trans hstep) rfl rfl]
    exact congrArg Host.Outcome.next (s.withDrive_congr d _ _ ((s.driveRec d).verifies_burned c s.now))
  · have hfault := (Run.of s).enterFault_burning d hs hp false (some .burn) c.buf i hb hburning hserves hblank
    rw [← (Run.of s).driveFails_unrestored d false .burn hrestores] at hfault
    have hcomplete := s.burnComplete d c false hd hc hk
    simp only [Bool.false_eq_true, if_false] at hcomplete hfault
    cases hh : ((Run.of s).assignAt d).holder
    all_goals
      rw [Run.tellHolder, hh, Run.notice_inService _ _ hservice] at hfault
      rw [hcomplete, s.act_following _ _ hfault rfl rfl rfl]
      rfl

end Sys2Proof.Machine

namespace Sys2Proof.Machine

open Sys2Proof.Config

/-! ### The Filing Unit while a copy is still to come (R145 to R147) -/

/-- The copies of an item in flight once the copy in a drive has a new state (R145, R147). -/
theorem Flight.copies_setCopy (f : Flight) (d : Nat) (x : CopyState) :
    (f.setCopy d x).copies = f.copies.map (fun y => if y.drive = d then { y with state := x } else y) := by
  unfold Flight.setCopy Flight.copies
  cases f.primary <;> cases f.safety <;> rfl

/-- The copy in another drive keeps its state (R147). -/
theorem Flight.mem_copies_setCopy (f : Flight) (d : Nat) (x : CopyState) (y : Copy) (hy : y ∈ f.copies) (hd : y.drive ≠ d) :
    y ∈ (f.setCopy d x).copies := by
  rw [f.copies_setCopy]
  exact List.mem_map.2 ⟨y, hy, if_neg hd⟩

/-- Items in flight whose copy in another drive is still to come are so after a result of the copy in one drive (R147). -/
theorem live_setCopy (flight : List Flight) (i d : Nat) (x : CopyState)
    (h : ∀ f ∈ flight, ∃ y ∈ f.copies, y.drive ≠ d ∧ (y.state = .handed ∨ y.state = .loading)) :
    ∀ g ∈ flight.map (fun f => if f.id = i then f.setCopy d x else f),
      ∃ y ∈ g.copies, y.state = .handed ∨ y.state = .loading := by
  intro g hg
  obtain ⟨f, hf, rfl⟩ := List.mem_map.1 hg
  obtain ⟨y, hy, hdrive, hcoming⟩ := h f hf
  refine ⟨y, ?_, hcoming⟩
  split
  · exact f.mem_copies_setCopy d x y hy hdrive
  · exact hy

/-- While the job in hand has no item waiting and every item in flight has a copy still loading or handed, the Filing Unit
waits (R145 to R147). -/
theorem Run.pump_waits (r : Run) (j : Job) (b : BurnJob) (p q : Nat) (hpair : r.store.pair = .active p q .a)
    (hj : r.inHand = some j) (hrun : j.state = .running) (hb : r.burnAt j.id = some b) (hwaiting : b.waiting = [])
    (hfailing : b.failing = none) (hne : r.filing.flight ≠ [])
    (hlive : ∀ f ∈ r.filing.flight, ∃ y ∈ f.copies, y.state = .handed ∨ y.state = .loading) : r.pump = r := by
  have hunsettled : r.filing.flight.find? (fun f => f.settled) = none := by
    refine List.find?_eq_none.2 fun f hf hs => ?_
    obtain ⟨y, hy, hstate⟩ := hlive f hf
    have := List.all_eq_true.1 hs y hy
    obtain h | h := hstate <;> simp [h] at this
  have hpipeline : r.pipeline j b p q .a = r := by
    cases hflight : r.filing.flight with
    | nil => exact absurd hflight hne
    | cons f fs =>
      have hnot : f.loaded = false := by
        obtain ⟨y, hy, hstate⟩ := hlive f (hflight ▸ List.mem_cons_self ..)
        refine List.all_eq_false.2 ⟨y, hy, ?_⟩
        obtain h | h := hstate <;> simp [h]
      simp [Run.pipeline, Run.prepare, hpair, hwaiting, hflight, hnot]
  have hfly : r.filing.flight.isEmpty = false := by simpa using hne
  have hside : r.store.pair.pair = some (p, q, .a) := by rw [hpair]; rfl
  unfold Run.pump
  rw [hunsettled]
  simp only [hj, hb, hpair, hrun, hfailing]
  simp only [reduceCtorEq, decide_false, Option.isSome_none, Bool.or_false, Bool.false_eq_true, if_false, and_false, hfly,
    hside]
  cases j.pair with
  | none => rfl
  | some n =>
    dsimp only
    rw [hpipeline]
    exact ite_self r

/-! ### The end of a VERIFY (R93, R147) -/

/-- A drive whose VERIFY has completed: its buffer is FREE (R93). -/
def Drive.verified (v : Drive) (b : Nat) : Drive :=
  { v.modBuf b (fun _ => Buffer.blank) with command := none, rereads := v.rereads.filter (fun x => x.1 != b) }

/-- Where the other buffer is FREE too, so are both once the VERIFY has completed (R93). -/
theorem Drive.verified_blank (v : Drive) (b : Nat) (hb : b < 2) (h : v.buf (1 - b) = Buffer.blank) :
    (v.verified b).bufA = Buffer.blank ∧ (v.verified b).bufB = Buffer.blank := by
  obtain rfl | rfl : b = 0 ∨ b = 1 := by omega
  · exact ⟨rfl, h⟩
  · exact ⟨h, rfl⟩

/-- A VERIFY whose buffer has no stream frees the buffer and gives the copy its result (R93, R147). -/
theorem Run.verifyEnds_item (r : Run) (d i : Nat) (c : Issued) (x : CopyState)
    (hserves : ((r.driveAt d).buf c.buf).serves = some (.item i))
    (hs : ∀ y ∈ r.mover.streams, y.idx ≠ bufIdx d c.buf) (hp : r.mover.presented ≠ some (bufIdx d c.buf)) :
    r.verifyEnds d c x = ((r.modDrive d (fun v => v.verified c.buf)).copyResult d i x).push (.drive d) := by
  have hitem : ((r.driveAt d).buf c.buf).item = some i := by rw [Buffer.item, hserves]
  have hfree : (r.commandOver d).freeBuffer d c.buf = r.modDrive d (fun v => v.verified c.buf) := by
    rw [Run.freeBuffer, Run.endStream_idle (r.commandOver d) _ hs hp, Run.commandOver, Run.modDrive_modDrive]
    refine congrArg (r.modDrive d) (funext fun v => ?_)
    unfold Drive.verified Drive.modBuf
    split <;> rfl
  simp only [Run.verifyEnds, hitem, hfree]

/-- The report of a VERIFY in progress is taken (R93). -/
theorem State.verifyComplete (s : State) (d : Nat) (c : Issued) (result : VerifyResult) (copied : CopyState) (hd : d < 4)
    (hc : (s.driveRec d).command = some c) (hk : c.command = .verify)
    (hresult : (result = .pass ∧ copied = .passed) ∨ (result = .fail ∧ copied = .failed)) :
    exec (.verifyComplete d result) s = .next (s.act (fun r => r.verifyEnds d c copied)) := by
  have hwf : (Instr.verifyComplete d result).wf = true := by simp [Instr.wf, hd]
  show execVerifyComplete d result s = _
  rw [execVerifyComplete, s.issued_of_command d c .verify hc hk, outcome_wf _ _ hwf]
  obtain ⟨rfl, rfl⟩ | ⟨rfl, rfl⟩ := hresult <;> rfl

/-! ### A drive whose work is over (R86, R108) -/

/-- A drive at work with nothing left to do is READY (R86). -/
theorem Run.driveStep_over (r : Run) (d : Nat) (hstate : (r.driveAt d).state = .busy) (hc : (r.driveAt d).command = none)
    (hA : (r.driveAt d).bufA = Buffer.blank) (hB : (r.driveAt d).bufB = Buffer.blank)
    (hrereads : (r.driveAt d).rereads = []) (hasks : (r.driveAt d).asks = []) (hask : (r.driveAt d).unloadAsked = false) :
    r.driveStep d =
      ((r.modDrive d (fun v => { v with state := .ready, readySince := r.now })).push (.driveReady d)).wantPass := by
  have hverify : (r.driveAt d).toVerify = none := by simp [Drive.toVerify, hA, hB, Buffer.blank]
  have hburn : (r.driveAt d).toBurn = none := by simp [Drive.toBurn, hA, hB, Buffer.blank]
  have hread : (r.driveAt d).nextAsk = none := by simp [Drive.nextAsk, hasks]
  have hfree : (r.driveAt d).buffersFree = true := by simp [Drive.buffersFree, hA, hB, Buffer.blank]
  rw [← r.becomeReady_unasked d hask]
  simp [Run.driveStep, hstate, hc, hverify, hrereads, hburn, hread, hfree]

/-- An assignment record with no task, no FLIP, no departure, no exchange coming in and no label check (R105). -/
def Assign.Idle (a : Assign) : Prop :=
  a.tasks = [] ∧ a.flip = none ∧ a.departure = none ∧ a.incoming = none ∧ a.label = none

/-- Where every record is idle, that of each drive is. -/
theorem Run.assignAt_idle (r : Run) (h : ∀ x ∈ r.sched.assigns, x.Idle) (d : Nat) : (r.assignAt d).Idle := by
  unfold Run.assignAt
  rw [List.getD_eq_getElem?_getD]
  cases ha : r.sched.assigns[d]? with
  | none => exact ⟨rfl, rfl, rfl, rfl, rfl⟩
  | some a => exact h a (List.mem_of_getElem? ha)

/-- A change that leaves a drive's assignment record as it is changes nothing. -/
theorem Run.modAssign_self (r : Run) (d : Nat) (f : Assign → Assign) (h : f (r.assignAt d) = r.assignAt d) :
    r.modAssign d f = r := by
  have hlist : r.sched.assigns.modify d f = r.sched.assigns := by
    rw [modify_congr_getD r.sched.assigns d f id Assign.clear h, List.modify_id]
  unfold Run.modAssign
  rw [hlist]

/-- A record with no exchange coming in is that record. -/
theorem Assign.without_incoming (a : Assign) (h : a.incoming = none) : { a with incoming := none } = a := by rw [← h]

/-- A drive that is READY, past step 5 of power-up and with no exchange coming in: its tasks, its departure and the Filing
Unit are looked at (R108). -/
theorem Run.driveReady_idle (r : Run) (d : Nat) (hstage : r.startup.stage ≠ .drives) (h : (r.assignAt d).Idle) :
    r.driveReady d = (((r.push (.placeTasks d)).push (.depart d)).push .pump).wantPass := by
  obtain ⟨-, -, -, hincoming, -⟩ := h
  unfold Run.driveReady
  dsimp only
  rw [r.modAssign_self d _ (by rw [hincoming]; exact Assign.without_incoming _ hincoming), r.driveReports_late d hstage]

/-- What a drive that is READY causes (R108). -/
def Todo.ofReady : Todo → Prop
  | .driveReady _ => True
  | .placeTasks _ => True
  | .depart _ => True
  | .pump => True
  | _ => False

/-- Where the assignment records are idle and the Filing Unit waits, a drive that is READY finds nothing to do (R108). -/
theorem Run.consequence_ofReady (p : Parts) (hstage : p.startup.stage ≠ .drives) (hidle : ∀ x ∈ p.sched.assigns, x.Idle)
    (hpump : ∀ u : Run, u.toParts = p → u.pump = u) (r : Run) (t : Todo) (hr : r.toParts = p) (ht : t.ofReady)
    (hd : ∀ x ∈ r.todo, x.ofReady) : (r.consequence t).toParts = p ∧ ∀ x ∈ (r.consequence t).todo, x.ofReady := by
  have hassign (d : Nat) : (r.assignAt d).Idle := r.assignAt_idle (hr ▸ hidle) d
  have hpush (u : Run) (x : Todo) (hu : ∀ y ∈ u.todo, y.ofReady) (hx : x.ofReady) : ∀ y ∈ (u.push x).todo, y.ofReady := by
    intro y hy
    obtain hy | hy := List.mem_append.1 hy
    · exact hu y hy
    · exact List.mem_singleton.1 hy ▸ hx
  cases t with
  | driveReady d =>
    have hready := r.driveReady_idle d (hr ▸ hstage) (hassign d)
    refine ⟨(congrArg Run.toParts hready).trans hr, ?_⟩
    rw [show r.consequence (.driveReady d) = _ from hready]
    exact hpush _ _ (hpush _ _ (hpush r _ hd trivial) trivial) trivial
  | placeTasks d =>
    obtain ⟨htasks, -⟩ := hassign d
    obtain h | h := r.placeTasks_idle d htasks
    · rw [show r.consequence (.placeTasks d) = r from h]
      exact ⟨hr, hd⟩
    · rw [show r.consequence (.placeTasks d) = r.push (.depart d) from h]
      exact ⟨hr, hpush r _ hd trivial⟩
  | depart d =>
    obtain ⟨-, hflip, hdeparture, -⟩ := hassign d
    rw [show r.consequence (.depart d) = r from r.depart_idle d hflip hdeparture]
    exact ⟨hr, hd⟩
  | pump =>
    rw [show r.consequence .pump = r from hpump r hr]
    exact ⟨hr, hd⟩
  | _ => exact False.elim ht

/-- Settles O53: the copy's result is the VERIFY's own change; the Filing Unit then waits for the other copies and the drive,
with nothing left to do, is READY. -/
theorem verifyGivesTheCopyItsResult : Obligations.VerifyGivesTheCopyItsResult := by
  unfold Obligations.VerifyGivesTheCopyItsResult
  intro s d i c result copied hlen hd hc hk hb hserves hs hp hresult drive flight
  have hstreams : ∀ y ∈ s.mover.streams, y.idx ≠ bufIdx d c.buf := by simpa [bufIdx] using hs
  have hends := (Run.of s).verifyEnds_item d i c copied hserves hstreams hp
  have hexec : exec (.verifyComplete d result) s =
      .next (State.following { drive id with filing := { s.filing with flight := flight } } [.pump, .drive d] false) := by
    rw [s.verifyComplete d c result copied hd hc hk hresult, s.act_following _ _ hends rfl rfl rfl]
    rfl
  refine ⟨hexec, fun j b p q hstage hqueues hpair hj hrun hburn hwaiting hfailing hne hhanded hassigns hstate hother
    hrereads hasks hask => ?_⟩
  let told : State := { drive id with filing := { s.filing with flight := flight } }
  have hlive : ∀ f ∈ told.filing.flight, ∃ y ∈ f.copies, y.state = .handed ∨ y.state = .loading := by
    refine live_setCopy s.filing.flight i d copied fun f hf => ?_
    obtain ⟨y, hy, hdrive, hy'⟩ := hhanded f hf
    exact ⟨y, hy, hdrive, .inl hy'⟩
  have hflight : told.filing.flight ≠ [] := fun h => hne (List.map_eq_nil_iff.1 h)
  have hpump (u : Run) (hsched : u.sched = s.sched) (hstore : u.store = s.store) (hfiling : u.filing = told.filing) :
      u.pump = u := by
    refine u.pump_waits j b p q ?_ ?_ hrun ?_ hwaiting hfailing ?_ ?_
    · rw [hstore]; exact hpair
    · rw [Run.inHand, hsched]; exact hj
    · rw [Run.burnAt, hfiling]; exact hburn
    · rw [hfiling]; exact hflight
    · rw [hfiling]; exact hlive
  have hstill : ((Run.of told).listing [.drive d]).consequence .pump = (Run.of told).listing [.drive d] :=
    hpump _ rfl rfl rfl
  let v : Drive := (s.driveRec d).verified c.buf
  have hat : (Run.of told).driveAt d = v := (Run.of s).driveAt_modDrive d _ hlen
  obtain ⟨hA, hB⟩ : v.bufA = Buffer.blank ∧ v.bufB = Buffer.blank := Drive.verified_blank _ _ hb hother
  have hv : v.state = .busy ∧ v.rereads = [] ∧ v.asks = [] ∧ v.unloadAsked = false := by
    simp [v, Drive.verified, hstate, hrereads, hasks, hask]
  obtain ⟨hbusy, hnone, hfree, hunasked⟩ := hv
  let ready : Run := (((Run.of told).modDrive d (fun v => { v with state := .ready, readySince := s.now })).push
    (.driveReady d)).wantPass
  have hready : ((Run.of told).listing []).consequence (.drive d) = ready :=
    Run.driveStep_over _ d (hat ▸ hbusy) (hat ▸ rfl) (hat ▸ hA) (hat ▸ hB) (hat ▸ hnone) (hat ▸ hfree) (hat ▸ hunasked)
  have hsettled : (Run.settle 999998 ready).toParts = ready.toParts := by
    refine Run.settle_still Todo.ofReady ready.toParts (fun u t hu => Run.consequence_ofReady ready.toParts hstage hassigns
      (fun u hu => ?_) u t hu) (.inl hqueues) _ ready rfl fun t ht => ?_
    · exact hpump u (congrArg (·.sched) hu) (congrArg (·.store) hu) (congrArg (·.filing) hu)
    · exact List.mem_singleton.1 ht ▸ trivial
  have hfuel : fuel = 999998 + 1 + 1 := rfl
  have hfollows : Run.settle fuel ((Run.of told).listing [.pump, .drive d]) = Run.settle 999998 ready := by
    rw [hfuel, Run.settle_listing _ _ _ _ _ hstill, Run.settle_listing _ _ _ _ _ hready]
  have hmerged : ready.toParts =
      { s.toParts with
        drives := s.drives.modify d (fun v => { v.verified c.buf with state := .ready, readySince := s.now }),
        filing := { s.filing with flight := flight } } :=
    congrArg (fun l : List Drive => ({ s.toParts with drives := l, filing := { s.filing with flight := flight } } : Parts))
      (List.modify_modify_eq ..)
  rw [hexec]
  refine congrArg Host.Outcome.next ?_
  show told.withRun (Run.settle fuel ((Run.of told).listing [.pump, .drive d])) = _
  rw [hfollows, State.withRun, hsettled, hmerged]
  rfl

end Sys2Proof.Machine

namespace Sys2Proof.Machine

open Sys2Proof.Config

/-! ### Streams that change and end (R88) -/

/-- The record of a number in a list, after a change of the records of that number that keeps it. -/
theorem find?_map_keyed {α : Type} (l : List α) (key : α → Nat) (n : Nat) (g : α → α) (hg : ∀ x, key (g x) = key x) :
    (l.map (fun x => if key x = n then g x else x)).find? (fun x => key x == n) =
      (l.find? (fun x => key x == n)).map g := by
  have hkeeps : (fun x => key x == n) ∘ (fun x => if key x = n then g x else x) = fun x => key x == n := by
    funext x
    by_cases hx : key x = n <;> simp [hx, hg]
  rw [List.find?_map, hkeeps]
  cases hfound : l.find? (fun x => key x == n) with
  | none => rfl
  | some x => exact congrArg some (if_pos (by simpa using List.find?_some hfound))

/-- The stream of a buffer after a change of it (R88). -/
theorem Run.streamAt_modStream (r : Run) (i : Nat) (f : Stream → Stream) (hf : ∀ y, (f y).idx = y.idx) :
    (r.modStream i f).streamAt i = (r.streamAt i).map f :=
  find?_map_keyed r.mover.streams (·.idx) i f hf

/-- The streams of the other buffers after a change of one (R88). -/
theorem streams_filter_map (l : List Stream) (i : Nat) (f : Stream → Stream) (hf : ∀ y, (f y).idx = y.idx) :
    (l.map (fun y => if y.idx = i then f y else y)).filter (fun y => y.idx != i) = l.filter (fun y => y.idx != i) := by
  induction l with
  | nil => rfl
  | cons y ys ih => by_cases hy : y.idx = i <;> simp [hy, hf, ih]

/-- The Frame Mover's presentation causes nothing (R88). -/
theorem Run.presentNext_listed (r : Run) : r.presentNext.todo = r.todo ∧ r.presentNext.pass = r.pass := by
  obtain h | ⟨i, -, h⟩ := r.presentNext_cases <;> rw [h] <;> exact ⟨rfl, rfl⟩

/-- A stream that ends, with no transfer of the Frame Mover waiting or in the port, leaves its list (R88). -/
theorem Run.endStream_free (r : Run) (i : Nat) (hport : r.path.port = .free) (hp : r.mover.presented = none) :
    r.endStream i = { r with mover := { r.mover with streams := r.mover.streams.filter (fun y => y.idx != i) } } := by
  have hself : ({ r.path with port := .free } : PathUnit) = r.path := by rw [← hport]
  have hwaits : (r.mover.presented == some i) = false := by rw [hp]; rfl
  unfold Run.endStream
  dsimp only
  rw [hwaits, hport]
  dsimp only
  rw [hself, if_neg Bool.false_ne_true]
  rfl

/-! ### The last read of a loading stream (R88, R145) -/

/-- A loading stream after one more read (R88). -/
def Stream.reads (st : Stream) (bytes : List Byte) : Stream :=
  { st with done := st.done + 1, acc := st.acc ++ bytes, pos := 1 + (st.acc ++ bytes).length / sectorBytes }

/-- The stream of a buffer after one more read of it (R88). -/
theorem Run.streamAt_streamMoved (r : Run) (st : Stream) (bytes : List Byte) (h : r.streamAt st.idx = some st) :
    (r.streamMoved st bytes).streamAt st.idx = some (st.reads bytes) := by
  refine (r.streamAt_modStream st.idx (fun y => { y with
    done := y.done + 1, acc := st.acc ++ bytes, pos := 1 + (st.acc ++ bytes).length / sectorBytes }) fun _ => rfl).trans ?_
  rw [h]
  rfl

/-- The last read of a loading stream completes without a parity fault: the Frame Mover presents its next transfer, and the
buffer is loaded (R88). -/
theorem State.completeAccess_loading (s : State) (st : Stream) (hport : s.path.port = .mover .frameMover (.stream st.idx))
    (hst : s.mover.streams.find? (fun y => y.idx == st.idx) = some st) (hl : st.loading = true)
    (hlast : st.done + 1 = st.total) (a n : Nat) (hread : (Run.of s).streamRead st = (a, n))
    (hgood : s.mem.faults a n = false) :
    s.completeAccess [] = s.freePort.act (fun r =>
      ((r.streamMoved st (s.mem.readBytes a n)).push .present).streamLoaded (st.reads (s.mem.readBytes a n))) := by
  have hat : (Run.of s.freePort).streamAt st.idx = some st := hst
  have hmove : s.completeAccess [] = s.freePort.completeStream st.idx [] := by
    unfold State.completeAccess
    rw [hport]
  have hread' : (Run.of s.freePort).streamRead st = (a, n) := hread
  have hmem : s.freePort.mem = s.mem := rfl
  have hmoved : (((Run.of s.freePort).streamMoved st (s.mem.readBytes a n)).push .present).streamAt st.idx =
      some (st.reads (s.mem.readBytes a n)) := Run.streamAt_streamMoved _ st _ hat
  rw [hmove]
  unfold State.completeStream
  rw [hat]
  simp only [hl, if_true, hread', State.learn_nil, hmem, hgood, Bool.false_eq_true, if_false]
  refine State.act_congr _ _ _ ?_
  rw [if_pos hlast.ge, hmoved]

/-- The access in the port is the last read of a stream that loads a drive's buffer (R88). -/
theorem State.lastOfLoad_loading (s : State) (st : Stream) (d : Nat)
    (hport : s.path.port = .mover .frameMover (.stream st.idx))
    (hst : s.mover.streams.find? (fun y => y.idx == st.idx) = some st) (hl : st.loading = true)
    (hlast : st.done + 1 = st.total) (hd : st.idx / 2 = d) : s.lastOfLoad d = true := by
  have hin : s.streamInPort = some st := by
    unfold State.streamInPort State.moving
    rw [hport]
    exact hst
  unfold State.lastOfLoad
  rw [hin]
  simp [hl, hlast, hd]

/-- The sectors of a page's buffer: its image, zero-filled beyond the image's end (R88). -/
def pageSectors (imageLen : Nat) (bytes : List Byte) : List SectorRead :=
  (List.range (ceilDiv imageLen 1024)).map (fun i =>
    { report := .clean, data := zeroBeyond imageLen (1024 * i) (bytes.drop (1024 * i)) })

/-- A drive whose buffer A holds these sectors beside the header (R87, R88). -/
def Drive.holding (v : Drive) (sectors : List SectorRead) (n : Nat) : Drive :=
  { v with bufA := { v.bufA with positions := v.bufA.positions.take 1 ++ sectors, moved := n } }

/-- A page's stream into buffer A is over: the buffer holds the page and the copy is loaded (R88, R145). -/
theorem Run.streamLoaded_page (r : Run) (st : Stream) (d i : Nat) (hidx : st.idx = 2 * d) (hport : r.path.port = .free)
    (hp : r.mover.presented = none) (hframe : 0 < st.frame) (hserves : (r.driveAt d).bufA.serves = some (.item i)) :
    r.streamLoaded st =
      Run.copyResult { r.modDrive d (fun v => v.holding (pageSectors (r.frameAt st.frame).imageLen st.acc)
          (ceilDiv (r.frameAt st.frame).imageLen 1024)) with
        mover := { r.mover with streams := r.mover.streams.filter (fun y => y.idx != st.idx) } } d i .loaded := by
  have hdrive : st.idx / 2 = d := by omega
  have hbuf : st.idx % 2 = 0 := by omega
  have hitem : ((r.driveAt d).buf 0).item = some i := by
    have hbufA : (r.driveAt d).buf 0 = (r.driveAt d).bufA := rfl
    rw [hbufA, Buffer.item, hserves]
  unfold Run.streamLoaded
  simp only [hdrive, hbuf, hitem, r.endStream_free st.idx hport hp, if_neg (Nat.pos_iff_ne_zero.1 hframe)]
  rfl

/-- The last read of a page's stream into buffer A loads the buffer, beside the Frame Mover's next presentation (R88,
R145). -/
theorem Run.streamMoved_loaded (r : Run) (st : Stream) (bytes : List Byte) (d i : Nat) (hidx : st.idx = 2 * d)
    (hd : d < r.drives.length) (hport : r.path.port = .free) (hp : r.mover.presented = none) (hframe : 0 < st.frame)
    (hserves : (r.driveAt d).bufA.serves = some (.item i)) :
    ((r.streamMoved st bytes).push .present).streamLoaded (st.reads bytes) =
      Run.copyResult { r.modDrive d (fun v => v.holding (pageSectors (r.frameAt st.frame).imageLen (st.acc ++ bytes))
          (ceilDiv (r.frameAt st.frame).imageLen 1024)) with
        mover := { r.mover with streams := r.mover.streams.filter (fun y => y.idx != st.idx) },
        todo := r.todo ++ [.present] } d i .loaded := by
  let moving (v : Drive) : Drive := v.modBuf 0 (fun b => { b with moved := (st.acc ++ bytes).length / sectorBytes })
  let moved : Run := (r.streamMoved st bytes).push .present
  have hmoved : moved.drives = (r.modDrive d moving).drives := by
    have hdrive : st.idx / 2 = d := by omega
    have hbuf : st.idx % 2 = 0 := by omega
    rw [← hdrive]
    show r.drives.modify _ (fun v => v.modBuf (st.idx % 2) _) = _
    rw [hbuf]
    rfl
  have hat : moved.driveAt d = moving (r.driveAt d) := by
    rw [Run.driveAt, hmoved]
    exact r.driveAt_modDrive d moving hd
  have hloaded := moved.streamLoaded_page (st.reads bytes) d i hidx hport hp hframe (by rw [hat]; exact hserves)
  rw [show moved.streamLoaded (st.reads bytes) = _ from hloaded]
  refine congrArg₂ (fun streams drives => Run.copyResult { r with
    mover := { r.mover with streams := streams }, drives := drives, todo := r.todo ++ [.present] } d i .loaded)
    (streams_filter_map r.mover.streams st.idx _ fun _ => rfl) ?_
  show moved.drives.modify d _ = _
  rw [hmoved]
  exact List.modify_modify_eq ..

/-- Settles O54: the last read loads the buffer; the Frame Mover then presents its next transfer, and the Filing Unit waits
while the other copy is still loading. -/
theorem loadedBufferHoldsThePage : Obligations.LoadedBufferHoldsThePage := by
  unfold Obligations.LoadedBufferHoldsThePage
  intro s st d i hlen hd hidx hport hst hp hl hlast hframe hserves len n bytes sectors loaded hgood
  have hread : (Run.of s).streamRead st = (131072 * st.frame + 32 * st.done, n) := rfl
  have hloads := (Run.of s.freePort).streamMoved_loaded st
    (s.mem.readBytes (131072 * st.frame + 32 * st.done) n) d i hidx hlen rfl hp hframe hserves
  have hexec : exec (.bufferLoaded d []) s = .next (loaded.following [.present, .pump] false) := by
    have hwf : (Instr.bufferLoaded d []).wf = true := by simp [Instr.wf, hd]
    show execBufferLoaded d [] s = _
    rw [execBufferLoaded, outcome_wf _ _ hwf, if_pos (s.lastOfLoad_loading st d hport hst hl hlast (by omega)),
      s.completeAccess_loading st hport hst hl hlast _ _ hread hgood, State.act_following _ _ _ hloads rfl rfl rfl]
    rfl
  refine ⟨hexec, fun f j b y p q hflight hy hdrive hloading hpair hj hrun hburn hwaiting hfailing => ?_⟩
  have hlive : ∀ g ∈ loaded.filing.flight, ∃ y ∈ g.copies, y.state = .handed ∨ y.state = .loading := by
    refine live_setCopy s.filing.flight i d .loaded fun g hg => ?_
    obtain rfl : g = f := by rw [hflight] at hg; exact List.mem_singleton.1 hg
    exact ⟨y, hy, hdrive, .inr hloading⟩
  have hne : loaded.filing.flight ≠ [] := fun h => by simpa [hflight] using List.map_eq_nil_iff.1 h
  let presented : Run := ((Run.of loaded).listing [.pump]).presentNext
  have hparts : presented.toParts = loaded.presenting.toParts :=
    ((Run.of loaded).listing [.pump]).presentNext_parts (Run.of loaded) rfl
  obtain ⟨htodo, hpass⟩ : presented.todo = [.pump] ∧ presented.pass = false := Run.presentNext_listed _
  have hsettled : (Run.settle 999999 presented).toParts = loaded.presenting.toParts := by
    refine Run.settle_fixed _ _ presented hparts hpass fun t ht u hu => ?_
    obtain rfl : t = .pump := List.mem_singleton.1 (htodo ▸ ht)
    refine u.pump_waits j b p q ?_ ?_ hrun ?_ hwaiting hfailing ?_ ?_
    · rw [hu]; exact hpair
    · rw [Run.inHand, hu]; exact hj
    · rw [Run.burnAt, hu]; exact hburn
    · rw [hu]; exact hne
    · rw [hu]; exact hlive
  have hfuel : fuel = 999999 + 1 := rfl
  have hfollows : Run.settle fuel ((Run.of loaded).listing [.present, .pump]) = Run.settle 999999 presented := by
    rw [hfuel, Run.settle_listing _ _ presented _ _ rfl]
  rw [hexec]
  refine congrArg Host.Outcome.next ?_
  show loaded.withRun (Run.settle fuel ((Run.of loaded).listing [.present, .pump])) = _
  rw [hfollows, State.withRun, hsettled]
  rfl

end Sys2Proof.Machine

namespace Sys2Proof.Machine

open Sys2Proof.Config

/-! ### Judging records and the correction log (R158, R162) -/

/-- The Media Check Unit with a change of the judging record of a frame (R158). -/
def MediaCheck.judges (m : MediaCheck) (frame : Nat) (g : Judging → Judging) : MediaCheck :=
  { m with judging := m.judging.map (fun j => if j.frame = frame then g j else j) }

/-- Two changes of the judging record of a frame, one after the other, are one. -/
theorem MediaCheck.judges_judges (m : MediaCheck) (n : Nat) (f g : Judging → Judging) (hf : ∀ j, (f j).frame = j.frame) :
    (m.judges n f).judges n g = m.judges n (fun j => g (f j)) := by
  unfold MediaCheck.judges
  rw [List.map_map]
  refine congrArg (fun l => ({ m with judging := l } : MediaCheck)) (List.map_congr_left fun j _ => ?_)
  by_cases hj : j.frame = n <;> simp [hj, hf]

/-- Two changes of a judging record, one after the other, are one. -/
theorem Run.modJudging_modJudging (r : Run) (n : Nat) (f g : Judging → Judging) (hf : ∀ j, (f j).frame = j.frame) :
    (r.modJudging n f).modJudging n g = r.modJudging n (fun j => g (f j)) :=
  congrArg (fun m => ({ r with media := m } : Run)) (r.media.judges_judges n f g hf)

/-- An entry of a log with room, below the counter's largest value (R162). -/
theorem MediaCheck.logEntry_room (m : MediaCheck) (loc : Location) (reads : Nat) (corrected : Bool) (syndrome : Nat)
    (hcounter : m.counter < 4294967295) (hlog : m.log.length < 32) :
    m.logEntry loc reads corrected syndrome =
      { m with
        counter := m.counter + 1,
        log := m.log ++ [{ seq := m.counter + 1, loc := loc, reads := reads, corrected := corrected, syndrome := syndrome,
                           mark := .none }] } := by
  have hcount : m.counter ≠ max32 := Nat.ne_of_lt hcounter
  have hroom : decide (logRoom ≤ m.log.length) = false := decide_eq_false (Nat.not_le.2 hlog)
  unfold MediaCheck.logEntry
  simp only [if_neg hcount, hroom, Bool.false_eq_true, if_false]

/-! ### Judgements delivered (R161, R162) -/

/-- A position judged clean (R159). -/
theorem Run.deliver_clean (r : Run) (d b : Nat) (t : Task) (p reads syn : Nat) (hp : 0 < p) :
    r.deliver d b t p reads syn .clean = (r.modJudging t.frame (fun j => j.put p .clean)).push .present :=
  if_neg (Nat.pos_iff_ne_zero.1 hp)

/-- A header judged clean goes to the Retrieval Unit (R127, R158). -/
theorem Run.deliver_clean_header (r : Run) (d b : Nat) (t : Task) (reads syn : Nat) :
    r.deliver d b t 0 reads syn .clean =
      ((r.modJudging t.frame (fun j => j.put 0 .clean)).push .present).examineHeader d t (r.posData d b 0) := rfl

/-- The Media Check Unit once a data position is judged, with its log entry (R161, R162). -/
def MediaCheck.judgedAt (m : MediaCheck) (frame : Nat) (e : LogEntry) (g : Judging → Judging) : MediaCheck :=
  { m with
    counter := e.seq, log := m.log ++ [e], judging := m.judging.map (fun j => if j.frame = frame then g j else j) }

section
variable (r : Run) (d b : Nat) (t : Task) (p reads syn : Nat) (hcounter : r.media.counter < 4294967295)
  (hlog : r.media.log.length < 32)
include hcounter hlog

/-- The Frame Mover is told of a judgement, and the log has its entry, whose number the judging record notes (R162). -/
theorem Run.judge_logged (corrected : Bool) (x : Judged) (g : Judging → Judging) (u : Run) (m : MediaCheck)
    (hu : u = (r.modJudging t.frame (fun j => j.put p x)).push .present)
    (hm : m = u.media.logEntry (posLocation t.loc p) reads corrected syn) :
    (({ u with media := m } : Run).modJudging t.frame (fun j => { j with entries := j.entries ++ [m.counter] })).modJudging
        t.frame g =
      { r with
        media := r.media.judgedAt t.frame
          { seq := r.media.counter + 1, loc := posLocation t.loc p, reads := reads, corrected := corrected,
            syndrome := syn, mark := .none }
          (fun j => g { j.put p x with entries := j.entries ++ [r.media.counter + 1] }),
        todo := r.todo ++ [.present] } := by
  subst hu
  obtain rfl := hm.trans (MediaCheck.logEntry_room _ _ _ _ _ hcounter hlog)
  refine (Run.modJudging_modJudging _ _ _ _ ?_).trans ?_
  · exact fun _ => rfl
  have hall := congrArg (fun v : Run => v.media.judging)
    (r.modJudging_modJudging t.frame (fun j => j.put p x)
      (fun j => g { j with entries := j.entries ++ [r.media.counter + 1] }) fun _ => rfl)
  exact congrArg (fun l => ({ r with
    media := { r.media.judgedAt t.frame
      { seq := r.media.counter + 1, loc := posLocation t.loc p, reads := reads, corrected := corrected, syndrome := syn,
        mark := .none } id with judging := l },
    todo := r.todo ++ [.present] } : Run)) hall

/-- A data position corrected: the log has an entry, and the read's tally and the side's count rise (R161, R162). -/
theorem Run.deliver_corrected (hp : 0 < p) :
    r.deliver d b t p reads syn .corrected =
      Run.modVolume { r with
        media := r.media.judgedAt t.frame
          { seq := r.media.counter + 1, loc := posLocation t.loc p, reads := reads, corrected := true, syndrome := syn,
            mark := .none }
          (fun j => { j.put p .corrected with entries := j.entries ++ [r.media.counter + 1], tally := j.tally + 1 }),
        todo := r.todo ++ [.present] } t.loc.serial
        (fun v => v.modSide t.loc.side (fun x => { x with corrected := satInc 65535 x.corrected })) :=
  (if_neg (Nat.pos_iff_ne_zero.1 hp)).trans (congrArg (fun u : Run => u.modVolume t.loc.serial
    (fun v => v.modSide t.loc.side (fun x => { x with corrected := satInc 65535 x.corrected })))
    (r.judge_logged t p reads syn hcounter hlog true .corrected (fun j => { j with tally := j.tally + 1 }) _ _ rfl rfl))

/-- A data position given up: the log has an entry, and the read has an uncorrectable position (R161, R162). -/
theorem Run.deliver_uncorrectable (hp : 0 < p) :
    r.deliver d b t p reads syn .uncorrectable =
      { r with
        media := r.media.judgedAt t.frame
          { seq := r.media.counter + 1, loc := posLocation t.loc p, reads := reads, corrected := false, syndrome := syn,
            mark := .none }
          (fun j => { j.put p .uncorrectable with entries := j.entries ++ [r.media.counter + 1], uncorrectable := true }),
        todo := r.todo ++ [.present] } :=
  (if_neg (Nat.pos_iff_ne_zero.1 hp)).trans
    (r.judge_logged t p reads syn hcounter hlog false .uncorrectable (fun j => { j with uncorrectable := true }) _ _ rfl rfl)

end

end Sys2Proof.Machine

namespace Sys2Proof.Machine

open Sys2Proof.Config

/-! ### Reports judged (R159, R160) -/

section
variable (r : Run) (d b : Nat) (t : Task) (p : Nat)

/-- A first report with a syndrome, while reads are left: the position is pending, to be read again (R159). -/
theorem Run.judgeFirst_syndrome (syn : Nat) (h : 0 < r.settings.retry) :
    r.judgeFirst d b t p (.syndrome syn) =
      (r.modJudging t.frame (fun j => j.put p (.pending 1 syn))).modDrive d
        (fun v => { v with rereads := v.rereads ++ [(b, p)] }) :=
  if_neg (Nat.pos_iff_ne_zero.1 h)

variable (reads latest syn : Nat)

/-- Another syndrome, while reads are left: the position stays pending, to be read again (R160). -/
theorem Run.judgeReread_again (hne : syn ≠ latest) (hleft : reads < r.settings.retry) :
    r.judgeReread d b t p reads latest (.syndrome syn) =
      (r.modJudging t.frame (fun j => j.put p (.pending (reads + 1) syn))).modDrive d
        (fun v => { v with rereads := v.rereads ++ [(b, p)] }) := by
  have hmore : reads + 1 < 1 + r.settings.retry := by omega
  exact (if_neg fun h => hne h.2.1).trans (if_pos hmore)

/-- Another syndrome with no read left: the position is given up (R160, R161). -/
theorem Run.judgeReread_givenUp (hne : syn ≠ latest) (hnone : r.settings.retry ≤ reads) :
    r.judgeReread d b t p reads latest (.syndrome syn) = r.deliver d b t p (reads + 1) syn .uncorrectable := by
  have hover : ¬ reads + 1 < 1 + r.settings.retry := by omega
  exact (if_neg fun h => hne h.2.1).trans (if_neg hover)

/-- The same syndrome again, decodable and with correction allowed: the position is corrected (R160, R161). -/
theorem Run.judgeReread_corrects (heq : syn = latest) (hallowed : r.settings.correction = true)
    (hdecodable : decodable syn = true) :
    r.judgeReread d b t p reads latest (.syndrome syn) =
      (r.modBuf d b (fun y => { y with positions := y.positions.modify p (fun x =>
        { x with data := correctSector syn x.data }) })).deliver d b t p (reads + 1) syn .corrected :=
  if_pos ⟨hallowed, heq, hdecodable⟩

end

/-! ### A page read into buffer A (R87, R92, R126) -/

/-- A READ or REREAD for the page task `t` of frame `f` is in progress into buffer A of drive `d`, buffer B is FREE, and
nothing else is asked of the drive. -/
structure State.ReadsPage (s : State) (d f : Nat) (c : Issued) (t : Task) : Prop where
  length : d < s.drives.length
  drive : d < 4
  state : (s.driveRec d).state = .busy
  command : (s.driveRec d).command = some c
  buf : c.buf = 0
  kept : c.discard = false
  rereads : (s.driveRec d).rereads = []
  asks : (s.driveRec d).asks = []
  burned : (s.driveRec d).bufA.burned = false
  other : (s.driveRec d).bufB = Buffer.blank
  serves : (s.driveRec d).bufA.serves = some (.task f)
  task : (Run.of s).taskAt f = some t
  frame : t.frame = f

/-- A drive whose READ has completed into buffer A: the buffer is HELD with these positions (R87, R92). -/
def Drive.receives (v : Drive) (c : Issued) (positions : List SectorRead) : Drive :=
  { v with command := none, lastSector := some (c.start + c.count - 1),
           bufA := { v.bufA with state := .held, positions := positions } }

/-- A drive whose REREAD of a position of buffer A has completed (R87, R160). -/
def Drive.rereceives (v : Drive) (p : Nat) (x : SectorRead) : Drive :=
  { v with command := none, bufA := { v.bufA with positions := v.bufA.positions.set p x } }

section
variable {s : State} {d f : Nat} {c : Issued} {t : Task} (h : s.ReadsPage d f c t)
include h

/-- The report of the READ in progress is taken (R92). -/
theorem State.ReadsPage.readComplete (ss : List SectorRead) (hk : c.command = .read) (hlen : ss.length = c.count)
    (hmax : ss.length ≤ 129) (hwf : ∀ x ∈ ss, x.wf = true) :
    exec (.readComplete d (some ss)) s = .next (s.act (fun r => r.readOk d c ss)) := by
  have hall : (Instr.readComplete d (some ss)).wf = true := by
    simpa [Instr.wf, h.drive, optWf, hmax] using hwf
  show execReadComplete d (some ss) s = _
  rw [execReadComplete, s.issued_of_command d c .read h.command hk, outcome_wf _ _ hall]
  simp only [h.kept, Bool.false_eq_true, if_false, if_pos hlen]

/-- The report of the REREAD in progress is taken (R160). -/
theorem State.ReadsPage.rereadComplete (x : SectorRead) (hk : c.command = .reread) (hne : x.report ≠ .unwritten)
    (hwf : x.wf = true) : exec (.rereadComplete d (some x)) s = .next (s.act (fun r => r.rereadOk d c x)) := by
  have hall : (Instr.rereadComplete d (some x)).wf = true := by simp [Instr.wf, h.drive, optWf, hwf]
  show execRereadComplete d (some x) s = _
  rw [execRereadComplete, s.issued_of_command d c .reread h.command hk, outcome_wf _ _ hall]
  simp only [h.kept, Bool.false_eq_true, if_false, if_neg hne]

/-- The end of the command leaves the buffer as it was (R87). -/
theorem State.ReadsPage.bufA_ended (last : Drive → Option Nat) :
    (((Run.of s).modDrive d (fun v => { v with command := none, lastSector := last v })).driveAt d).buf 0 =
      (s.driveRec d).bufA := by
  rw [Run.driveAt_modDrive _ d _ h.length]
  rfl

/-- A header READ has completed: its sector stands in the buffer and goes to the Media Check Unit (R127, R158). -/
theorem State.ReadsPage.readOk_header (x : SectorRead) (hp : c.pos = 0) (hcount : (s.driveRec d).bufA.count = 1) :
    (Run.of s).readOk d c [x] =
      ((((Run.of s).modDrive d (fun v => v.receives c [x])).headerRead d 0 t x).push (.drive d)).push (.placeTasks d) := by
  have hbuf := h.bufA_ended fun _ => some (c.start + c.count - 1)
  have htask (g : Drive → Drive) : ((Run.of s).modDrive d g).taskAt f = some t := h.task
  simp only [Run.readOk, h.buf, hbuf, h.serves, htask, hcount, hp, List.length_singleton, Nat.sub_self,
    List.replicate_zero, List.append_nil, List.nil_append, if_true, Run.modBuf_eq, Run.modDrive_modDrive]
  rfl

/-- A data READ has completed: its sectors stand in the buffer behind the header, and go to the Media Check Unit (R128). -/
theorem State.ReadsPage.readOk_data (ss : List SectorRead) (hp : 0 < c.pos)
    (hcount : (s.driveRec d).bufA.count = ss.length) :
    (Run.of s).readOk d c ss =
      ((((Run.of s).modDrive d (fun v => v.receives c (v.bufA.positions.take 1 ++ ss))).dataRead d 0 t ss).push
        (.drive d)).push (.placeTasks d) := by
  have hbuf := h.bufA_ended fun _ => some (c.start + c.count - 1)
  have htask (g : Drive → Drive) : ((Run.of s).modDrive d g).taskAt f = some t := h.task
  have hfilled : (Run.of s).modDrive d (fun v => v.receives c (v.bufA.positions.take 1 ++ ss)) =
      (Run.of s).modDrive d (fun v => v.receives c ((s.driveRec d).bufA.positions.take 1 ++ ss)) :=
    (Run.of s).modDrive_congr d _ _ rfl
  rw [hfilled]
  simp only [Run.readOk, h.buf, hbuf, h.serves, htask, hcount, if_neg (Nat.pos_iff_ne_zero.1 hp), Nat.sub_self,
    List.replicate_zero, List.append_nil, Run.modBuf_eq, Run.modDrive_modDrive]
  rfl

/-- A REREAD of a pending position has completed: its sector stands in the buffer and is judged (R160). -/
theorem State.ReadsPage.rereadOk_pending (x : SectorRead) (reads latest : Nat)
    (hj : ((Run.of s).judgingOf f).bind (fun j => j.get c.pos) = some (.pending reads latest)) :
    (Run.of s).rereadOk d c x =
      (((Run.of s).modDrive d (fun v => v.rereceives c.pos x)).judgeReread d 0 t c.pos reads latest x.report).push
        (.drive d) := by
  have hbuf := h.bufA_ended fun v => v.lastSector
  have htask (g : Drive → Drive) : ((Run.of s).modDrive d g).taskAt f = some t := h.task
  have hjudging (g : Drive → Drive) : (((Run.of s).modDrive d g).judgingOf f).bind (fun j => j.get c.pos) =
      some (.pending reads latest) := hj
  simp only [Run.rereadOk, h.buf, hbuf, h.serves, Run.modBuf_eq, Run.modDrive_modDrive, htask, hjudging]
  rfl

end

end Sys2Proof.Machine

namespace Sys2Proof.Machine

open Sys2Proof.Config

/-! ### The looks at a drive without assignments (R104, R109 to R111) -/

/-- The look at a drive's task list or at its departure. -/
def Todo.looks : Todo → Prop
  | .placeTasks _ => True
  | .depart _ => True
  | _ => False

/-- Without assignments the looks at the drives change no block's record (R109 to R111). -/
theorem Run.settle_looks (n : Nat) (r : Run) (ha : r.sched.assigns = List.replicate 4 Assign.clear) (hp : r.pass = false)
    (ht : ∀ t ∈ r.todo, t.looks) : (Run.settle n r).toParts = r.toParts := by
  induction n generalizing r with
  | zero => rfl
  | succ n ih =>
    cases htodo : r.todo with
    | nil => rw [Run.settle_done _ r htodo hp]
    | cons t ts =>
      rw [htodo] at ht
      have hts : ∀ x ∈ ts, x.looks := fun x hx => ht x (List.mem_cons_of_mem _ hx)
      have hclear (d : Nat) : (r.listing ts).assignAt d = Assign.clear := (r.listing ts).assignAt_calm ha d
      rw [Run.settle_cons n r t ts htodo]
      cases t with
      | depart d =>
        have hstill : (r.listing ts).depart d = r.listing ts := Run.depart_idle _ d (by rw [hclear]; rfl) (by rw [hclear]; rfl)
        exact (congrArg (fun u => (Run.settle n u).toParts) hstill).trans (ih (r.listing ts) ha hp hts)
      | placeTasks d =>
        obtain hstill | hlooks := (r.listing ts).placeTasks_idle d (by rw [hclear]; rfl)
        · exact (congrArg (fun u => (Run.settle n u).toParts) hstill).trans (ih (r.listing ts) ha hp hts)
        · refine (congrArg (fun u => (Run.settle n u).toParts) hlooks).trans (ih ((r.listing ts).push _) ha hp fun x hx => ?_)
          obtain hx | hx := List.mem_append.1 hx
          · exact hts x hx
          · exact List.mem_singleton.1 hx ▸ trivial
      | _ => exact False.elim (ht _ (List.mem_cons_self ..))

/-- A command's effect, where its own change causes one thing and looks at drives without assignments. -/
theorem State.act_then_looks (s : State) (f : Run → Run) (r r' : Run) (t : Todo) (ts : List Todo) (h : f (Run.of s) = r)
    (ht : r.todo = t :: ts) (hc : (r.listing ts).consequence t = r') (ha : r'.sched.assigns = List.replicate 4 Assign.clear)
    (hp : r'.pass = false) (hl : ∀ t ∈ r'.todo, t.looks) : s.act f = s.withRun r' := by
  subst h
  have hfuel : fuel = 999999 + 1 := rfl
  have hstep : Run.settle fuel (f (Run.of s)) = Run.settle 999999 r' := by
    rw [hfuel, Run.settle_cons 999999 _ t ts ht]
    exact congrArg (Run.settle 999999) hc
  unfold State.act State.withRun
  rw [hstep, Run.settle_looks _ r' ha hp hl]

/-! ### The next REREAD (R89, R160) -/

/-- A drive whose REREAD of a position has just been issued, with the others still to come (R89, R160). -/
def Drive.rereading (v : Drive) (b p : Nat) (rest : List (Nat × Nat)) (now : Nat) : Drive :=
  { v with
    rereads := rest, state := .busy,
    command := some { command := .reread, buf := b,
                      start := (v.buf b).start + p - (if (v.buf b).count = 1 ∧ p = 0 then 0 else 1), count := 1, pos := p,
                      issuedAt := now, discard := false } }

/-- A drive at work whose channel is free, with no VERIFY due, issues its first REREAD (R89, R160). -/
theorem Run.driveStep_rereads (r : Run) (d b p : Nat) (rest : List (Nat × Nat)) (hstate : (r.driveAt d).state = .busy)
    (hc : (r.driveAt d).command = none) (hv : (r.driveAt d).toVerify = none) (hr : (r.driveAt d).rereads = (b, p) :: rest) :
    r.driveStep d = r.modDrive d (fun v => v.rereading b p rest r.now) := by
  simp only [Run.driveStep, hstate, hc, hv, hr, Option.isSome_none, Bool.false_eq_true, if_false, Run.issue,
    Run.modDrive_modDrive]
  exact r.modDrive_congr d _ _ rfl

/-- Where buffer A has no burn and buffer B is FREE no VERIFY is due (R93). -/
theorem Drive.toVerify_none (v : Drive) (hA : v.bufA.burned = false) (hB : v.bufB = Buffer.blank) : v.toVerify = none := by
  simp [Drive.toVerify, hA, hB, Buffer.blank]

section
variable {s : State} {d f : Nat} {c : Issued} {t : Task} (h : s.ReadsPage d f c t)
include h

/-- The header of a page, position 0 of buffer A, is read again by a drive with nothing else to do (R89, R160). -/
theorem State.ReadsPage.act_rereadsHeader (f : Run → Run) (m : MediaCheck) (g : Drive → Drive) (v : Drive) (ts : List Todo)
    (start : Nat) (ha : s.sched.assigns = List.replicate 4 Assign.clear) (hts : ∀ x ∈ ts, x.looks)
    (hf : f (Run.of s) =
      { (Run.of s).modDrive d (fun v => { g v with rereads := (g v).rereads ++ [(0, 0)] }) with
        media := m, todo := .drive d :: ts })
    (hv : g (s.driveRec d) = v) (hstate : v.state = .busy) (hc : v.command = none) (hr : v.rereads = [])
    (hburned : v.bufA.burned = false) (hcount : v.bufA.count = 1) (hstart : v.bufA.start = start)
    (hB : v.bufB = Buffer.blank) :
    s.act f = { s.withDrive d (fun v =>
        { g v with command := some { command := .reread, buf := 0, start := start, count := 1, pos := 0,
                                     issuedAt := s.now, discard := false } }) with
      media := m } := by
  let asked (v : Drive) : Drive := { g v with rereads := (g v).rereads ++ [(0, 0)] }
  let told : Run := { (Run.of s).modDrive d asked with media := m }
  have hat : (told.listing ts).driveAt d = asked (s.driveRec d) := (Run.of s).driveAt_modDrive d asked h.length
  have hasked : asked (s.driveRec d) = { v with rereads := [(0, 0)] } := by simp only [asked, hv, hr, List.nil_append]
  rw [hasked] at hat
  have hstep : (told.listing ts).consequence (.drive d) = (told.listing ts).modDrive d (fun v => v.rereading 0 0 [] s.now) :=
    Run.driveStep_rereads _ d 0 0 [] (hat ▸ hstate) (hat ▸ hc) (hat ▸ Drive.toVerify_none _ hburned hB) (hat ▸ rfl)
  rw [s.act_then_looks f _ _ (.drive d) ts hf rfl hstep ha rfl hts]
  refine congrArg (fun l : List Drive => ({ s with drives := l, media := m } : State)) ?_
  refine (List.modify_modify_eq ..).trans (modify_congr_getD _ _ _ _ Drive.start ?_)
  have hissued : Drive.rereading { v with rereads := [(0, 0)] } 0 0 [] s.now =
      { v with command := some { command := .reread, buf := 0, start := start, count := 1, pos := 0, issuedAt := s.now,
                                 discard := false } } := by
    simp [Drive.rereading, Drive.buf, hcount, hstart, hstate, hr]
  subst hv
  exact (congrArg (Drive.rereading · 0 0 [] s.now) hasked).trans hissued

end

end Sys2Proof.Machine

namespace Sys2Proof.Machine

open Sys2Proof.Config

/-- A command's effect, where its own change is one that a state which differs in its blocks alone would make. -/
theorem State.act_from (s x : State) (f g : Run → Run) (hx : s.withRun (Run.of x) = x) (h : f (Run.of s) = g (Run.of x)) :
    s.act f = x.act g := by
  unfold State.act
  rw [h, ← hx]
  rfl

/-! ### Syndromes (R159, R160, R161, R162) -/

/-- The judging record that a page's header READ makes (R158). -/
def Task.judging (t : Task) : Judging :=
  { frame := t.frame, loc := t.loc, positions := [], tally := 0, uncorrectable := false, entries := [] }

section
variable {s : State} {d f : Nat} {c : Issued} {t : Task} (h : s.ReadsPage d f c t) (syn : Nat) (data : List Byte)
include h

/-- A header READ reported with a syndrome makes position 0 pending and issues its REREAD (R92, R159, R160). -/
theorem State.ReadsPage.act_header_syndrome (ha : s.sched.assigns = List.replicate 4 Assign.clear) (hp : c.pos = 0)
    (hcount : (s.driveRec d).bufA.count = 1) (hstart : (s.driveRec d).bufA.start = t.loc.sector)
    (hretry : 0 < s.settings.retry) :
    s.act (fun r => r.readOk d c [{ report := .syndrome syn, data := data }]) =
      { s.withDrive d (fun v =>
          { v.receives c [{ report := .syndrome syn, data := data }] with
            command := some { command := .reread, buf := 0, start := t.loc.sector, count := 1, pos := 0,
                              issuedAt := s.now, discard := false } }) with
        media := MediaCheck.judges { s.media with judging := s.media.judging ++ [t.judging] } t.frame
          (fun j => j.put 0 (.pending 1 syn)) } := by
  let x : SectorRead := { report := .syndrome syn, data := data }
  let received : Run := { (Run.of s).modDrive d (fun v => v.receives c [x]) with
    media := { s.media with judging := s.media.judging ++ [t.judging] } }
  have hread : (Run.of s).readOk d c [x] = ((received.judgeFirst d 0 t 0 (.syndrome syn)).push (.drive d)).push (.placeTasks d) :=
    h.readOk_header x hp hcount
  rw [received.judgeFirst_syndrome d 0 t 0 syn hretry] at hread
  refine h.act_rereadsHeader _ _ (fun v => v.receives c [x]) _ [.placeTasks d] t.loc.sector ha ?_ (hread.trans ?_) rfl
    h.state rfl h.rereads h.burned hcount hstart h.other
  · exact fun y hy => List.mem_singleton.1 hy ▸ trivial
  · exact congrArg (fun l : List Drive => ({ Run.of s with
      drives := l,
      media := MediaCheck.judges { s.media with judging := s.media.judging ++ [t.judging] } t.frame
        (fun j => j.put 0 (.pending 1 syn)),
      todo := [.drive d, .placeTasks d] } : Run)) (List.modify_modify_eq ..)

/-- A REREAD of the header with another syndrome, while reads are left, issues the next (R92, R160). -/
theorem State.ReadsPage.act_header_again (reads latest : Nat) (ha : s.sched.assigns = List.replicate 4 Assign.clear)
    (hp : c.pos = 0) (hcount : (s.driveRec d).bufA.count = 1) (hstart : (s.driveRec d).bufA.start = t.loc.sector)
    (hj : ((Run.of s).judgingOf f).bind (fun j => j.get c.pos) = some (.pending reads latest)) (hne : syn ≠ latest)
    (hleft : reads < s.settings.retry) :
    s.act (fun r => r.rereadOk d c { report := .syndrome syn, data := data }) =
      { s.withDrive d (fun v =>
          { v.rereceives 0 { report := .syndrome syn, data := data } with
            command := some { command := .reread, buf := 0, start := t.loc.sector, count := 1, pos := 0,
                              issuedAt := s.now, discard := false } }) with
        media := s.media.judges t.frame (fun j => j.put 0 (.pending (reads + 1) syn)) } := by
  let x : SectorRead := { report := .syndrome syn, data := data }
  have hread : (Run.of s).rereadOk d c x = _ := h.rereadOk_pending x reads latest hj
  rw [Run.judgeReread_again _ _ _ _ _ _ _ _ hne hleft, hp] at hread
  refine h.act_rereadsHeader _ _ (fun v => v.rereceives 0 x) _ [] t.loc.sector ha (fun y hy => nomatch hy) (hread.trans ?_)
    rfl h.state rfl h.rereads h.burned hcount hstart h.other
  exact congrArg (fun l : List Drive => ({ Run.of s with
    drives := l, media := s.media.judges t.frame (fun j => j.put 0 (.pending (reads + 1) syn)), todo := [.drive d] } : Run))
    (List.modify_modify_eq ..)

section
variable (reads latest : Nat) (hp : 0 < c.pos) (hcounter : s.media.counter < 4294967295)
  (hlog : s.media.log.length < 32)
  (hj : ((Run.of s).judgingOf f).bind (fun j => j.get c.pos) = some (.pending reads latest))
include hp hcounter hlog hj

/-- A REREAD of a data position that repeats its syndrome corrects the sector (R160, R161, R162). -/
theorem State.ReadsPage.act_corrects (heq : syn = latest) (hallowed : s.settings.correction = true)
    (hdecodable : decodable syn = true) (hlt : c.pos < (s.driveRec d).bufA.positions.length) :
    s.act (fun r => r.rereadOk d c { report := .syndrome syn, data := data }) =
      State.following
        { (s.withDrive d (fun v =>
            v.rereceives c.pos { report := .syndrome syn, data := correctSector syn data })).withVolume t.loc.serial
              (fun v => v.modSide t.loc.side (fun x => { x with corrected := satInc 65535 x.corrected })) with
          media := s.media.judgedAt t.frame
            { seq := s.media.counter + 1, loc := posLocation t.loc c.pos, reads := reads + 1, corrected := true,
              syndrome := syn, mark := .none }
            (fun j => { j.put c.pos .corrected with
              entries := j.entries ++ [s.media.counter + 1], tally := j.tally + 1 }) }
        [.present, .drive d] false := by
  let x : SectorRead := { report := .syndrome syn, data := data }
  let fix (y : SectorRead) : SectorRead := { y with data := correctSector syn y.data }
  have hfixed : ((Run.of s).modDrive d (fun v => v.rereceives c.pos x)).modBuf d 0
      (fun y => { y with positions := y.positions.modify c.pos fix }) =
      (Run.of s).modDrive d (fun v => v.rereceives c.pos (fix x)) := by
    have hset (l : List SectorRead) (hl : c.pos < l.length) : (l.set c.pos x).modify c.pos fix = l.set c.pos (fix x) := by
      rw [modify_eq_set_of_getElem? _ _ fix x (by simp [hl]), List.set_set]
    rw [Run.modBuf_eq, Run.modDrive_modDrive]
    refine (Run.of s).modDrive_congr d _ _ ?_
    exact congrArg (fun l => { s.driveRec d with
      command := none, bufA := { (s.driveRec d).bufA with positions := l } }) (hset _ hlt)
  have hread : (Run.of s).rereadOk d c x = _ := h.rereadOk_pending x reads latest hj
  rw [Run.judgeReread_corrects _ _ _ _ _ _ _ _ heq hallowed hdecodable, hfixed,
    Run.deliver_corrected _ _ _ _ _ _ _ hcounter hlog hp] at hread
  rw [s.act_following _ _ hread rfl rfl rfl]
  rfl

/-- A REREAD of a data position with another syndrome and no read left gives the position up (R160, R161, R162). -/
theorem State.ReadsPage.act_givesUp (hne : syn ≠ latest) (hnone : s.settings.retry ≤ reads) :
    s.act (fun r => r.rereadOk d c { report := .syndrome syn, data := data }) =
      State.following
        { s.withDrive d (fun v => v.rereceives c.pos { report := .syndrome syn, data := data }) with
          media := s.media.judgedAt t.frame
            { seq := s.media.counter + 1, loc := posLocation t.loc c.pos, reads := reads + 1, corrected := false,
              syndrome := syn, mark := .none }
            (fun j => { j.put c.pos .uncorrectable with
              entries := j.entries ++ [s.media.counter + 1], uncorrectable := true }) }
        [.present, .drive d] false := by
  let x : SectorRead := { report := .syndrome syn, data := data }
  have hread : (Run.of s).rereadOk d c x = _ := h.rereadOk_pending x reads latest hj
  rw [Run.judgeReread_givenUp _ _ _ _ _ _ _ _ hne hnone, Run.deliver_uncorrectable _ _ _ _ _ _ _ hcounter hlog hp] at hread
  rw [s.act_following _ _ hread rfl rfl rfl]
  rfl

end

end

end Sys2Proof.Machine

namespace Sys2Proof.Machine

open Sys2Proof.Config

/-! ### A header examined (R12, R127, R128) -/

/-- The blocks once a page's header has been accepted: the frame has its page fields, and the task is in its data phase. -/
def State.acceptPage (x : State) (n : Nat) (info : PageInfo) (origin : Bool) : State :=
  { x with
    frame := (match x.frameAt n with
      | .filling tag phase _ mark dm co hs =>
        { x.frame with frames := x.frame.frames.set (n - 1) (.filling tag phase (some info) mark dm co hs) }
      | _ => x.frame),
    retr := { x.retr with tasks := x.retr.tasks.map (fun y =>
      if y.frame = n then { y with phase := .data, origin := origin } else y) } }

/-- The state once a header sector has been examined, with what follows besides: the data READ is asked of a drive of which
nothing else was, or the fill fails with ID_MISMATCH. -/
def State.examinePage (x : State) (d : Nat) (t : Task) (data : List Byte) (told : List Todo) : State :=
  match acceptHeader t.loc data with
  | none => x.following ([.present, .fillFail t.frame .idMismatch] ++ told) false
  | some (info, origin) =>
    ((x.acceptPage t.frame info origin).withDrive d (fun v => { v with asks := [{ frame := t.frame, data := true }] })).following
      ([.present, .drive d] ++ told) false

/-- A header that is not accepted fails the fill (R128). -/
theorem Run.examineHeader_rejects (r : Run) (d : Nat) (t : Task) (data : List Byte) (h : acceptHeader t.loc data = none) :
    r.examineHeader d t data = r.push (.fillFail t.frame .idMismatch) := by
  rw [Run.examineHeader, h]

/-- A frame that fills takes its page fields from the header (R12). -/
theorem State.acceptPage_filling (x : State) (n : Nat) (info : PageInfo) (origin : Bool) (hn : 0 < n) (ts : List Todo) :
    (match ((Run.of x).listing ts).frameAt n with
      | .filling tag ph _ m dm co hs => ((Run.of x).listing ts).setFrame n (.filling tag ph (some info) m dm co hs)
      | _ => (Run.of x).listing ts).modTask n (fun t => { t with phase := .data, origin := origin }) =
      (Run.of (x.acceptPage n info origin)).listing ts := by
  have hset (fr : Frame) := ((Run.of x).listing ts).setFrame_pos n fr hn
  have hat : ((Run.of x).listing ts).frameAt n = x.frameAt n := rfl
  unfold State.acceptPage
  rw [hat]
  cases x.frameAt n with
  | filling tag ph info' m dm co hs =>
    dsimp only
    rw [hset]
    rfl
  | _ => rfl

/-- A header that is accepted has the data READ asked of the drive (R127). -/
theorem State.examineHeader_accepts (x : State) (d : Nat) (t : Task) (data : List Byte) (info : PageInfo) (origin : Bool)
    (h : acceptHeader t.loc data = some (info, origin)) (hn : 0 < t.frame) (hasks : (x.driveRec d).asks = [])
    (ts : List Todo) :
    ((Run.of x).listing ts).examineHeader d t data =
      (Run.of ((x.acceptPage t.frame info origin).withDrive d
        (fun v => { v with asks := [{ frame := t.frame, data := true }] }))).listing (ts ++ [.drive d]) := by
  have haccepted := x.acceptPage_filling t.frame info origin hn ts
  have hasked : (x.acceptPage t.frame info origin).withDrive d
      (fun v => { v with asks := v.asks ++ [{ frame := t.frame, data := true }] }) =
      (x.acceptPage t.frame info origin).withDrive d (fun v => { v with asks := [{ frame := t.frame, data := true }] }) :=
    State.withDrive_congr _ d _ _ (congrArg (fun l : List ReadAsk => ({ x.driveRec d with
      asks := l ++ [{ frame := t.frame, data := true }] } : Drive)) hasks)
  rw [Run.examineHeader, h, ← hasked]
  exact congrArg (fun u : Run => (u.modDrive d (fun v =>
    { v with asks := v.asks ++ [{ frame := t.frame, data := true }] })).push (.drive d)) haccepted

/-- A command that has a header examined once the Frame Mover has been told of its judgement (R127, R158, R161). -/
theorem State.act_examines (s x : State) (f : Run → Run) (d : Nat) (t : Task) (data : List Byte) (told : List Todo)
    (hx : s.withRun (Run.of x) = x) (hn : 0 < t.frame) (hasks : (x.driveRec d).asks = [])
    (hf : f (Run.of s) =
      { ((Run.of x).push .present).examineHeader d t data with
        todo := (((Run.of x).push .present).examineHeader d t data).todo ++ told }) :
    s.act f = x.examinePage d t data told := by
  have hfrom := s.act_from x f (fun _ => f (Run.of s)) hx rfl
  rw [hfrom]
  unfold State.examinePage
  cases hacc : acceptHeader t.loc data with
  | none =>
    rw [Run.examineHeader_rejects _ d t data hacc] at hf
    rw [x.act_following _ _ hf rfl rfl rfl]
    rfl
  | some page =>
    obtain ⟨info, origin⟩ := page
    have hexamined := x.examineHeader_accepts d t data info origin hacc hn hasks [.present]
    rw [show ((Run.of x).push .present).examineHeader d t data = _ from hexamined] at hf
    rw [x.act_following _ _ hf rfl rfl rfl]
    rfl

end Sys2Proof.Machine

namespace Sys2Proof.Machine

open Sys2Proof.Config

/-! ### CLEAN reports (R127, R128, R158) -/

/-- Two consequences listed one after the other. -/
theorem Run.push_push (r : Run) (a b : Todo) : (r.push a).push b = { r with todo := r.todo ++ [a, b] } :=
  congrArg (fun l => ({ r with todo := l } : Run)) (List.append_assoc r.todo [a] [b])

section
variable {s : State} {d f : Nat} {c : Issued} {t : Task} (h : s.ReadsPage d f c t) (data : List Byte) (hn : 0 < t.frame)
include h

/-- The drive's record after a change of it. -/
theorem State.ReadsPage.driveRec_of (x : State) (g : Drive → Drive) (hx : x.drives = s.drives.modify d g) :
    x.driveRec d = g (s.driveRec d) := by
  rw [State.driveRec, hx]
  exact (Run.of s).driveAt_modDrive d g h.length

/-- The sector of a position that has just been read. -/
theorem State.ReadsPage.posData_of (x : State) (g : Drive → Drive) (p : Nat) (hx : x.drives = s.drives.modify d g)
    (hp : (g (s.driveRec d)).bufA.positions[p]? = some { report := .clean, data := data }) :
    ((Run.of x).push .present).posData d 0 p = data := by
  show ((x.driveRec d).bufA.positions.getD p _).data = data
  rw [h.driveRec_of x g hx, List.getD_eq_getElem?_getD, hp]
  rfl

include hn

/-- A header READ reported CLEAN makes position 0 clean, and the header is examined (R127, R158). -/
theorem State.ReadsPage.act_header_clean (hp : c.pos = 0) (hcount : (s.driveRec d).bufA.count = 1) :
    s.act (fun r => r.readOk d c [{ report := .clean, data := data }]) =
      State.examinePage
        { s.withDrive d (fun v => v.receives c [{ report := .clean, data := data }]) with
          media := MediaCheck.judges { s.media with judging := s.media.judging ++ [t.judging] } t.frame
            (fun j => j.put 0 .clean) } d t data [.drive d, .placeTasks d] := by
  let x : State := { s.withDrive d (fun v => v.receives c [{ report := .clean, data := data }]) with
    media := MediaCheck.judges { s.media with judging := s.media.judging ++ [t.judging] } t.frame (fun j => j.put 0 .clean) }
  have hread : (Run.of s).readOk d c [{ report := .clean, data := data }] =
      ((((Run.of x).push .present).examineHeader d t (((Run.of x).push .present).posData d 0 0)).push (.drive d)).push
        (.placeTasks d) := h.readOk_header { report := .clean, data := data } hp hcount
  rw [h.posData_of data x _ 0 rfl rfl] at hread
  have hasks : (x.driveRec d).asks = [] := (congrArg Drive.asks (h.driveRec_of x _ rfl)).trans h.asks
  exact s.act_examines x _ d t data _ rfl hn hasks (hread.trans (Run.push_push ..))

/-- A REREAD of the header reported CLEAN makes it clean, and it is examined (R158, R160). -/
theorem State.ReadsPage.act_header_recovered (reads latest : Nat) (hp : c.pos = 0)
    (hlt : c.pos < (s.driveRec d).bufA.positions.length)
    (hj : ((Run.of s).judgingOf f).bind (fun j => j.get c.pos) = some (.pending reads latest)) :
    s.act (fun r => r.rereadOk d c { report := .clean, data := data }) =
      State.examinePage
        { s.withDrive d (fun v => v.rereceives c.pos { report := .clean, data := data }) with
          media := s.media.judges t.frame (fun j => j.put c.pos .clean) } d t data [.drive d] := by
  let x : State := { s.withDrive d (fun v => v.rereceives c.pos { report := .clean, data := data }) with
    media := s.media.judges t.frame (fun j => j.put c.pos .clean) }
  have hread := h.rereadOk_pending { report := .clean, data := data } reads latest hj
  have hjudged : ((Run.of s).modDrive d (fun v => v.rereceives c.pos { report := .clean, data := data })).judgeReread d 0 t
      c.pos reads latest .clean = ((Run.of x).push .present).examineHeader d t (((Run.of x).push .present).posData d 0 0) := by
    simp only [x, hp]
    rfl
  have hset : ((s.driveRec d).bufA.positions.set c.pos { report := .clean, data := data })[0]? =
      some { report := .clean, data := data } := by
    rw [hp] at hlt ⊢
    simp [hlt]
  rw [hjudged, h.posData_of data x _ 0 rfl hset] at hread
  have hasks : (x.driveRec d).asks = [] := (congrArg Drive.asks (h.driveRec_of x _ rfl)).trans h.asks
  exact s.act_examines x _ d t data _ rfl hn hasks hread

omit hn

/-- A REREAD of a data position reported CLEAN makes it clean (R160). -/
theorem State.ReadsPage.act_recovers (reads latest : Nat) (hp : 0 < c.pos)
    (hj : ((Run.of s).judgingOf f).bind (fun j => j.get c.pos) = some (.pending reads latest)) :
    s.act (fun r => r.rereadOk d c { report := .clean, data := data }) =
      State.following
        { s.withDrive d (fun v => v.rereceives c.pos { report := .clean, data := data }) with
          media := s.media.judges t.frame (fun j => j.put c.pos .clean) } [.present, .drive d] false := by
  have hread := h.rereadOk_pending { report := .clean, data := data } reads latest hj
  rw [s.act_following _ _ (hread.trans (congrArg (Run.push · _) (Run.deliver_clean _ d 0 t c.pos (reads + 1) 0 hp))) rfl rfl rfl]
  rfl

end

end Sys2Proof.Machine

namespace Sys2Proof.Machine

open Sys2Proof.Config

/-! ### The data READ of an accepted page (R12, R89, R127) -/

/-- A page task in its data phase (R126, R127). -/
theorem State.taskAt_acceptPage (x : State) (t : Task) (info : PageInfo) (origin : Bool)
    (ht : (Run.of x).taskAt t.frame = some t) :
    (Run.of (x.acceptPage t.frame info origin)).taskAt t.frame = some { t with phase := .data, origin := origin } := by
  refine (find?_map_keyed x.retr.tasks (·.frame) t.frame (fun y => { y with phase := .data, origin := origin })
    fun _ => rfl).trans ?_
  exact congrArg (Option.map _) ht

/-- The image length of a frame that has taken its page fields (R12). -/
theorem State.imageLen_acceptPage (x : State) (n : Nat) (info : PageInfo) (origin : Bool) (tag : Location) (ph : FillPhase)
    (old : Option PageInfo) (mark : Nat) (dm co : Bool) (hs : List Holder)
    (hframe : x.frameAt n = .filling tag ph old mark dm co hs) :
    ((x.acceptPage n info origin).frameAt n).imageLen = info.imageLen := by
  have hpos : 0 < n := by
    refine Nat.pos_of_ne_zero fun h0 => ?_
    rw [h0] at hframe
    exact nomatch hframe
  have hle : n ≤ x.frame.frames.length := by
    refine Nat.le_of_not_lt fun hlt => ?_
    have hout : x.frameAt n = .empty := by
      show (if n = 0 then Frame.empty else x.frame.frames.getD (n - 1) .empty) = .empty
      rw [if_neg (Nat.pos_iff_ne_zero.1 hpos), List.getD_eq_getElem?_getD, List.getElem?_eq_none (by omega)]
      rfl
    exact nomatch hout.symm.trans hframe
  have hset := (Run.of x).frameAt_setFrame n n (.filling tag ph (some info) mark dm co hs)
  rw [if_pos ⟨rfl, hpos, hle⟩] at hset
  have hsame : ((x.acceptPage n info origin).frameAt n) =
      ((Run.of x).setFrame n (.filling tag ph (some info) mark dm co hs)).frameAt n := by
    refine Run.frameAt_congr _ _ ?_ n
    rw [(Run.of x).setFrame_pos n _ hpos]
    show (State.acceptPage x n info origin).frame.frames = _
    unfold State.acceptPage
    rw [hframe]
    rfl
  rw [hsame, hset]
  rfl

/-- A drive whose data READ into buffer A has just been issued (R89, R127). -/
def Drive.readsData (v : Drive) (t : Task) (n now : Nat) : Drive :=
  { v with
    command := some { command := .read, buf := 0, start := t.loc.sector + 1,
                      count := min n (524288 - (t.loc.sector + 1)), pos := 1, issuedAt := now, discard := false },
    bufA := { v.bufA with state := .reading, side := t.loc.side, start := t.loc.sector + 1, count := n } }

/-- A change that leaves a drive's record as it is changes nothing. -/
theorem Run.modDrive_self (r : Run) (d : Nat) (f : Drive → Drive) (h : f (r.driveAt d) = r.driveAt d) : r.modDrive d f = r := by
  rw [r.modDrive_congr d f id h, Run.modDrive, List.modify_id]

/-- A drive at work waits while its channel is in use (R89). -/
theorem Run.driveStep_waits (r : Run) (d : Nat) (hstate : (r.driveAt d).state = .busy)
    (hc : (r.driveAt d).command.isSome = true) : r.driveStep d = r := by
  simp only [Run.driveStep, hstate, hc, if_true]
  exact r.modDrive_self d _ (by rw [← hstate])

/-- A drive at work whose buffer A holds the header of the page of a frame, with no VERIFY, REREAD or BURN to issue. -/
structure Drive.HoldsHeader (v : Drive) (n : Nat) : Prop where
  state : v.state = .busy
  command : v.command = none
  held : v.bufA.state = .held
  burned : v.bufA.burned = false
  other : v.bufB = Buffer.blank
  rereads : v.rereads = []
  serves : v.bufA.serves = some (.task n)

/-- Such a drive, of which the page's data READ alone is asked, issues it (R89). -/
theorem Run.driveStep_readsData (r : Run) (d : Nat) (t u : Task) (v : Drive) (hat : r.driveAt d = v)
    (hv : v.HoldsHeader t.frame) (hasks : v.asks = [{ frame := t.frame, data := true }]) (ht : r.taskAt t.frame = some u)
    (hloc : u.loc = t.loc) :
    r.driveStep d =
      (r.modDrive d (fun v =>
        { v.readsData t (ceilDiv (r.frameAt t.frame).imageLen 1024) r.now with asks := [] })).push (.placeTasks d) := by
  have hverify : v.toVerify = none := Drive.toVerify_none v hv.burned hv.other
  have hburn : v.toBurn = none := by simp [Drive.toBurn, hv.held, hv.other, Buffer.blank]
  have hbuf : v.bufFor (.task t.frame) = some 0 := if_pos hv.serves
  have hread : v.nextAsk = some ({ frame := t.frame, data := true }, 0) := by simp [Drive.nextAsk, hasks, hbuf]
  simp only [Run.driveStep, hat, hv.state, hv.command, hverify, hv.rereads, hburn, hread, Option.isSome_none,
    Bool.false_eq_true, if_false, Run.issueRead, ht, if_true, hloc, Run.issue, Run.modBuf_eq, Run.modDrive_modDrive]
  refine congrArg (Run.push · (.placeTasks d)) (r.modDrive_congr d _ _ ?_)
  rw [hat]
  simp [Drive.readsData, Drive.modBuf, hasks, hv.state, hv.serves, sideSectors]

/-- Where the Frame Mover has no stream and no drive an assignment, the data READ of an accepted page follows at once (R89,
R127). -/
theorem State.following_readsData (x : State) (d : Nat) (t : Task) (info : PageInfo) (origin : Bool)
    (hd : d < x.drives.length) (hstreams : x.mover.streams = []) (ha : x.sched.assigns = List.replicate 4 Assign.clear)
    (hv : (x.driveRec d).HoldsHeader t.frame) (hasks : (x.driveRec d).asks = []) (ht : (Run.of x).taskAt t.frame = some t)
    (hlen : ((x.acceptPage t.frame info origin).frameAt t.frame).imageLen = info.imageLen) :
    ((x.acceptPage t.frame info origin).withDrive d
      (fun v => { v with asks := [{ frame := t.frame, data := true }] })).following [.present, .drive d, .drive d, .placeTasks d]
        false =
      (x.acceptPage t.frame info origin).withDrive d (fun v => v.readsData t (ceilDiv info.imageLen 1024) x.now) := by
  let asked (v : Drive) : Drive := { v with asks := [{ frame := t.frame, data := true }] }
  let y : State := (x.acceptPage t.frame info origin).withDrive d asked
  let z : State := (x.acceptPage t.frame info origin).withDrive d (fun v => v.readsData t (ceilDiv info.imageLen 1024) x.now)
  have haty : y.driveRec d = asked (x.driveRec d) := (Run.of x).driveAt_modDrive d asked hd
  have hatz : z.driveRec d = (x.driveRec d).readsData t (ceilDiv info.imageLen 1024) x.now :=
    (Run.of x).driveAt_modDrive d (fun v => v.readsData t (ceilDiv info.imageLen 1024) x.now) hd
  have hpresent (ts : List Todo) : ((Run.of y).listing ts).consequence .present = (Run.of y).listing ts :=
    Run.presentNext_idle _ hstreams
  have hissues (ts : List Todo) :
      ((Run.of y).listing ts).consequence (.drive d) = (Run.of z).listing (ts ++ [.placeTasks d]) := by
    have hstep := ((Run.of y).listing ts).driveStep_readsData d t _ _ haty { hv with } rfl
      (x.taskAt_acceptPage t info origin ht) rfl
    rw [show ((Run.of y).listing ts).frameAt t.frame = (x.acceptPage t.frame info origin).frameAt t.frame from rfl, hlen]
      at hstep
    refine hstep.trans ?_
    refine congrArg (fun l : List Drive => (Run.of { x.acceptPage t.frame info origin with drives := l }).listing
      (ts ++ [.placeTasks d])) ((List.modify_modify_eq ..).trans (modify_congr_getD _ _ _ _ Drive.start ?_))
    show { (asked (x.driveRec d)).readsData t (ceilDiv info.imageLen 1024) x.now with asks := [] } =
      (x.driveRec d).readsData t (ceilDiv info.imageLen 1024) x.now
    rw [← hasks]
    rfl
  have hwaits (ts : List Todo) : ((Run.of z).listing ts).consequence (.drive d) = (Run.of z).listing ts :=
    Run.driveStep_waits _ d ((congrArg Drive.state hatz).trans hv.state) (congrArg (fun v => v.command.isSome) hatz)
  have hfuel : fuel = 999997 + 1 + 1 + 1 := rfl
  have hsettled : Run.settle fuel ((Run.of y).listing [.present, .drive d, .drive d, .placeTasks d]) =
      Run.settle 999997 ((Run.of z).listing [.placeTasks d, .placeTasks d]) := by
    rw [hfuel, Run.settle_listing _ _ _ _ _ (hpresent _), Run.settle_listing _ _ _ _ _ (hissues _)]
    exact Run.settle_listing _ _ _ _ _ (hwaits _)
  show y.withRun (Run.settle fuel ((Run.of y).listing [.present, .drive d, .drive d, .placeTasks d])) = z
  rw [hsettled, State.withRun, Run.settle_looks _ _ ha rfl fun t ht => ?_]
  · rfl
  · obtain rfl : t = .placeTasks d := by simpa [Run.listing] using ht
    trivial

end Sys2Proof.Machine

namespace Sys2Proof.Machine

open Sys2Proof.Config

/-! ### A data READ reported CLEAN (R88, R128, R159) -/

/-- Positions judged clean one after the other: the frame's judging record has them all, and the Frame Mover is told of each
(R159, R161). -/
theorem Run.foldl_judged_clean (n : Nat) (l : List Nat) (r : Run) :
    l.foldl (fun r i => (r.modJudging n (fun j => j.put (i + 1) .clean)).push .present) r =
      { r with
        media := r.media.judges n (fun j => l.foldl (fun j i => j.put (i + 1) .clean) j),
        todo := r.todo ++ List.replicate l.length .present } := by
  induction l generalizing r with
  | nil =>
    have hkept : r.media.judges n (fun j => j) = r.media := by simp [MediaCheck.judges]
    show r = { r with media := r.media.judges n (fun j => j), todo := r.todo ++ [] }
    rw [hkept, List.append_nil]
  | cons i l ih =>
    have hjudged := r.media.judges_judges n (fun j => j.put (i + 1) .clean)
      (fun j => l.foldl (fun j i => j.put (i + 1) .clean) j) fun _ => rfl
    have htodo := List.append_assoc r.todo [Todo.present] (List.replicate l.length .present)
    refine (ih _).trans ?_
    exact congrArg (fun p : MediaCheck × List Todo => ({ r with media := p.1, todo := p.2 } : Run))
      (congrArg₂ Prod.mk hjudged htodo)

/-- The stream that empties a page's buffer, before its first transfer (R88). -/
def Task.emptying (t : Task) (idx : Nat) : Stream :=
  { idx := idx, frame := t.frame, loading := false, pos := 1, done := 0, total := 32, acc := [] }

/-- A data READ reported CLEAN throughout: the emptying stream begins, every position is judged clean, and the Frame Mover is
told of each (R88, R128, R159). -/
theorem Run.dataRead_clean (r : Run) (d b : Nat) (t : Task) (ss : List SectorRead) (hclean : ∀ x ∈ ss, x.report = .clean) :
    r.dataRead d b t ss =
      { r.modTask t.frame (fun y => { y with phase := .emptying }) with
        mover := { r.mover with streams := r.mover.streams ++ [t.emptying (bufIdx d b)] },
        media := r.media.judges t.frame (fun j => (List.range ss.length).foldl (fun j i => j.put (i + 1) .clean) j),
        todo := r.todo ++ List.replicate ss.length .present } := by
  have hwritten : ss.any (fun x => x.report == .unwritten) = false :=
    List.any_eq_false.2 fun x hx => by rw [hclean x hx]; decide
  let begun : Run := { r.modTask t.frame (fun y => { y with phase := .emptying }) with
    mover := { r.mover with streams := r.mover.streams ++ [t.emptying (bufIdx d b)] } }
  have hjudged (u : Run) (i : Nat) (hi : i ∈ List.range ss.length) :
      (match ss[i]? with
        | some x => u.judgeFirst d b t (i + 1) x.report
        | none => u) = (u.modJudging t.frame (fun j => j.put (i + 1) .clean)).push .present := by
    have hlt : i < ss.length := List.mem_range.1 hi
    rw [List.getElem?_eq_getElem hlt]
    dsimp only
    rw [hclean _ (List.getElem_mem hlt)]
    exact u.deliver_clean d b t (i + 1) 1 0 (Nat.succ_pos i)
  have hfold := (List.foldl_ext _ _ begun hjudged).trans (Run.foldl_judged_clean t.frame (List.range ss.length) begun)
  rw [List.length_range] at hfold
  rw [Run.dataRead, hwritten]
  exact hfold

/-- A data READ reported CLEAN throughout: what follows is the Frame Mover for every position, then the drive and the
Scheduler (R88, R128, R159). -/
theorem State.ReadsPage.act_data_clean {s : State} {d f : Nat} {c : Issued} {t : Task} (h : s.ReadsPage d f c t)
    (ss : List SectorRead) (hp : 0 < c.pos) (hcount : (s.driveRec d).bufA.count = ss.length)
    (hclean : ∀ x ∈ ss, x.report = .clean) :
    s.act (fun r => r.readOk d c ss) =
      State.following
        { s.withDrive d (fun v => v.receives c (v.bufA.positions.take 1 ++ ss)) with
          retr := { s.retr with tasks := s.retr.tasks.map (fun y =>
            if y.frame = t.frame then { y with phase := .emptying } else y) },
          mover := { s.mover with streams := s.mover.streams ++ [t.emptying (2 * d)] },
          media := s.media.judges t.frame (fun j => (List.range ss.length).foldl (fun j i => j.put (i + 1) .clean) j) }
        (List.replicate ss.length .present ++ [.drive d, .placeTasks d]) false := by
  have hread := h.readOk_data ss hp hcount
  rw [Run.dataRead_clean _ d 0 t ss hclean, Run.push_push] at hread
  rw [s.act_following _ _ hread rfl rfl rfl]
  rfl

end Sys2Proof.Machine

namespace Sys2Proof.Machine

open Sys2Proof.Config

/-! ### SYNDROMES are read again (R92, R127, R128, R158 to R162) -/

/-- A READ of one sector ends at its first sector (R87). -/
theorem Drive.receives_one (v : Drive) (c : Issued) (positions : List SectorRead) (hone : c.count = 1) :
    v.receives c positions =
      { v with command := none, lastSector := some c.start, bufA := { v.bufA with state := .held, positions := positions } } := by
  simp [Drive.receives, hone]

/-- A drive that has just received the header of its page holds it (R87, R127). -/
theorem State.ReadsPage.holdsHeader {s : State} {d f : Nat} {c : Issued} {t : Task} (h : s.ReadsPage d f c t)
    (positions : List SectorRead) : ((s.driveRec d).receives c positions).HoldsHeader f where
  state := h.state
  command := rfl
  held := rfl
  burned := h.burned
  other := h.other
  rereads := h.rereads
  serves := h.serves

/-- A header accepted while the Frame Mover has no stream, by a drive that holds it: the page's data READ follows at once
(R89, R127). -/
theorem State.examinePage_readsData (x : State) (d : Nat) (t : Task) (data : List Byte) (info : PageInfo) (origin : Bool)
    (hacc : acceptHeader t.loc data = some (info, origin))
    (hframe : ∃ tag phase old mark dm co hs, x.frameAt t.frame = .filling tag phase old mark dm co hs)
    (hd : d < x.drives.length) (hstreams : x.mover.streams = []) (ha : x.sched.assigns = List.replicate 4 Assign.clear)
    (hv : (x.driveRec d).HoldsHeader t.frame) (hasks : (x.driveRec d).asks = [])
    (ht : (Run.of x).taskAt t.frame = some t) :
    x.examinePage d t data [.drive d, .placeTasks d] =
      (x.acceptPage t.frame info origin).withDrive d (fun v => v.readsData t (ceilDiv info.imageLen 1024) x.now) := by
  obtain ⟨tag, phase, old, mark, dm, co, hs, hfilling⟩ := hframe
  rw [State.examinePage, hacc]
  exact x.following_readsData d t info origin hd hstreams ha hv hasks ht
    (x.imageLen_acceptPage t.frame info origin tag phase old mark dm co hs hfilling)

/-- Settles O51: each report of the Media Check Unit's reads of a page, by what it makes of the position and what then follows
inside the command. -/
theorem syndromesAreReread : Obligations.SyndromesAreReread := by
  unfold Obligations.SyndromesAreReread
  intro s d f syn data c t hlen hd ha hstate hc hbuf hdis hrr hasks hburned hB hserves htask hframe hsyn0 hsyn hdata
    again read fresh pend
  have h : s.ReadsPage d f c t :=
    ⟨hlen, hd, hstate, hc, hbuf, hdis, hrr, hasks, hburned, hB, hserves, htask, hframe⟩
  subst hframe
  have hread : read.wf = true := by simp [read, SectorRead.wf, SectorReport.wf, hsyn0, hsyn, hdata]
  refine ⟨?_, ?_, ?_, ?_⟩
  · intro hk hp hcount hstart hcc hretry
    rw [h.readComplete [read] hk hcc.symm (by simp) (by simpa using hread),
      h.act_header_syndrome syn data ha hp hcount hstart hretry]
    simp only [Drive.receives_one _ _ _ hcc]
    rfl
  · intro reads latest hk hp hcount hstart hj hne hleft
    rw [h.rereadComplete read hk nofun hread,
      h.act_header_again syn data reads latest ha hp hcount hstart ((congrArg _ (by rw [hp])).trans hj) hne hleft]
    rfl
  · intro reads latest hk hp hcounter hlog hj seq logged took
    refine ⟨?_, ?_⟩
    · intro heq hallowed hdecodable hlt
      rw [h.rereadComplete read hk nofun hread, h.act_corrects syn data reads latest hp hcounter hlog hj heq hallowed hdecodable hlt]
      rfl
    · intro hne hnone
      rw [h.rereadComplete read hk nofun hread, h.act_givesUp syn data reads latest hp hcounter hlog hj hne hnone]
      rfl
  · intro clean judged accepted examined
    have hclean : clean.wf = true := by simp [clean, SectorRead.wf, SectorReport.wf, hdata]
    refine ⟨?_, ?_, ?_⟩
    · intro hk hp hcc hcount hn arrived
      have hexamined : exec (.readComplete d (some [clean])) s =
          .next ((arrived none).examinePage d t data [.drive d, .placeTasks d]) := by
        rw [h.readComplete [clean] hk hcc.symm (by simp) (by simpa using hclean), h.act_header_clean data hn hp hcount]
        simp only [Drive.receives_one _ _ _ hcc]
        rfl
      refine ⟨hexamined, ?_⟩
      intro info origin hacc hstreams hfilling
      have hrec : (arrived none).driveRec d = (s.driveRec d).receives c [clean] := by
        rw [Drive.receives_one _ _ _ hcc]
        exact h.driveRec_of (arrived none) _ rfl
      have hholds : ((arrived none).driveRec d).HoldsHeader t.frame := hrec ▸ h.holdsHeader [clean]
      have hquiet : ((arrived none).driveRec d).asks = [] := hrec ▸ h.asks
      have hdrives : d < (arrived none).drives.length := by simpa [arrived, State.withDrive] using h.length
      rw [hexamined, (arrived none).examinePage_readsData d t data info origin hacc hfilling hdrives hstreams ha hholds hquiet
        h.task]
      refine congrArg (fun l : List Drive => Host.Outcome.next { (arrived none).acceptPage t.frame info origin with drives := l })
        (show (s.drives.modify d _).modify d _ = (s.drives.modify d _).modify d _ from ?_)
      rw [List.modify_modify_eq, List.modify_modify_eq]
      rfl
    · intro ss hk hp hlen hmax hcount hss
      have hreports : ∀ x ∈ ss, x.report = .clean := fun x hx => (hss x hx).1
      have hwf : ∀ x ∈ ss, x.wf = true := fun x hx => by simp [SectorRead.wf, SectorReport.wf, hss x hx]
      rw [h.readComplete ss hk hlen hmax hwf, h.act_data_clean ss hp (hcount.trans hlen.symm) hreports]
      rfl
    · intro reads latest hk hlt hn hj took
      rw [h.rereadComplete clean hk nofun hclean]
      obtain hp | hp := Nat.eq_zero_or_pos c.pos
      · rw [if_pos hp, h.act_header_recovered data hn reads latest hp hlt hj]
        rfl
      · rw [if_neg (Nat.pos_iff_ne_zero.1 hp), h.act_recovers data reads latest hp hj]
        rfl

end Sys2Proof.Machine

namespace Sys2Proof.Machine

open Sys2Proof.Config

/-! ### A relocation job takes its hold, or is dropped (R166) -/

/-- The relocation job that waits for the frame's hold is taken up (R166). -/
theorem State.relocationJobHit (s : State) (f : Nat) (q : RelocJob) (hpos : 0 < f) (hf : f < 512)
    (hq : s.media.relocJobs.find? (fun q => q.frame == f && q.job.isNone) = some q) :
    exec (.relocationJobHit f) s = .next (s.act (fun r => r.relocationHit q)) := by
  show execRelocationJobHit f s = _
  rw [execRelocationJobHit, hq]
  exact outcome_wf _ _ (by simp [Instr.wf, hpos, hf])

/-- A new hold on a SEALED frame takes the frame off the reclaim list (R2, R6, R15). -/
theorem Run.addHold_sealed (r : Run) (n : Nat) (h : Holder) (tag : Location) (info : PageInfo) (d c : Bool)
    (hs : List Holder) (hn : 0 < n) (hf : r.frameAt n = .sealed tag info d c hs) (hnew : h ∉ hs) :
    r.addHold n h = { r with frame := { r.frame with
      frames := r.frame.frames.set (n - 1) (.sealed tag info d c (hs ++ [h])),
      reclaim := r.frame.reclaim.filter (fun m => m != n) } } := by
  have hfree : h ∉ (r.frameAt n).holders := by rw [hf]; exact hnew
  unfold Run.addHold
  dsimp only
  rw [if_neg hfree, Run.setFrame_pos _ _ _ hn, hf]
  rfl

/-- The Scheduler's record of a relocation job that has just taken its hold (R101, R166). -/
def RelocJob.queued (q : RelocJob) (id age : Nat) : Job :=
  { id := id, kind := .relocation q.entry, level := 3, age := age, slot := none, state := .queued, started := false,
    needs := [], pair := none, pendingPreempt := false, awaited := [], cancelTaken := false }

/-- The burn job record of the one page that a relocation job burns again (R142, R166). -/
def RelocJob.burn (q : RelocJob) (id : Nat) (tag : Location) (info : PageInfo) : BurnJob :=
  { job := id, slot := none, entry := some q.entry, deedClass := info.deedClass, deedSeq := info.deedSeq,
    pageIndex := info.pageIndex, stamp := List.replicate 8 0, origin := some tag,
    pages := [{ frame := q.frame, imageLen := info.imageLen, attempts := 0, placed := none }],
    waiting := [.page 0], failing := none }

section
variable (r : Run) (q : RelocJob) (tag : Location) (info : PageInfo) (dm co : Bool) (hs : List Holder)
  (hframe : r.frameAt q.frame = .sealed tag info dm co hs)
include hframe

/-- A relocation job whose frame still bears the old location takes its hold, and its job and its burn job are made
(R166). -/
theorem Run.relocationHit_holds (hpos : 0 < q.frame) (htag : tag = q.old) (hnew : Holder.relocation q.entry ∉ hs)
    (hqueues : r.sched.queues = [[], [], [], []]) :
    r.relocationHit q = Run.wantPass { r with
      frame := { r.frame with
        frames := r.frame.frames.set (q.frame - 1) (.sealed tag info dm co (hs ++ [.relocation q.entry])),
        reclaim := r.frame.reclaim.filter (fun n => n != q.frame) },
      slot := { r.slot with nextAge := satInc max32 r.slot.nextAge },
      sched := { r.sched with
        jobs := r.sched.jobs ++ [q.queued r.sched.nextJob r.slot.nextAge],
        queues := [[], [], [], [r.sched.nextJob]], nextJob := r.sched.nextJob + 1 },
      media := { r.media with relocJobs := r.media.relocJobs.map (fun x =>
        if x.entry = q.entry then { x with job := some r.sched.nextJob } else x) },
      filing := { r.filing with burns := r.filing.burns ++ [q.burn r.sched.nextJob tag info] } } := by
  simp only [Run.relocationHit, hframe, if_pos htag, r.addHold_sealed q.frame _ tag info dm co hs hpos hframe hnew,
    Run.takeAge, Run.createJob, hqueues]
  rfl

/-- A relocation job whose frame bears another location is dropped (R166). -/
theorem Run.relocationHit_dropped (htag : tag ≠ q.old) :
    r.relocationHit q = { r with
      store := { r.store with relocs := r.store.relocs.set q.entry .free },
      media := { r.media with
        log := r.media.log.map (fun e => if q.entries.contains e.seq then { e with mark := .deferred } else e),
        relocJobs := r.media.relocJobs.filter (fun x => x.entry != q.entry) } } := by
  simp only [Run.relocationHit, hframe, if_neg htag]
  rfl

end

/-! ### A relocation job behind another burn job (R104) -/

/-- A burn job that runs stands before every other (R104). -/
theorem Run.otherBurn_isSome (r : Run) (id : Nat) (k : Job) (hk : k ∈ r.sched.jobs) (hkind : k.kind.isBurn = true)
    (hid : k.id ≠ id) (hrun : k.state = .running) : (r.otherBurn id).isSome = true :=
  List.find?_isSome.2 ⟨k, hk, by simp [hkind, hid, hrun]⟩

/-- A burn job of level 2 or 3 is passed over while another runs, since it preempts none (R104, R113). -/
theorem Run.passBurn_behind (r : Run) (j : Job) (hother : (r.otherBurn j.id).isSome = true) (hlevel : 1 < j.level) :
    r.passBurn j = r := by
  obtain ⟨k, hk⟩ := Option.isSome_iff_exists.1 hother
  have hlow : ¬ j.level ≤ 1 := by omega
  simp [Run.passBurn, hk, hlow]

/-- A pass over one relocation job that waits behind another burn job changes nothing (R104). -/
theorem State.pass_relocationBehind (t : State) (j : Job) (entry : Nat) (hstarted : t.startup.started = true)
    (hacting : t.startup.acting = true) (hq : t.sched.queues = [[], [], [], [j.id]])
    (hj : (Run.of t).jobAt j.id = some j) (hkind : j.kind = .relocation entry) (hlevel : 1 < j.level)
    (hother : ((Run.of t).otherBurn j.id).isSome = true) : t.act Run.wantPass = t := by
  have hpass : (Run.of t).passJob j.id = Run.of t := by
    unfold Run.passJob
    rw [hj]
    dsimp only
    rw [hkind]
    dsimp only
    rw [Run.passBurn_behind _ j hother hlevel]
    exact ite_self _
  have hdispatch : (Run.of t).dispatch = Run.of t := by
    rw [Run.dispatch_queues _ hstarted hacting rfl, Run.of_sched, hq]
    exact hpass
  have hfuel : fuel = 999999 + 1 := rfl
  have hsettle : Run.settle fuel (Run.of t).wantPass = Run.of t := by
    rw [hfuel, Run.settle_pass _ _ rfl rfl]
    exact (congrArg (Run.settle 999999) hdispatch).trans (Run.settle_done _ _ rfl rfl)
  exact congrArg t.withRun hsettle

/-- A pass that finds one relocation job newly queued, while another burn job runs, changes nothing (R104). -/
theorem State.pass_queuedRelocation (t : State) (q : RelocJob) (jobs : List Job) (id age : Nat)
    (hstarted : t.startup.started = true) (hacting : t.startup.acting = true) (hq : t.sched.queues = [[], [], [], [id]])
    (hjobs : t.sched.jobs = jobs ++ [q.queued id age]) (hfresh : ∀ j ∈ jobs, j.id ≠ id)
    (hrunning : ∃ k ∈ jobs, k.kind = .file ∧ k.state = .running) : t.act Run.wantPass = t := by
  obtain ⟨k, hk, hkind, hrun⟩ := hrunning
  have hnew : q.queued id age ∈ t.sched.jobs := by rw [hjobs]; simp
  have hold : k ∈ t.sched.jobs := by rw [hjobs]; simp [hk]
  have honly : ∀ y ∈ t.sched.jobs, y.id = id → y = q.queued id age := by
    intro y hy hid
    rw [hjobs] at hy
    obtain hy | hy := List.mem_append.1 hy
    · exact absurd hid (hfresh y hy)
    · exact List.mem_singleton.1 hy
  refine t.pass_relocationBehind (q.queued id age) q.entry hstarted hacting hq ?_ rfl (by simp [RelocJob.queued]) ?_
  · exact Run.jobAt_unique _ (q.queued id age) hnew honly
  · exact Run.otherBurn_isSome _ _ k hold (by simp [hkind, JobKind.isBurn]) (hfresh k hk) hrun

/-! ### An item in flight whose copies have both passed (R147) -/

/-- An item in flight whose two copies have both passed (R147). -/
def Flight.bothPassed (i : Flight) (cp cs : Copy) : Flight :=
  { i with primary := some { cp with state := .passed }, safety := some { cs with state := .passed } }

/-- Both copies of an item have passed once the second of them has (R147). -/
theorem Flight.setCopy_second (i : Flight) (d : Nat) (cp cs : Copy) (hp : i.primary = some cp) (hs : i.safety = some cs)
    (hsecond : (cp.drive = d ∧ cs.drive ≠ d ∧ cp.state = .handed ∧ cs.state = .passed) ∨
      (cs.drive = d ∧ cp.drive ≠ d ∧ cs.state = .handed ∧ cp.state = .passed)) :
    i.setCopy d .passed = i.bothPassed cp cs := by
  have hpassed (c : Copy) (h : c.state = .passed) : c = { c with state := .passed } := by rw [← h]
  unfold Flight.setCopy Flight.bothPassed
  rw [hp, hs]
  obtain ⟨hdrive, hne, -, hstate⟩ | ⟨hdrive, hne, -, hstate⟩ := hsecond
  · simp only [Option.map_some, if_pos hdrive, if_neg hne]
    rw [← hpassed cs hstate]
  · simp only [Option.map_some, if_pos hdrive, if_neg hne]
    rw [← hpassed cp hstate]

/-- The VERIFY that passes the second copy of the one item in flight: both copies have passed (R93, R147). -/
theorem Run.verifyEnds_second (r : Run) (d : Nat) (c : Issued) (i : Flight) (cp cs : Copy)
    (hserves : ((r.driveAt d).buf c.buf).serves = some (.item i.id)) (hstreams : r.mover.streams = [])
    (hpresented : r.mover.presented = none) (hflight : r.filing.flight = [i])
    (hsecond : i.setCopy d .passed = i.bothPassed cp cs) :
    r.verifyEnds d c .passed = ({ r.modDrive d (fun v => v.verified c.buf) with
      filing := { r.filing with flight := [i.bothPassed cp cs] } } : Run).listing (r.todo ++ [.pump, .drive d]) := by
  have hflown : r.filing.flight.map (fun f => if f.id = i.id then f.setCopy d .passed else f) = [i.bothPassed cp cs] := by
    simp [hflight, hsecond]
  rw [r.verifyEnds_item d i.id c .passed hserves (by simp [hstreams]) (by simp [hpresented]), Run.copyResult, Run.push_push]
  exact congrArg (fun fs => ({ r.modDrive d (fun v => v.verified c.buf) with
    filing := { r.filing with flight := fs } } : Run).listing (r.todo ++ [.pump, .drive d])) hflown

/-- A drive with no REREAD to issue, once its VERIFY has completed (R93). -/
theorem Drive.verified_unread (v : Drive) (b : Nat) (h : v.rereads = []) :
    v.verified b = { v.modBuf b (fun _ => Buffer.blank) with command := none } := by
  unfold Drive.verified Drive.modBuf
  rw [h]
  split <;> rfl

/-- A drive that is READY after its VERIFY, with nothing more to do (R86, R93). -/
def Drive.readyVerified (v : Drive) (b now : Nat) : Drive :=
  { v.modBuf b (fun _ => Buffer.blank) with command := none, state := .ready, readySince := now }

/-- A drive whose VERIFY has completed, with its other buffer FREE and no work asked of it, is READY (R86, R93). -/
theorem Run.driveStep_verified (r u : Run) (d b : Nat) (hr : r.drives = u.drives.modify d (fun v => v.verified b))
    (hlen : d < u.drives.length) (hb : b < 2) (hother : (u.driveAt d).buf (1 - b) = Buffer.blank)
    (hstate : (u.driveAt d).state = .busy) (hrereads : (u.driveAt d).rereads = []) (hasks : (u.driveAt d).asks = [])
    (hask : (u.driveAt d).unloadAsked = false) :
    r.driveStep d = (Run.push { r with drives := u.drives.modify d (fun v => v.readyVerified b r.now) }
      (.driveReady d)).wantPass := by
  have hat : r.driveAt d = (u.driveAt d).verified b := by
    unfold Run.driveAt
    rw [hr]
    exact u.driveAt_modDrive d _ hlen
  have hfree := Drive.verified_blank _ b hb hother
  have hunread := (u.driveAt d).verified_unread b hrereads
  have hidle : (r.driveAt d).state = .busy ∧ (r.driveAt d).rereads = [] ∧ (r.driveAt d).asks = [] ∧
      (r.driveAt d).unloadAsked = false := by
    rw [hat]
    simp [Drive.verified, hstate, hrereads, hasks, hask]
  rw [← hat] at hfree
  obtain ⟨hA, hB⟩ := hfree
  obtain ⟨hbusy, hnone, hquiet, hunasked⟩ := hidle
  rw [r.driveStep_over d hbusy (by rw [hat]; rfl) hA hB hnone hquiet hunasked]
  refine congrArg (fun vs => (Run.push { r with drives := vs } (.driveReady d)).wantPass) ?_
  rw [hr, List.modify_modify_eq]
  refine modify_congr_getD u.drives d _ _ Drive.start ?_
  exact congrArg (fun v : Drive => { v with state := .ready, readySince := r.now }) hunread

/-- The one item in flight is taken once its copies have their results (R147). -/
theorem Run.pump_settles (r : Run) (f : Flight) (hflight : r.filing.flight = [f]) (hsettled : f.settled = true) :
    r.pump = (r.settleItem f).push .pump := by
  simp [Run.pump, hflight, hsettled]

/-- The write points of a side of two volumes rise to a sector, the one after the other (R136, R147). -/
def Run.raisePair (r : Run) (p s : Nat) (side : Side) (upTo : Nat) : Run :=
  (r.raiseWritePoint p side upTo).raiseWritePoint s side upTo

/-- A burn job of one page once the page is PLACED (R147). -/
def BurnJob.placedAt (b : BurnJob) (p : BurnPage) (l : PlacedAt) : BurnJob :=
  { b with pages := [{ p with placed := some l }] }

/-- The page of a job whose one item in flight has passed on both volumes is PLACED, and the write points rise past it; its
frame, SEALED and not FILING, keeps its tag (R147, R163). -/
theorem Run.settleItem_placed (r : Run) (f : Flight) (cp cs : Copy) (b : BurnJob) (p : BurnPage)
    (hflight : r.filing.flight = [f]) (hjob : f.job = some b.job) (hitem : f.item = .page 0)
    (hp : f.primary = some cp) (hs : f.safety = some cs) (hpp : cp.state = .passed) (hsp : cs.state = .passed)
    (hburns : r.filing.burns = [b]) (hpages : b.pages = [p])
    (hframe : ∀ l info o hs, r.frameAt p.frame ≠ .filing l info o hs) :
    r.settleItem f = { r with
      store := (r.raisePair cp.serial cs.serial f.side (f.start + f.length)).store,
      filing := { r.filing with
        flight := [],
        burns := [b.placedAt p { primary := cp.serial, safety := cs.serial, side := f.side, sector := f.start }] } } := by
  let u : Run := { r with
    store := (r.raisePair cp.serial cs.serial f.side (f.start + f.length)).store,
    filing := { r.filing with flight := [] } }
  have hcopies : f.copies = [cp, cs] := by simp [Flight.copies, hp, hs]
  have hgone : r.filing.flight.filter (fun g => g.id != f.id) = [] := by simp [hflight]
  have htaken : r.settleItem f = u.pageSettle b.job 0 f := by
    unfold Run.settleItem
    rw [hcopies, hjob, hitem]
    exact congrArg (fun l => Run.pageSettle { u with filing := { r.filing with flight := l } } b.job 0 f) hgone
  let l : PlacedAt := { primary := cp.serial, safety := cs.serial, side := f.side, sector := f.start }
  let placed : Run := { u with filing := { u.filing with burns := [b.placedAt p l] } }
  have hpassed : f.copies.all (fun c => c.state == .passed) = true := by simp [hcopies, hpp, hsp]
  have hmod : u.modBurn b.job (fun b => { b with pages := b.pages.modify 0 (fun p => { p with placed := some l }) }) =
      placed := by
    simp [Run.modBurn, u, placed, hburns, hpages, BurnJob.placedAt]
  have hat : ((placed.burnAt b.job).bind (fun b => (b.pages[0]?).map (fun p => p.frame))).getD 0 = p.frame := by
    simp [Run.burnAt, placed, BurnJob.placedAt]
  rw [htaken]
  unfold Run.pageSettle
  simp only [hpassed, if_true, hp, hs]
  rw [hmod, hat]
  split
  next l info o hs hfiling => exact absurd hfiling (hframe l info o hs)
  next => rfl

/-! ### The relocated page is reported (R163, R167) -/

/-- The job in hand is filed once every page of it is PLACED and nothing is in flight (R151, R167). -/
theorem Run.pump_files (r : Run) (j : Job) (b : BurnJob) (x y : Nat) (side : Side) (hflight : r.filing.flight = [])
    (hpair : r.store.pair = .active x y side) (hj : r.inHand = some j) (hrun : j.state = .running)
    (hb : r.burnAt j.id = some b) (hfailing : b.failing = none) (hplaced : b.allPlaced = true) : r.pump = r.burnFiled b := by
  simp [Run.pump, hflight, hpair, hj, hrun, hb, hfailing, hplaced]

/-- The filing of a relocation job's page reports the new location, which is that of the primary copy (R163, R167). -/
theorem Run.burnFiled_relocation (r : Run) (b : BurnJob) (p : BurnPage) (entry : Nat) (l : PlacedAt) (hslot : b.slot = none)
    (hentry : b.entry = some entry) :
    r.burnFiled (b.placedAt p l) =
      (r.relocationDone entry { serial := l.primary, side := l.side, sector := l.sector }).burnOver b.job := by
  simp [Run.burnFiled, BurnJob.placedAt, hslot, hentry]

/-- A holder goes from a SEALED frame without a grant: the frame joins the reclaim list when it was the last (R6, R15). -/
theorem Run.dropHold_ungranted (r : Run) (n : Nat) (h : Holder) (tag : Location) (info : PageInfo) (d c : Bool)
    (hs : List Holder) (hf : r.frameAt n = .sealed tag info d c hs) (hm : h ∈ hs) (hgrants : r.fee.grantCount n = 0)
    (hreclaim : n ∉ r.frame.reclaim) :
    r.dropHold n h = { r with
      frame := { r.frame with
        frames := r.frame.frames.set (n - 1) (.sealed tag info d c (hs.filter (fun x => x != h))),
        reclaim := if hs.filter (fun x => x != h) = [] then r.frame.reclaim ++ [n] else r.frame.reclaim },
      todo := if hs.filter (fun x => x != h) = [] then r.serveFirst.todo else r.todo } := by
  obtain ⟨hpos, hrec⟩ := r.frameAt_pos n (by rw [hf]; exact nofun)
  have hlen : n ≤ r.frame.frames.length := by
    obtain ⟨hlt, -⟩ := List.getElem?_eq_some_iff.1 hrec
    omega
  rw [r.dropHold_sealed n h tag info d c hs hf hm,
    Run.checkReclaim_sealed _ n tag info d c _ (r.setFrame_frameAt n _ hpos hlen), Run.setFrame_pos _ _ _ hpos]
  by_cases hleft : hs.filter (fun x => x != h) = []
  · rw [if_pos ⟨hleft, hgrants, hreclaim⟩, if_pos hleft, if_pos hleft]
    rfl
  · rw [if_neg (fun ⟨h, _⟩ => hleft h), if_neg hleft, if_neg hleft]
    rfl

/-- A relocation job whose outcome is known leaves the Media Check Unit's list, and its frame loses its hold (R167). -/
def Run.relocationOver (r : Run) (q : RelocJob) : Run :=
  Run.dropHold { r with media := { r.media with relocJobs := r.media.relocJobs.filter (fun x => x.entry != q.entry) } }
    q.frame (.relocation q.entry)

/-- The list is empty once the one relocation job has left it. -/
theorem Run.relocationOver_last (r : Run) (q : RelocJob) (h : r.media.relocJobs = [q]) :
    r.relocationOver q =
      Run.dropHold { r with media := { r.media with relocJobs := [] } } q.frame (.relocation q.entry) := by
  simp [Run.relocationOver, h]

/-- The one relocation job there is has an entry RESERVED with its old location and holds its frame, which is SEALED and has
no grant (R163, R166). -/
def Run.HoldsRelocation (r : Run) (q : RelocJob) (old tag : Location) (info : PageInfo) (d c : Bool) (hs : List Holder) :
    Prop :=
  r.media.relocJobs = [q] ∧ r.store.relocs[q.entry]? = some (.reserved old) ∧
    r.frameAt q.frame = .sealed tag info d c hs ∧ Holder.relocation q.entry ∈ hs ∧ r.fee.grantCount q.frame = 0 ∧
    q.frame ∉ r.frame.reclaim

/-- The blocks once the relocation job has been reported: its entry is AWAITING_ACK, RELOCATED has been told, no relocation job
is listed, and its frame, without its hold, keeps its tag (R163, R167). -/
def Parts.relocationReported (p : Parts) (q : RelocJob) (old new tag : Location) (info : PageInfo) (d c : Bool)
    (left : List Holder) : Parts :=
  { p with
    store := { p.store with relocs := p.store.relocs.set q.entry (.awaitingAck old new) },
    slot := p.slot.takeNotice (.relocated old new),
    media := { p.media with relocJobs := [] },
    frame := { p.frame with
      frames := p.frame.frames.set (q.frame - 1) (.sealed tag info d c left),
      reclaim := if left = [] then p.frame.reclaim ++ [q.frame] else p.frame.reclaim } }

/-- The one relocation job is reported; the frame-wait queue is served when its frame joins the reclaim list (R15, R167). -/
theorem Run.relocationDone_last (r : Run) (q : RelocJob) (old new tag : Location) (info : PageInfo) (d c : Bool)
    (hs : List Holder) (h : r.HoldsRelocation q old tag info d c hs) (hservice : r.startup.inService = true) :
    let left := hs.filter (fun h => h != .relocation q.entry)
    r.relocationDone q.entry new = { r with
      toParts := r.toParts.relocationReported q old new tag info d c left,
      todo := if left = [] then r.serveFirst.todo else r.todo } := by
  intro left
  obtain ⟨hjobs, hentry, hf, hm, hgrants, hreclaim⟩ := h
  have hfound : r.media.relocJobs.find? (fun x => x.entry == q.entry) = some q := by simp [hjobs]
  have hdone : r.relocationDone q.entry new =
      ((r.setReloc q.entry (.awaitingAck old new)).notice (.relocated old new)).relocationOver q := by
    simp only [Run.relocationDone, hfound, hentry]
    rfl
  rw [hdone, Run.notice_inService (r.setReloc q.entry (.awaitingAck old new)) _ hservice]
  refine (Run.relocationOver_last _ q ?_).trans ?_
  · exact hjobs
  · exact Run.dropHold_ungranted _ q.frame _ tag info d c hs hf hm hgrants hreclaim

/-! ### The end of the job that held the drives (R102, R111) -/

/-- An assignment record that is clear, but for the holding of a job. -/
def Assign.HeldAtMost (a : Assign) (job : Nat) : Prop := a = Assign.clear ∨ a = { Assign.clear with holder := some job }

/-- Such a record is idle. -/
theorem Assign.HeldAtMost.idle {a : Assign} {job : Nat} (h : a.HeldAtMost job) : a.Idle := by
  obtain rfl | rfl := h <;> exact ⟨rfl, rfl, rfl, rfl, rfl⟩

/-- A job that does no more than hold drives leaves every assignment record clear (R111). -/
theorem Run.releaseDrives_held (r : Run) (job : Nat) (ho : r.picker.orders = [])
    (ha : ∀ a ∈ r.sched.assigns, a.HeldAtMost job) :
    r.releaseDrives job =
      { r with sched := { r.sched with assigns := List.replicate r.sched.assigns.length Assign.clear } } := by
  have hincoming (d : Nat) : (r.assignAt d).incoming = none := by
    obtain ⟨-, -, -, h, -⟩ := r.assignAt_idle (fun a h => (ha a h).idle) d
    exact h
  unfold Run.releaseDrives
  rw [r.dropOrders_none job ho]
  simp only [hincoming, List.filter_false, List.foldl_nil]
  refine congrArg (fun l => ({ r with sched := { r.sched with assigns := l } } : Run)) ?_
  refine List.eq_replicate_iff.2 ⟨List.length_map .., fun b hb => ?_⟩
  obtain ⟨a, hmem, rfl⟩ := List.mem_map.1 hb
  obtain rfl | rfl := ha a hmem <;> simp [Assign.clear]

/-- A job's end depends on the working copy through what the release of its drives leaves. -/
theorem Run.jobEnd_congr (r u : Run) (job : Nat) (h : r.releaseDrives job = u.releaseDrives job) :
    r.jobEnd job = u.jobEnd job := by
  unfold Run.jobEnd
  rw [h]

/-- No work waits in the blocks but one job, which does no more than hold drives. -/
def Parts.OnlyJob (p : Parts) (j : Job) : Prop :=
  p.sched.jobs = [j] ∧ p.sched.queues = [[], [], [], []] ∧ p.sched.suspended = [] ∧ p.sched.assigns.length = 4 ∧
    (∀ a ∈ p.sched.assigns, a.HeldAtMost j.id) ∧ p.frame.waitQueue = [] ∧ p.retr.fetches = [] ∧ p.retr.tasks = [] ∧
    p.picker.orders = [] ∧ p.filing.closeOps = [] ∧ p.restores = []

/-- The one job there is ends, and the drives that it held are free (R102, R111). -/
theorem Run.jobEnd_only (r : Run) (j : Job) (h : r.toParts.OnlyJob j) :
    r.jobEnd j.id =
      (Run.lookAtDrives { r with
        sched := { r.sched with jobs := [], assigns := List.replicate 4 Assign.clear } }).wantPass := by
  obtain ⟨hj, hq, hs, hlen, ha, hw, -, -, ho, -, -⟩ := h
  let u : Run := { r with sched := { r.sched with assigns := List.replicate 4 Assign.clear } }
  have hreleased : r.releaseDrives j.id = u.releaseDrives j.id := by
    rw [r.releaseDrives_held j.id ho ha, hlen, u.releaseDrives_unassigned j.id rfl ho]
  rw [r.jobEnd_congr u j.id hreleased, u.jobEnd_last j hj hs rfl hw ho (by simp [u, hq]), ← hq]

/-- The blocks once the one job there is, a burn job, has ended (R102, R111). -/
def Parts.burnOver (p : Parts) : Parts :=
  { p with
    filing := { p.filing with burns := [] },
    sched := { p.sched with jobs := [], assigns := List.replicate 4 Assign.clear } }

/-- With nothing in flight no work waits in the part then. -/
theorem Parts.OnlyJob.burnOver_calm {p : Parts} {j : Job} (h : p.OnlyJob j) (hflight : p.filing.flight = []) :
    p.burnOver.Calm := by
  obtain ⟨-, hq, hs, -, -, hw, hfetch, htask, ho, hclose, hr⟩ := h
  exact ⟨rfl, hq, hs, rfl, hw, hfetch, htask, ho, by rw [Parts.burnOver, hflight]; exact nofun, hclose, hr⟩

/-- With the one burn job over, the Scheduler looks at every drive and the waiting closes are taken (R102, R150). -/
theorem Run.burnOver_only (r : Run) (j : Job) (b : BurnJob) (h : r.toParts.OnlyJob j) (hburns : r.filing.burns = [b])
    (hb : b.job = j.id) :
    r.burnOver j.id = ((Run.lookAtDrives { r with toParts := r.toParts.burnOver }).wantPass).push .closes := by
  have hgone : r.filing.burns.filter (fun b => b.job != j.id) = [] := by simp [hburns, hb]
  unfold Run.burnOver
  rw [hgone]
  exact congrArg (Run.push · .closes) (Run.jobEnd_only { r with filing := { r.filing with burns := [] } } j h)

/-- The service of an empty frame-wait queue, where it comes first, and dull consequences after it change no block's record
in a calm part. -/
theorem Run.settle_served (n : Nat) (r : Run) (ts : List Todo) (p : Prop) [Decidable p]
    (htodo : r.todo = if p then .service :: ts else ts) (hcalm : r.toParts.Calm) (hd : ∀ x ∈ ts, x.dull r.toParts) :
    (Run.settle (n + 1) r).toParts = r.toParts := by
  by_cases hp : p
  · have hwait : r.frame.waitQueue = [] := by
      obtain ⟨-, -, -, -, h, -⟩ := hcalm
      exact h
    rw [if_pos hp] at htodo
    rw [Run.settle_cons n r _ _ htodo]
    refine (congrArg (fun u => (Run.settle n u).toParts) (Run.service_idle (r.listing ts) hwait)).trans ?_
    exact Run.settle_dull n (r.listing ts) hcalm hd
  · rw [if_neg hp] at htodo
    exact Run.settle_dull _ r hcalm (htodo ▸ hd)

/-- The burn job in hand is the one job there is (R135). -/
theorem Run.inHand_only (r : Run) (j : Job) (entry : Nat) (h : r.toParts.OnlyJob j) (hkind : j.kind = .relocation entry)
    (hrun : j.state = .running) : r.inHand = some j := by
  obtain ⟨hj, -⟩ := h
  simp [Run.inHand, hj, hkind, hrun, JobKind.isBurn]

/-- What the Scheduler and the Filing Unit are left to look at when a burn job has ended (R102, R150). -/
def looksAfterBurn : List Todo :=
  [.depart 0, .placeTasks 0, .depart 1, .placeTasks 1, .depart 2, .placeTasks 2, .depart 3, .placeTasks 3, .closes]

/-- The burn job record of a relocation job that is RUNNING and has not failed (R142, R166). -/
def BurnJob.Relocates (b : BurnJob) (j : Job) (entry : Nat) : Prop :=
  j.kind = .relocation entry ∧ j.state = .running ∧ b.job = j.id ∧ b.slot = none ∧ b.entry = some entry ∧ b.failing = none

section
variable (r : Run) (j : Job) (b : BurnJob) (p : BurnPage) (l : PlacedAt) (q : RelocJob) (old tag : Location) (info : PageInfo)
  (d c : Bool) (hs : List Holder) (honly : r.toParts.OnlyJob j) (hrelocates : b.Relocates j q.entry)
  (hflight : r.filing.flight = []) (hburns : r.filing.burns = [b.placedAt p l])
  (hpair : ∃ x y side, r.store.pair = .active x y side) (hholds : r.HoldsRelocation q old tag info d c hs)
  (hservice : r.startup.inService = true)
include honly hrelocates hflight hburns hpair hholds hservice

/-- A relocation job in hand whose page is PLACED is reported, and it is over (R163, R167). -/
theorem Run.pump_relocates :
    let new : Location := { serial := l.primary, side := l.side, sector := l.sector }
    let left := hs.filter (fun h => h != .relocation q.entry)
    r.pump.toParts = (r.toParts.relocationReported q old new tag info d c left).burnOver ∧
    r.pump.todo = (if left = [] then r.serveFirst.todo else r.todo) ++ looksAfterBurn := by
  intro new left
  obtain ⟨hkind, hrun, hb, hslot, hentry, hfailing⟩ := hrelocates
  obtain ⟨x, y, side, hpair⟩ := hpair
  have hburn : r.burnAt j.id = some (b.placedAt p l) := by simp [Run.burnAt, hburns, BurnJob.placedAt, hb]
  have hpump : r.pump = (r.relocationDone q.entry new).burnOver j.id := by
    rw [r.pump_files j (b.placedAt p l) x y side hflight hpair (r.inHand_only j q.entry honly hkind hrun) hrun hburn
      hfailing rfl, r.burnFiled_relocation b p q.entry l hslot hentry, hb]
  rw [hpump, r.relocationDone_last q old new tag info d c hs hholds hservice,
    Run.burnOver_only _ j (b.placedAt p l) ?honly ?hburns hb]
  case honly => exact honly
  case hburns => exact hburns
  refine ⟨rfl, ?_⟩
  rw [Run.push_todo]
  refine (congrArg (· ++ [Todo.closes]) (Run.lookAtDrives_todo _)).trans ?_
  rw [List.append_assoc]
  rfl

/-- What follows, with a drive that is READY besides, changes nothing more (R108, R167). -/
theorem Run.settle_relocates (n k : Nat) (hstage : r.startup.stage ≠ .drives) :
    (Run.settle (n + 1 + 1) (r.listing [.pump, .driveReady k])).toParts =
      (r.toParts.relocationReported q old { serial := l.primary, side := l.side, sector := l.sector } tag info d c
        (hs.filter (fun h => h != .relocation q.entry))).burnOver := by
  obtain ⟨hparts, htodo⟩ := (r.listing [.driveReady k]).pump_relocates j b p l q old tag info d c hs honly hrelocates hflight
    hburns hpair hholds hservice
  have hcalm : (r.listing [.driveReady k]).pump.toParts.Calm := by
    rw [hparts]
    exact Parts.OnlyJob.burnOver_calm (p := r.toParts.relocationReported ..) honly hflight
  have hdull : ∀ t ∈ Todo.driveReady k :: looksAfterBurn, t.dull (r.listing [.driveReady k]).pump.toParts := by
    rw [hparts]
    intro t ht
    simp only [looksAfterBurn, List.mem_cons, List.not_mem_nil, or_false] at ht
    obtain rfl | rfl | rfl | rfl | rfl | rfl | rfl | rfl | rfl | rfl := ht
    · exact hstage
    all_goals trivial
  rw [Run.settle_listing _ _ _ _ _ rfl]
  exact (Run.settle_served n _ (.driveReady k :: looksAfterBurn) (hs.filter (fun h => h != .relocation q.entry) = [])
    (htodo.trans (by split <;> rfl)) hcalm hdull).trans hparts

end

/-- Settles O58: the hit takes the hold and its job waits behind the one that runs, or drops the job; the last VERIFY settles
the page, and the Filing Unit then finds the job's work done. -/
theorem relocationJobTakesItsHold : Obligations.RelocationJobTakesItsHold := by
  unfold Obligations.RelocationJobTakesItsHold
  refine ⟨?_, ?_⟩
  · intro s f q tag info dm co hs hpos hlen hlt hfind hqf hframe
    subst hqf
    rw [s.relocationJobHit q.frame q hpos hlt hfind]
    refine ⟨fun htag hnew hstarted hacting hqueues hfresh hrunning => ?_, fun htag => ?_⟩
    · have hholds := (Run.of s).relocationHit_holds q tag info dm co hs hframe hpos htag hnew hqueues
      rw [s.act_wantPass _ _ hholds rfl rfl rfl rfl]
      refine congrArg Host.Outcome.next (State.pass_queuedRelocation _ q s.sched.jobs s.sched.nextJob s.slot.nextAge
        ?_ ?_ ?_ ?_ hfresh hrunning)
      · exact hstarted
      · exact hacting
      · rfl
      · rfl
    · rw [s.act_to _ _ ((Run.of s).relocationHit_dropped q tag info dm co hs hframe htag) rfl rfl]
      rfl
  · intro s d c j b p q i cp cs x y side tag info dm co hs hservice hstage hlen hd hc hk hbuf hserves hother hstate hrereads
      hasks hask hstreams hpresented hflight hijob hitem hp hs' hcopies hburns hbjob hbslot hbentry hpages hpframe hbwaiting
      hbfailing hcloses hpair hjobs hkind hrun hcancel hjslot hqueues hsuspended hassigns hheld htasks hfetches hwait horders
      hrestores hreloc hentry hpos hframe hm hgrants hreclaim new left raise raised
    let told : Run := { (Run.of s).modDrive d (fun v => v.verified c.buf) with
      filing := { s.filing with flight := [i.bothPassed cp cs] } }
    let l : PlacedAt := { primary := cp.serial, safety := cs.serial, side := i.side, sector := i.start }
    let placed : Run := { told with
      store := raised.store, filing := { s.filing with flight := [], burns := [b.placedAt p l] } }
    let ready : Run := Run.wantPass { placed with drives := s.drives.modify d (fun v => v.readyVerified c.buf s.now) }
    have hends : (Run.of s).verifyEnds d c .passed = told.listing [.pump, .drive d] :=
      (Run.of s).verifyEnds_second d c i cp cs hserves hstreams hpresented hflight (i.setCopy_second d cp cs hp hs' hcopies)
    have hnotFiling (m : Option Location) (n o hs) : told.frameAt p.frame ≠ .filing m n o hs := by
      rw [hpframe]
      show s.frameAt q.frame ≠ _
      rw [hframe]
      exact nofun
    have hplaced : (told.listing [.drive d]).consequence .pump = placed.listing [.drive d, .pump] := by
      refine ((told.listing [.drive d]).pump_settles (i.bothPassed cp cs) rfl rfl).trans ?_
      rw [(told.listing [.drive d]).settleItem_placed (i.bothPassed cp cs) _ _ b p rfl
        (hijob.trans (congrArg some hbjob.symm)) hitem rfl rfl rfl rfl hburns hpages hnotFiling]
      rfl
    have hready : (placed.listing [.pump]).consequence (.drive d) = ready.listing [.pump, .driveReady d] :=
      (placed.listing [.pump]).driveStep_verified (Run.of s) d c.buf rfl hlen hbuf hother hstate hrereads hasks hask
    have hsettled := ready.settle_relocates j b p l q q.old tag info dm co hs
      ⟨hjobs, hqueues, hsuspended, hassigns, hheld, hwait, hfetches, htasks, horders, hcloses, hrestores⟩
      ⟨hkind, hrun, hbjob, hbslot, hbentry, hbfailing⟩ rfl rfl ⟨x, y, side, hpair⟩
      ⟨hreloc, hentry, hframe, hm, hgrants, hreclaim⟩ hservice 999996 d hstage
    have hfuel : fuel = 999996 + 1 + 1 + 1 + 1 := rfl
    rw [s.verifyComplete d c .pass .passed hd hc hk (.inl ⟨rfl, rfl⟩)]
    refine congrArg Host.Outcome.next ?_
    show s.withRun (Run.settle fuel ((Run.of s).verifyEnds d c .passed)) = _
    rw [hends, hfuel, Run.settle_listing _ _ _ _ _ hplaced, Run.settle_listing _ _ _ _ _ hready, State.withRun, hsettled]
    rfl

end Sys2Proof.Machine

namespace Sys2Proof.Machine

open Sys2Proof.Config

/-! ### Sweeps that are idle too long (R182) -/

/-- The idle timer of a port whose cursor is not idle has reached its limit (R182). -/
theorem State.sweepIdleExpiry (s : State) (p : Nat) (k : Cursor) (hp : p < 8) (hk : s.fee.cursor p = some k) :
    exec (.sweepIdleExpiry p) s =
      .next ((s.reach (k.timerAt + s.settings.idleLimit)).act (fun r => r.sweepIdle p k)) := by
  show execSweepIdleExpiry p s = _
  rw [execSweepIdleExpiry, hk]
  exact outcome_wf _ _ (by simp [Instr.wf, hp])

/-- Settles O57: the cursor becomes idle and its notice is taken in service, at the clock the timer has reached. -/
theorem idleSweepsAreLost : Obligations.IdleSweepsAreLost := by
  unfold Obligations.IdleSweepsAreLost
  intro s p k hservice hp hk
  rw [s.sweepIdleExpiry p k hp hk, State.act_to _ _ _ (Run.notice_inService _ _ hservice) rfl rfl]
  rfl

/-! ### The grant of a waiting system transfer (R29, R37, R38) -/

/-- In service the part has main power, and its control-area check has not failed (R23). -/
theorem StartUp.stage_of_inService (u : StartUp) (h : u.inService = true) : u.stage ≠ .off ∧ u.stage ≠ .failed := by
  constructor <;> (intro hstage; simp [StartUp.inService, hstage] at h)

/-- The free port of a part with main power is granted (R37). -/
theorem State.portGrant (s : State) (hon : s.startup.stage ≠ .off) (hport : s.path.port = .free) :
    exec .portGrant s = .next (s.act Run.grantPort) := by
  show execPortGrant s = _
  rw [execPortGrant, if_pos ⟨hon, hport⟩]
  exact outcome_wf _ _ rfl

/-- A waiting system transfer is granted while the fairness count is below 8, or no internal transfer waits (R38). -/
theorem Run.grantPort_system (r : Run) (t : Transfer) (hwaiting : r.path.waiting = some t)
    (hturn : r.path.fairness < 8 ∨ r.internal = none) : r.grantPort = r.grantSystem t := by
  cases hinternal : r.internal with
  | none => simp only [Run.grantPort, hwaiting, hinternal]
  | some x =>
    have hbelow : r.path.fairness < 8 := hturn.resolve_right (by simp [hinternal])
    simp only [Run.grantPort, hwaiting, hinternal, hbelow, if_true]

/-- A transfer to an image frame that passes its judgement uses the port (R29). -/
theorem Run.grantSystem_passes (r u : Run) (t : Transfer) (hstage : r.startup.stage ≠ .failed) (himage : frameBytes ≤ t.addr)
    (hjudged : r.judgeFrame t = (.pass, u)) : r.grantSystem t = u.useSystem t r.internal.isSome := by
  simp only [Run.grantSystem, hstage, Nat.not_lt.2 himage, or_self, if_false, hjudged, if_true]

/-! ### A COPIER's read of a SEALED frame (R178, R179) -/

/-- A port holds the grants of the table that are its own and name the frame (R178). -/
theorem FeeMeter.holds_of_getElem? (m : FeeMeter) (p n i : Nat) (g : Grant) (hg : m.grants[i]? = some (some g))
    (hport : g.port = p) (hframe : g.frame = some n) : m.holds p n = true :=
  List.any_eq_true.2 ⟨some g, List.mem_of_getElem? hg, by simp [hport, hframe]⟩

/-- A COPIER's read of a SEALED frame on which its port holds a grant passes, and is applied to the port's cursor (R30,
R178). -/
theorem Run.judgeFrame_granted (r : Run) (t : Transfer) (p : Nat) (tag : Location) (info : PageInfo) (d c : Bool)
    (hs : List Holder) (hagent : r.settings.agent t.master = .copier p) (hread : t.write = false)
    (hframe : r.frameAt t.frame = .sealed tag info d c hs) (hholds : r.fee.holds p t.frame = true) :
    r.judgeFrame t = (.pass, r.applyRead p t.frame t.offset t.len info.imageLen true) := by
  have hoffer : r.offer p t.frame t.offset t.len = (true, r.applyRead p t.frame t.offset t.len info.imageLen true) := by
    simp only [Run.offer, hholds, hframe, if_true]
  simp only [Run.judgeFrame, hagent, Run.judgeCopier, hread, hframe, Frame.beyondMark, hoffer, Bool.false_eq_true, if_false,
    if_true]

/-- A read of a SEALED frame that begins at offset 0, or where the port's cursor stands on the frame, and reaches the image
end completes the sweep (R179). -/
theorem Run.applyRead_completes (r : Run) (p n o len imageLen : Nat)
    (hstart : o = 0 ∨ ∃ k, r.fee.cursor p = some k ∧ k.frame = n ∧ k.next = o) (hin : o < imageLen)
    (hend : imageLen ≤ o + len) : r.applyRead p n o len imageLen true = r.completeSweep p n := by
  have hinside : ¬ imageLen ≤ o := Nat.not_le.2 hin
  by_cases hzero : o = 0
  · subst hzero
    rw [Nat.zero_add] at hend
    simp only [Run.applyRead, hinside, if_false, hend, if_true, and_self]
  · obtain ⟨k, hk, hkframe, hknext⟩ := hstart.resolve_left hzero
    simp only [Run.applyRead, hinside, hzero, if_false, hk, hkframe, hknext, hend, if_true, and_self]

/-! ### The oldest OPEN grant (R173, R180) -/

/-- A grant is OPEN for a port on a frame (R173). -/
def Grant.OpenFor (g : Grant) (port frame : Nat) : Prop :=
  g.port = port ∧ ∃ fee cert certified, g.state = .opened frame fee cert certified

/-- An OPEN grant names its frame (R173). -/
theorem Grant.OpenFor.frame {g : Grant} {p n : Nat} (h : g.OpenFor p n) : g.frame = some n := by
  obtain ⟨_, fee, cert, certified, hstate⟩ := h
  simp only [Grant.frame, hstate]

/-- The age of grants is the order of their numbers, and then of their setting aside (R173). -/
theorem Grant.older_iff (g h : Grant) :
    g.older h = true ↔ g.number < h.number ∨ (g.number = h.number ∧ g.order < h.order) := by
  simp [Grant.older]

/-- Of two grants at most one is the older. -/
theorem Grant.older_asymm {g h : Grant} (hgh : g.older h = true) : h.older g = false := by
  rw [Bool.eq_false_iff]
  intro hhg
  rw [Grant.older_iff] at hgh hhg
  omega

/-- An OPEN grant of the port on the frame is the oldest, but for an older one that stands behind it in the table. -/
theorem oldestOpen_cons_open (p n b : Nat) (g : Grant) (os : List (Option Grant)) (hg : g.OpenFor p n) :
    oldestOpen p n b (some g :: os) =
      some (((oldestOpen p n (b + 1) os).filter (fun x => x.2.older g)).getD (b, g)) := by
  obtain ⟨hport, fee, cert, certified, hstate⟩ := hg
  simp only [oldestOpen, hstate, hport, and_self, if_true]
  cases oldestOpen p n (b + 1) os with
  | none => rfl
  | some x => by_cases hx : x.2.older g = true <;> simp [Option.filter, hx]

/-- Every other entry of the table is passed over. -/
theorem oldestOpen_cons_other (p n b : Nat) (o : Option Grant) (os : List (Option Grant))
    (ho : ∀ g, o = some g → ¬ g.OpenFor p n) : oldestOpen p n b (o :: os) = oldestOpen p n (b + 1) os := by
  cases o with
  | none => rfl
  | some g =>
    cases hstate : g.state with
    | setAside => simp only [oldestOpen, hstate]
    | reserved f => simp only [oldestOpen, hstate]
    | opened f fee cert certified =>
      have hnot : ¬ (g.port = p ∧ f = n) := by
        rintro ⟨hport, rfl⟩
        exact ho g rfl ⟨hport, fee, cert, certified, hstate⟩
      simp only [oldestOpen, hstate, hnot, if_false]

/-- The entry found is one of the table, and OPEN for the port on the frame. -/
theorem oldestOpen_mem (p n b : Nat) (os : List (Option Grant)) (x : Nat × Grant) (hx : oldestOpen p n b os = some x) :
    (∃ k : Nat, os[k]? = some (some x.2)) ∧ x.2.OpenFor p n := by
  induction os generalizing b with
  | nil => cases hx
  | cons o os ih =>
    have later (h : oldestOpen p n (b + 1) os = some x) : (∃ k : Nat, (o :: os)[k]? = some (some x.2)) ∧ x.2.OpenFor p n := by
      obtain ⟨⟨k, hk⟩, hopen⟩ := ih (b + 1) h
      exact ⟨⟨k + 1, hk⟩, hopen⟩
    by_cases ho : ∃ g, o = some g ∧ g.OpenFor p n
    · obtain ⟨g, rfl, hg⟩ := ho
      rw [oldestOpen_cons_open p n b g os hg, Option.some.injEq] at hx
      cases hrest : (oldestOpen p n (b + 1) os).filter (fun x => x.2.older g) with
      | none =>
        rw [hrest] at hx
        subst hx
        exact ⟨⟨0, rfl⟩, hg⟩
      | some y =>
        rw [hrest] at hx
        obtain rfl : y = x := hx
        exact later (Option.filter_eq_some_iff.1 hrest).1
    · rw [oldestOpen_cons_other p n b o os (fun g hg hopen => ho ⟨g, hg, hopen⟩)] at hx
      exact later hx

/-- An OPEN grant that is older than every other of the port that names the frame is the one found (R173, R180). -/
theorem oldestOpen_eq (p n b i : Nat) (g : Grant) (os : List (Option Grant)) (hg : g.OpenFor p n)
    (hi : os[i]? = some (some g))
    (holdest : ∀ j h, os[j]? = some (some h) → h.port = p → h.frame = some n → j = i ∨ g.older h = true) :
    oldestOpen p n b os = some (b + i, g) := by
  induction os generalizing b i with
  | nil => cases hi
  | cons o os ih =>
    cases i with
    | zero =>
      obtain rfl : o = some g := Option.some.inj hi
      rw [oldestOpen_cons_open p n b g os hg]
      cases hrest : oldestOpen p n (b + 1) os with
      | none => rfl
      | some x =>
        obtain ⟨⟨k, hk⟩, hopen⟩ := oldestOpen_mem p n (b + 1) os x hrest
        have holder : g.older x.2 = true :=
          (holdest (k + 1) x.2 hk hopen.1 hopen.frame).resolve_left (Nat.succ_ne_zero k)
        simp [Option.filter, Grant.older_asymm holder]
    | succ i =>
      have hrest : oldestOpen p n (b + 1) os = some (b + (i + 1), g) := by
        rw [ih (b + 1) i hi fun j h hj hport hframe => (holdest (j + 1) h hj hport hframe).imp_left Nat.succ.inj,
          Nat.add_assoc, Nat.add_comm 1 i]
      by_cases ho : ∃ h, o = some h ∧ h.OpenFor p n
      · obtain ⟨h, rfl, hopen⟩ := ho
        have holder : g.older h = true := (holdest 0 h rfl hopen.1 hopen.frame).resolve_left (Nat.succ_ne_zero i).symm
        rw [oldestOpen_cons_open p n b h os hopen, hrest]
        simp [Option.filter, holder]
      · rw [oldestOpen_cons_other p n b o os (fun h hh hopen => ho ⟨h, hh, hopen⟩), hrest]

/-! ### A copy charged (R180, R181, R184) -/

/-- An account after a copy of a kind has been charged to it: what passes the maximum is in the saturation loss, and the
copy is counted by its kind (R180, R184). -/
def Account.copied (a : Account) (kind : GrantKind) (due : Nat) : Account :=
  { a with
    total := if a.total + due ≤ 4294967295 then a.total + due else 4294967295,
    loss := if a.total + due ≤ 4294967295 then a.loss else min 4294967295 (a.loss + (a.total + due - 4294967295)),
    plain := if kind = .plain ∧ a.plain < 65535 then a.plain + 1 else a.plain,
    certified := if kind = .certified ∧ a.certified < 65535 then a.certified + 1 else a.certified,
    statutory := if kind = .statutory ∧ a.statutory < 65535 then a.statutory + 1 else a.statutory }

/-- A charge and the count of its copy. -/
theorem Account.charge_countCopy (a : Account) (kind : GrantKind) (due : Nat) :
    (a.charge due).countCopy kind = a.copied kind due := by
  have hcharge : a.charge due = { a with
      total := if a.total + due ≤ 4294967295 then a.total + due else 4294967295,
      loss := if a.total + due ≤ 4294967295 then a.loss
        else min 4294967295 (a.loss + (a.total + due - 4294967295)) } := by
    by_cases hfits : a.total + due ≤ 4294967295 <;> simp [Account.charge, max32, hfits]
  rw [hcharge]
  cases kind <;> simp [Account.countCopy, Account.copied] <;> rfl

/-- A copy under an OPEN grant costs the fee per copy, and the certification fee with a CERTIFIED grant's first (R180). -/
theorem Grant.dueNow_opened (g : Grant) (n fee cert : Nat) (certified : Bool)
    (hstate : g.state = .opened n fee cert certified) :
    g.dueNow = fee + (if g.kind = .certified ∧ certified = false then cert else 0) := by
  simp only [Grant.dueNow, hstate, Bool.not_eq_true']

/-- An OPEN grant after one more copy (R180). -/
theorem Grant.afterCopy_opened (g : Grant) (n fee cert : Nat) (certified : Bool)
    (hstate : g.state = .opened n fee cert certified) :
    g.afterCopy = { g with charged := g.charged + 1,
                           state := .opened n fee cert (certified || g.kind == .certified) } := by
  simp only [Grant.afterCopy, hstate]

/-- The blocks once the port's cursor is idle and the copy is charged to the grant's account (R180). -/
def Run.sweepPaid (r : Run) (port : Nat) (g : Grant) : Run :=
  (r.setCursor port none).modAccount g.account (fun a => a.copied g.kind g.dueNow)

section
variable (r : Run) (p n i : Nat) (g : Grant) (holdest : oldestOpen p n 0 r.fee.grants = some (i, g))
include holdest

/-- The copy that completes a sweep under a grant with copies left raises the grant's copies charged (R180). -/
theorem Run.completeSweep_counts (hleft : ¬ g.afterCopy.copies ≤ g.afterCopy.charged) :
    r.completeSweep p n = (r.sweepPaid p g).setGrant i (some g.afterCopy) := by
  simp only [Run.completeSweep, Run.setCursor_fee, holdest, hleft, if_false, Account.charge_countCopy, Run.sweepPaid]

/-- The last copy of a grant exhausts it (R181). -/
theorem Run.completeSweep_exhausts (hlast : g.afterCopy.copies ≤ g.afterCopy.charged) :
    r.completeSweep p n = (r.sweepPaid p g).exhaust i g.afterCopy n := by
  simp only [Run.completeSweep, Run.setCursor_fee, holdest, hlast, if_true, Account.charge_countCopy, Run.sweepPaid]

end

/-! ### A grant that is used up (R6, R15, R181) -/

/-- The blocks once a used-up grant has left the table, its notice taken where it is asked for (R181). -/
def Run.grantGone (r : Run) (i : Nat) (g : Grant) (n : Nat) : Run :=
  { r with
    fee := { r.fee with grants := r.fee.grants.set i none },
    slot := if (r.slotAt g.slot).notify = some true then r.slot.takeNotice (.grantUsed g.slot n g.port g.account)
      else r.slot }

/-- In service the exhaustion of a grant is its going and the reclaim test of its frame (R181). -/
theorem Run.exhaust_inService (r : Run) (i : Nat) (g : Grant) (n : Nat) (hservice : r.startup.inService = true) :
    r.exhaust i g n = (r.grantGone i g n).checkReclaim n := by
  have hnotify : (r.setGrant i none).slotAt g.slot = r.slotAt g.slot := rfl
  unfold Run.exhaust Run.grantGone
  simp only [hnotify]
  by_cases hask : (r.slotAt g.slot).notify = some true
  · rw [if_pos hask, if_pos hask, (r.setGrant i none).notice_inService _ hservice]
    rfl
  · rw [if_neg hask, if_neg hask]
    rfl

/-- The Frame Unit after the reclaim test of a SEALED frame: one that nothing keeps joins the reclaim list (R6, R15). -/
def FrameUnit.reclaimTested (u : FrameUnit) (n : Nat) (hs : List Holder) (grants : Nat) : FrameUnit :=
  if hs = [] ∧ grants = 0 ∧ n ∉ u.reclaim then { u with reclaim := u.reclaim ++ [n] } else u

section
variable (u : Run) (n : Nat) (tag : Location) (info : PageInfo) (d c : Bool) (hs : List Holder)
  (hframe : u.frameAt n = .sealed tag info d c hs)
include hframe

/-- The use of the port by a transfer does not touch the reclaim test of a frame. -/
theorem Run.useSystem_checkReclaim (t : Transfer) (waits : Bool) :
    (u.checkReclaim n).useSystem t waits = (u.useSystem t waits).checkReclaim n := by
  rw [u.checkReclaim_sealed n tag info d c hs hframe, (u.useSystem t waits).checkReclaim_sealed n tag info d c hs hframe]
  exact apply_ite (fun r : Run => r.useSystem t waits) _ _ _

/-- A command that ends in a reclaim test, with no job waiting for frames, causes nothing more (R6, R9). -/
theorem State.act_checkReclaim (s : State) (f : Run → Run) (hf : f (Run.of s) = u.checkReclaim n) (htodo : u.todo = [])
    (hpass : u.pass = false) (hqueue : u.frame.waitQueue = []) :
    s.act f = { s.withRun u with frame := u.frame.reclaimTested n hs (u.fee.grantCount n) } := by
  rw [u.checkReclaim_sealed n tag info d c hs hframe] at hf
  unfold FrameUnit.reclaimTested
  by_cases hfree : hs = [] ∧ u.fee.grantCount n = 0 ∧ n ∉ u.frame.reclaim
  · have hlisted : (Run.serveFirst { u with frame := { u.frame with reclaim := u.frame.reclaim ++ [n] } }).todo =
        [.service] := by simp [Run.serveFirst, htodo]
    rw [if_pos hfree] at hf ⊢
    rw [s.act_then f _ _ .service hf hlisted (Run.service_idle _ hqueue) rfl hpass]
    rfl
  · rw [if_neg hfree] at hf ⊢
    rw [s.act_to f u hf htodo hpass]
    rfl

end

/-! ### The read that completes a sweep (R178 to R181, R184) -/

/-- The grant of the port to a COPIER's read of a SEALED frame that completes a sweep under a grant of its port (R29, R178,
R179). -/
theorem Run.grantPort_completesSweep (r : Run) (t : Transfer) (p i : Nat) (g : Grant) (tag : Location) (info : PageInfo)
    (d c : Bool) (hs : List Holder) (hstage : r.startup.stage ≠ .failed) (hwaiting : r.path.waiting = some t)
    (hturn : r.path.fairness < 8 ∨ r.internal = none) (hagent : r.settings.agent t.master = .copier p)
    (hread : t.write = false) (himage : frameBytes ≤ t.addr) (hframe : r.frameAt t.frame = .sealed tag info d c hs)
    (hstart : t.offset = 0 ∨ ∃ k, r.fee.cursor p = some k ∧ k.frame = t.frame ∧ k.next = t.offset)
    (hin : t.offset < info.imageLen) (hend : info.imageLen ≤ t.offset + t.len) (hg : r.fee.grants[i]? = some (some g))
    (hopen : g.OpenFor p t.frame) :
    r.grantPort = (r.completeSweep p t.frame).useSystem t r.internal.isSome := by
  have hholds : r.fee.holds p t.frame = true := r.fee.holds_of_getElem? p _ i g hg hopen.1 hopen.frame
  have hjudged : r.judgeFrame t = (.pass, r.completeSweep p t.frame) := by
    rw [r.judgeFrame_granted t p tag info d c hs hagent hread hframe hholds,
      r.applyRead_completes p _ _ _ _ hstart hin hend]
  rw [r.grantPort_system t hwaiting hturn, r.grantSystem_passes _ t hstage himage hjudged]

/-- Settles O31: the read that passes completes the sweep, which charges the oldest OPEN grant; a grant with copies left stays
in the table, and the going of one that is used up is followed by the reclaim test of its frame. -/
theorem completedSweepChargesTheAccount : Obligations.CompletedSweepChargesTheAccount := by
  unfold Obligations.CompletedSweepChargesTheAccount
  intro s x p n i tag info d c hs g fee cert certified hservice hport hwaiting hturn hagent hread himage hn hframe hstart hin
    hend hg hgport hstate holdest due charged fees
  subst hn hgport
  obtain ⟨hon, hgood⟩ := s.startup.stage_of_inService hservice
  have hopen : g.OpenFor g.port (x.addr / 131072) := ⟨rfl, fee, cert, certified, hstate⟩
  have hoverall : oldestOpen g.port (x.addr / 131072) 0 s.fee.grants = some (i, g) := by
    rw [oldestOpen_eq g.port _ 0 i g _ hopen hg fun j h hj hp hf => (holdest j h hj hp hf).imp_right (g.older_iff h).2,
      Nat.zero_add]
  have hgranted := (Run.of s).grantPort_completesSweep x g.port i g tag info d c hs hgood hwaiting hturn hagent hread himage
    hframe hstart hin hend hg hopen
  have hafter := g.afterCopy_opened _ fee cert certified hstate
  have hdue := g.dueNow_opened _ fee cert certified hstate
  rw [s.portGrant hon hport]
  refine ⟨fun hleft => congrArg Host.Outcome.next ?_, fun hlast hqueue => congrArg Host.Outcome.next ?_⟩
  · have hcounts := (Run.of s).completeSweep_counts g.port _ i g hoverall (by rw [hafter]; exact Nat.not_le.2 hleft)
    rw [s.act_to _ _ (hgranted.trans (congrArg (fun r => Run.useSystem r x _) hcounts)) rfl rfl, hafter, Run.sweepPaid, hdue]
    rfl
  · have hexhausts := (Run.of s).completeSweep_exhausts g.port _ i g hoverall (by rw [hafter]; exact hlast)
    rw [Run.exhaust_inService _ i _ _ hservice] at hexhausts
    let gone : Run := ((Run.of s).sweepPaid g.port g).grantGone i g.afterCopy (x.addr / 131072)
    have htested := hgranted.trans (congrArg (fun r => Run.useSystem r x _) hexhausts)
    rw [gone.useSystem_checkReclaim _ tag info d c hs hframe] at htested
    rw [s.act_checkReclaim (gone.useSystem x _) _ tag info d c hs hframe _ htested rfl rfl hqueue]
    simp only [gone, hafter, Run.sweepPaid, hdue]
    rfl

end Sys2Proof.Machine

namespace Sys2Proof.Machine

open Sys2Proof.Config

/-! ### The working settings and the configuration memory (R189, R195) -/

/-- Two states agree in the working settings and in the configuration memory. -/
def State.SameSetup (s t : State) : Prop := t.settings = s.settings ∧ t.config = s.config

theorem State.SameSetup.refl (s : State) : s.SameSetup s := ⟨rfl, rfl⟩

/-- An effect on the blocks, at whatever clock, is none on the settings or the configuration memory. -/
theorem State.act_sameSetup (s : State) (f : Run → Run) : s.SameSetup (s.act f) := ⟨rfl, rfl⟩

/-- A timer's expiry moves the clock and then changes the blocks only (log entry 6). -/
theorem State.reach_act_sameSetup (s : State) (n : Nat) (f : Run → Run) : s.SameSetup ((s.reach n).act f) := ⟨rfl, rfl⟩

theorem State.SameOutside.sameSetup {s t : State} (h : s.SameOutside t) : s.SameSetup t := by
  obtain ⟨hsettings, hconfig, -, -⟩ := h
  exact ⟨hsettings, hconfig⟩

theorem State.completeAccess_sameSetup (s : State) (bad : List Nat) : s.SameSetup (s.completeAccess bad) :=
  (s.completeAccess_access bad).1.sameSetup

theorem State.busTransfer_sameSetup (s : State) (t : Transfer) : s.SameSetup (s.busTransfer t) :=
  (s.busTransfer_outside t).1.sameSetup

/-- What the state that a command's meaning computes keeps, the command keeps. -/
theorem State.SameSetup.of_exec {s t u : State} {c : Instr} (h : exec c s = .next t) (hmeans : exec c s = outcome c u)
    (hu : s.SameSetup u) : s.SameSetup t := by
  rw [outcome_next c u t (hmeans.symm.trans h)]
  exact hu

/-- One of two states, each of which agrees. -/
theorem State.SameSetup.ite {s t u : State} {p : Prop} [Decidable p] (ht : s.SameSetup t) (hu : s.SameSetup u) :
    s.SameSetup (if p then t else u) := by
  split
  · exact ht
  · exact hu

/-- The completion of the access in the port, where the command is its end (log entry 10). -/
theorem State.completeAccess_ite_sameSetup (s : State) (p : Prop) [Decidable p] (bad : List Nat) :
    s.SameSetup (if p then s.completeAccess bad else s) := .ite (s.completeAccess_sameSetup bad) (.refl s)

/-- An effect on the blocks, where the command is an event (log entry 2). -/
theorem State.act_ite_sameSetup (s : State) (p : Prop) [Decidable p] (f : Run → Run) :
    s.SameSetup (if p then s.act f else s) := .ite (s.act_sameSetup f) (.refl s)

/-- Every command but the two of main power and the end of a configuration memory write leaves the working settings and
the configuration memory as they are (R189, R195). -/
theorem exec_sameSetup (c : Instr) (s t : State) (h : exec c s = .next t) (hup : ∀ d, c ≠ .powerUp d)
    (hloss : ∀ f, c ≠ .mainPowerLoss f) (hwrite : c ≠ .settingsWriteDone) : s.SameSetup t := by
  cases c with
  | powerUp d => exact absurd rfl (hup d)
  | mainPowerLoss f => exact absurd rfl (hloss f)
  | settingsWriteDone => exact absurd rfl hwrite
  | controlAreaCheckDone r =>
    exact .of_exec h rfl (.ite (State.act_sameSetup { s with mem := s.mem.checked r } _) (.refl s))
  | systemReset => exact .of_exec h rfl s.busReset_access.1.sameSetup
  | systemTransfer _ | claimRead _ _ | post _ _ | releaseClaim _ _ | releaseSlot _ _ | cancel _ _
  | stateWordRefused _ _ _ | consumerIndexWrite _ _ => exact .of_exec h rfl (s.busTransfer_sameSetup _)
  | memoryAccessComplete bad => exact .of_exec h rfl (s.completeAccess_sameSetup bad)
  | initializationDone | acceptanceReadDone _ | accountStatementRecord | logStatementRecord | inventoryStatementRecord
  | writeBackDone | noticeWriteDone | sectorPlaced => exact .of_exec h rfl (s.completeAccess_ite_sameSetup _ _)
  | bufferLoaded d bad =>
    refine .of_exec h rfl (.ite (s.completeAccess_sameSetup bad) ?_)
    split
    · exact s.act_sameSetup _
    · exact .refl s
  | portGrant | handoffPlaced _ | handoffTaken _ | hatchButton | hatchOpened | hatchClosed | loadComplete _ _
  | powerUpLoadComplete _ _ | findWritePointComplete _ _ => exact .of_exec h rfl (s.act_ite_sameSetup _ _)
  | moveEnd | reHomeEnd _ =>
    refine .of_exec h rfl ?_
    split
    · exact .refl s
    · exact s.act_ite_sameSetup _ _
  | importProbeResult _ =>
    refine .of_exec h rfl ?_
    split
    · exact .refl s
    · split
      · exact s.act_ite_sameSetup _ _
      all_goals exact .refl s
  | probeResult _ =>
    refine .of_exec h rfl ?_
    split
    · exact .refl s
    · split
      · exact s.act_sameSetup _
      all_goals exact .refl s
  | releaseWindowExpiry =>
    refine .of_exec h rfl ?_
    split
    · exact .refl s
    · exact .ite (s.reach_act_sameSetup _ _) (.refl s)
  | moveTimeout | driveTimeout _ | sweepIdleExpiry _ =>
    refine .of_exec h rfl ?_
    split
    · exact .refl s
    · exact s.reach_act_sameSetup _ _
  | readComplete _ _ =>
    refine .of_exec h rfl ?_
    split
    · exact .refl s
    · refine .ite (s.act_sameSetup _) ?_
      split
      · exact s.act_sameSetup _
      · exact s.act_ite_sameSetup _ _
  | rereadComplete _ _ =>
    refine .of_exec h rfl ?_
    split
    · exact .refl s
    · refine .ite (s.act_sameSetup _) ?_
      split
      · exact s.act_sameSetup _
      · exact .ite (.refl s) (s.act_sameSetup _)
  | relocationJobHit _ | burnComplete _ _ | verifyComplete _ _ | unloadComplete _ _ | restoreComplete _ _ =>
    refine .of_exec h rfl ?_
    split
    · exact .refl s
    · exact s.act_sameSetup _

/-- The end of a configuration memory write leaves the working settings until the next power-up (R189, R195). -/
theorem settingsWriteDone_settings (s t : State) (h : exec .settingsWriteDone s = .next t) : t.settings = s.settings := by
  rw [outcome_next .settingsWriteDone _ t h]
  split
  · rfl
  · exact State.act_settings _ _

/-- The loss of main power cuts a write of the configuration memory short and changes none of its bytes (R195). -/
theorem mainPowerLoss_config_bytes (fate : StoreFate) (s t : State) (h : exec (.mainPowerLoss fate) s = .next t) :
    t.config.bytes = s.config.bytes := by
  rw [outcome_next (.mainPowerLoss fate) _ t h]
  split <;> rfl

/-- A power-up reads the configuration memory only (R189). -/
theorem powerUp_config (d : Bool) (s t : State) (h : exec (.powerUp d) s = .next t) : t.config = s.config := by
  rw [outcome_next (.powerUp d) _ t h]
  split <;> rfl

/-- Settles O7: of the commands but the two of main power only the end of the configuration memory's write is left, and it
writes no working copy. -/
theorem settingsChangeOnlyWithMainPower : Obligations.SettingsChangeOnlyWithMainPower := by
  unfold Obligations.SettingsChangeOnlyWithMainPower
  intro c s t h hup hloss
  by_cases hwrite : c = .settingsWriteDone
  · subst hwrite
    exact settingsWriteDone_settings s t h
  · exact (exec_sameSetup c s t h hup hloss hwrite).1

/-- Settles O8: the two commands of main power beside all those that leave the configuration memory. -/
theorem configurationMemoryChangesOnlyByItsWrite : Obligations.ConfigurationMemoryChangesOnlyByItsWrite := by
  unfold Obligations.ConfigurationMemoryChangesOnlyByItsWrite
  intro c s t h hwrite
  have whole : t.config = s.config → t.config.bytes = s.config.bytes ∧ ((∀ f, c ≠ .mainPowerLoss f) → t.config = s.config) :=
    fun hconfig => ⟨congrArg ConfigMemory.bytes hconfig, fun _ => hconfig⟩
  by_cases hup : ∃ d, c = .powerUp d
  · obtain ⟨d, rfl⟩ := hup
    exact whole (powerUp_config d s t h)
  by_cases hloss : ∃ f, c = .mainPowerLoss f
  · obtain ⟨f, rfl⟩ := hloss
    exact ⟨mainPowerLoss_config_bytes f s t h, fun hnot => absurd rfl (hnot f)⟩
  · exact whole (exec_sameSetup c s t h (fun d hd => hup ⟨d, hd⟩) (fun f hf => hloss ⟨f, hf⟩) hwrite).2

end Sys2Proof.Machine

namespace Sys2Proof.Machine

open Sys2Proof.Config

/-! ### Commands that are no event (log entry 2) -/

/-- A well-formed command whose meaning leaves the state changes nothing. -/
theorem exec_unchanged {c : Instr} {s u : State} (hwf : c.wf = true) (hmeans : exec c s = outcome c u) (hu : u = s) :
    exec c s = .next s := by rw [hmeans, outcome_wf c u hwf, hu]

/-- While the mechanism's events are not taken, no move's report is one (R190). -/
theorem State.moveInProgress_none (s : State) (h : s.startup.acting = false) : s.moveInProgress = none := by
  rw [State.moveInProgress, State.acting, h, if_neg Bool.false_ne_true]

/-- The commands that report an event of the mechanism: the picker arm, the hand-off cells, the hatch and its button (R72 to
R81), but for the expiry of a release window (log entry 100). -/
def reportsMechanism : Instr → Prop
  | .moveEnd | .importProbeResult _ | .moveTimeout | .handoffPlaced _ | .handoffTaken _ | .hatchButton | .hatchOpened
  | .hatchClosed | .reHomeEnd _ | .probeResult _ => True
  | _ => False

/-- While the mechanism's events are not taken, its reports change nothing (R190, log entry 32). -/
theorem exec_mechanism_unchanged (c : Instr) (s : State) (hc : reportsMechanism c) (hwf : c.wf = true)
    (hacting : s.startup.acting = false) : exec c s = .next s := by
  have hmove := s.moveInProgress_none hacting
  have hacting : s.acting = false := hacting
  cases c with
  | moveEnd | importProbeResult _ | moveTimeout | reHomeEnd _ | probeResult _ =>
    exact exec_unchanged hwf rfl (by rw [hmove])
  | handoffPlaced _ | handoffTaken _ | hatchOpened | hatchClosed =>
    exact exec_unchanged hwf rfl (if_neg fun h => Bool.false_ne_true (hacting.symm.trans h.1))
  | hatchButton => exact exec_unchanged hwf rfl (if_neg (by rw [hacting]; exact Bool.false_ne_true))
  | _ => exact hc.elim

/-! ### A part without main power (R191, log entry 2) -/

section
variable {s : State} (h : s.Unpowered)
include h

theorem State.Unpowered.startup : s.startup = { StartUp.start false with stage := .off } := congrArg Parts.startup h

theorem State.Unpowered.stage : s.startup.stage = .off := congrArg StartUp.stage h.startup

/-- Nothing holds the memory-side port (R40). -/
theorem State.Unpowered.port : s.path.port = .free := congrArg (fun p : Parts => p.path.port) h

theorem State.Unpowered.moving : s.moving = none := by rw [State.moving, h.port]

theorem State.Unpowered.streamInPort : s.streamInPort = none := by rw [State.streamInPort, h.moving]

/-- No access is in the port that could complete (R37). -/
theorem State.Unpowered.completeAccess (bad : List Nat) : s.completeAccess bad = s := by rw [State.completeAccess, h.port]

/-- No drive has a command in progress (R99). -/
theorem State.Unpowered.command (d : Nat) : ((Run.of s).driveAt d).command = none := by
  have hdrives : s.drives = List.replicate 4 Drive.start := congrArg Parts.drives h
  have hstart : (Run.of s).driveAt d = Drive.start := by
    rw [Run.driveAt, Run.of_drives, hdrives, List.getD_eq_getElem?_getD, List.getElem?_getD_replicate_default_eq]
  rw [hstart]
  rfl

theorem State.Unpowered.issued (d : Nat) (c : Command) : s.issued d c = none := by
  rw [State.issued, h.command]
  rfl

/-- No stream loads a side label (R88). -/
theorem State.Unpowered.labelStream (d : Nat) : (Run.of s).labelStream d = none := by
  have hmover : s.mover = FrameMover.start := congrArg Parts.mover h
  rw [Run.labelStream, Run.of_mover, hmover]
  rfl

/-- Every sweep cursor is idle (R188). -/
theorem State.Unpowered.cursor (p : Nat) : s.fee.cursor p = none := by
  have hcursors : s.fee.cursors = List.replicate 8 none := congrArg (fun p : Parts => p.fee.cursors) h
  rw [FeeMeter.cursor, hcursors, List.getD_eq_getElem?_getD, List.getElem?_getD_replicate_default_eq]

/-- Without main power a transfer is no event (log entry 2). -/
theorem State.Unpowered.busTransfer (t : Transfer) : s.busTransfer t = s := if_neg fun hon => hon.1 h.stage

/-- Without main power a bus reset finds nothing to reset (R193). -/
theorem State.Unpowered.busReset : s.busReset = s := by
  have hrecord : s.recordInPort = false := by simp [State.recordInPort, h.moving]
  rw [State.busReset, hrecord, if_neg Bool.false_ne_true, State.blocksReset, h.stage]

/-- A completion that is the end of a run is no event, as it would complete an access (log entry 10). -/
theorem State.Unpowered.completeAccess_ite (p : Prop) [Decidable p] (bad : List Nat) :
    (if p then s.completeAccess bad else s) = s := by rw [h.completeAccess bad, ite_self]

/-- A drive's completion is no event (R95). -/
theorem State.Unpowered.not_issued (d : Nat) (c : Command) : ¬ (s.issued d c).isSome = true := by
  rw [h.issued]
  exact Bool.false_ne_true

end

/-- Settles O10: without main power the port is free, no drive has a command, no timer runs, and neither the mechanism nor
the bus has an event. -/
theorem withoutMainPowerOnlyPowerUpActs : Obligations.WithoutMainPowerOnlyPowerUpActs := by
  unfold Obligations.WithoutMainPowerOnlyPowerUpActs
  intro c s h hwf hup
  have hacting : s.startup.acting = false := by rw [StartUp.acting, h.stage]
  cases c with
  | powerUp d => exact absurd rfl (hup d)
  | controlAreaCheckDone _ => exact exec_unchanged hwf rfl (if_neg (by rw [h.stage]; decide))
  | systemReset => exact exec_unchanged hwf rfl h.busReset
  | systemTransfer _ | claimRead _ _ | post _ _ | releaseClaim _ _ | releaseSlot _ _ | cancel _ _
  | stateWordRefused _ _ _ | consumerIndexWrite _ _ => exact exec_unchanged hwf rfl (h.busTransfer _)
  | portGrant => exact exec_unchanged hwf rfl (if_neg fun hon => hon.1 h.stage)
  | memoryAccessComplete _ => exact exec_unchanged hwf rfl (h.completeAccess _)
  | initializationDone | acceptanceReadDone _ | accountStatementRecord | logStatementRecord | inventoryStatementRecord
  | writeBackDone | noticeWriteDone | sectorPlaced => exact exec_unchanged hwf rfl (h.completeAccess_ite _ _)
  | bufferLoaded d bad => exact exec_unchanged hwf rfl (by rw [h.labelStream, h.completeAccess bad, ite_self])
  | settingsWriteDone => exact exec_unchanged hwf rfl (by rw [h.startup]; rfl)
  | moveEnd | importProbeResult _ | moveTimeout | handoffPlaced _ | handoffTaken _ | hatchButton | hatchOpened
  | hatchClosed | reHomeEnd _ | probeResult _ => exact exec_mechanism_unchanged _ s trivial hwf hacting
  | releaseWindowExpiry =>
    have hwindow : s.picker.windowStart = none := congrArg (fun p : Parts => p.picker.windowStart) h
    exact exec_unchanged hwf rfl (by rw [hwindow])
  | loadComplete _ _ | powerUpLoadComplete _ _ => exact exec_unchanged hwf rfl (if_neg fun hc => h.not_issued _ _ hc.1)
  | findWritePointComplete _ _ => exact exec_unchanged hwf rfl (if_neg (h.not_issued _ _))
  | readComplete _ _ | rereadComplete _ _ | burnComplete _ _ | verifyComplete _ _ | unloadComplete _ _
  | restoreComplete _ _ => exact exec_unchanged hwf rfl (by rw [h.issued])
  | driveTimeout _ => exact exec_unchanged hwf rfl (by rw [h.command])
  | sweepIdleExpiry _ => exact exec_unchanged hwf rfl (by rw [h.cursor])
  | relocationJobHit _ =>
    have hjobs : s.media.relocJobs = [] := congrArg (fun p : Parts => p.media.relocJobs) h
    exact exec_unchanged hwf rfl (by rw [hjobs]; rfl)
  | mainPowerLoss _ => exact exec_unchanged hwf rfl (if_pos h.stage)

/-! ### The failed control-area check (R190) -/

/-- A failed check puts the part into the failed-check mode with the fault's code, and the record's write is the only one
left (R190). -/
theorem exec_failedCheck (s : State) (result : CheckResult) (hstage : s.startup.stage = .checking)
    (hwf : result.wf = true) (hfails : checkCodeOf result ≠ 0) :
    exec (.controlAreaCheckDone result) s =
      .next { s with
        mem := s.mem.checked result,
        startup := { s.startup with
          stage := .failed, batteryGood := s.store.good, checkCode := checkCodeOf result, initNext := some 0 } } := by
  have hends : (Run.of { s with mem := s.mem.checked result }).checkEnds result =
      { Run.of { s with mem := s.mem.checked result } with
        startup := { s.startup with
          stage := .failed, batteryGood := s.store.good, checkCode := checkCodeOf result, initNext := some 0 } } := by
    simp only [Run.checkEnds, if_neg hfails]
    rfl
  show execControlAreaCheckDone result s = _
  rw [execControlAreaCheckDone, outcome_wf (.controlAreaCheckDone result) _ hwf, if_pos hstage,
    State.act_to _ _ _ hends rfl rfl]
  rfl

/-- Settles O13: in the failed-check mode the mechanism has no event, and a check that fails ends with its code. -/
theorem failedCheckHoldsThePart : Obligations.FailedCheckHoldsThePart := by
  unfold Obligations.FailedCheckHoldsThePart
  refine ⟨fun s c hstage hwf hc => ?_, fun s a hstage ha => ⟨?_, ?_⟩⟩
  · have hacting : s.startup.acting = false := by rw [StartUp.acting, hstage]
    exact exec_mechanism_unchanged c s hc hwf hacting
  · exact exec_failedCheck s (.mismatch a) hstage (decide_eq_true ha) (Nat.succ_ne_zero 0)
  · exact exec_failedCheck s (.parity a) hstage (decide_eq_true ha) (Nat.succ_ne_zero 1)

/-! ### The loss of main power (R191, R195) -/

/-- The loss of main power leaves a part without it: only the battery-held store lives (R191). -/
theorem State.powerLost_unpowered (s : State) (fate : StoreFate) : (s.powerLost fate).Unpowered := rfl

/-- The loss of main power, where there was main power to lose. -/
theorem exec_mainPowerLoss (s : State) (fate : StoreFate) (h : s.startup.stage ≠ .off) :
    exec (.mainPowerLoss fate) s = .next (s.powerLost fate) := by
  show execMainPowerLoss fate s = _
  rw [execMainPowerLoss, if_neg h, outcome_wf _ _ rfl]

/-- Settles O17: by the state that the loss of main power leaves. -/
theorem powerLossKeepsTheBatteryHeldStore : Obligations.PowerLossKeepsTheBatteryHeldStore := by
  unfold Obligations.PowerLossKeepsTheBatteryHeldStore
  intro s fate hon
  have hstore : (s.powerLost fate).store = s.store.through fate := rfl
  have hwhole : (s.powerLost fate).config.whole = (s.config.whole && !s.startup.configWriting.isSome) := rfl
  refine ⟨s.powerLost fate, exec_mainPowerLoss s fate hon, s.powerLost_unpowered fate, rfl, ?_, rfl, ?_, rfl, rfl⟩
  · rw [hstore]
    cases fate <;> rfl
  · rw [hwhole, Option.not_isSome]

/-! ### The records at reset (R19, R40, R61, R117, R191) -/

/-- Every image frame is EMPTY and in the empty list, which ascends, and the reclaim list is empty (R3, R19). -/
theorem FrameUnit.start_listsSound (mem64 : Bool) : (FrameUnit.start mem64).ListsSound := by
  refine ⟨?_, fun n => ?_, List.nodup_nil, fun n hn => absurd hn List.not_mem_nil⟩
  · exact List.pairwise_lt_range.map _ fun _ _ hlt => Nat.add_lt_add_right hlt 1
  · show n ∈ (List.range (frameCount mem64)).map (· + 1) ↔
      0 < n ∧ (List.replicate (frameCount mem64) Frame.empty)[n - 1]? = some Frame.empty
    rw [List.mem_map, List.getElem?_replicate]
    constructor
    · rintro ⟨i, hi, rfl⟩
      exact ⟨i.succ_pos, if_pos (List.mem_range.1 hi)⟩
    · rintro ⟨hpos, hget⟩
      refine ⟨n - 1, List.mem_range.2 ?_, Nat.sub_add_cancel hpos⟩
      by_contra hout
      rw [if_neg hout] at hget
      exact absurd hget (by decide)

/-- The power-up values of the blocks are sound over any store that has no serial and no old location twice (R65, R163). -/
theorem Parts.start_recordsSound (mem64 settingsGood : Bool) (fees : List FeeRow) (x : Store)
    (hserials : (serialsOf x.volumes).Nodup) (hrelocs : (oldLocationsOf x.relocs).Nodup) :
    (Parts.start mem64 settingsGood fees x).RecordsSound := by
  refine ⟨?fairness, ?producer, ?consumer, ?ring, ?suspended, hserials, hrelocs, FrameUnit.start_listsSound mem64⟩
  case fairness => exact Nat.zero_le 8
  case producer | consumer => exact Nat.zero_lt_succ 63
  case ring => exact show (0 + 64 - 0) % 64 + 0 ≤ 63 by decide
  case suspended => exact Nat.zero_le 6

/-- Settles O5: memory is blank, and the blocks have their power-up values over a store with no volume and no relocation
entry in use. -/
theorem resetMemoryIsCanonical : Obligations.ResetMemoryIsCanonical := by
  unfold Obligations.ResetMemoryIsCanonical
  have hserials : serialsOf Store.lost.volumes = [] := by simp [serialsOf, Store.lost]
  have hrelocs : oldLocationsOf Store.lost.relocs = [] := by simp [oldLocationsOf, Store.lost, RelocEntry.oldLocation]
  exact ⟨Memory.blank_wf, Parts.start_recordsSound false false zeroFees { Store.lost with retention := false }
    (hserials.symm ▸ List.nodup_nil) (hrelocs.symm ▸ List.nodup_nil)⟩

end Sys2Proof.Machine

namespace Sys2Proof.Machine

open Sys2Proof.Config

/-! ### The queue and the clock (00_scope.md 5.3, log entries 1 and 6) -/

/-- With a command at the front of the queue a step is that command's. -/
theorem step_cons (s : State) (c : Instr) (rest : List Instr) (h : s.pending = c :: rest) :
    step s = exec c { s with pending := rest } := by rw [step, h]

/-- With an empty queue a step is a tenth of a second (log entry 1). -/
theorem step_nil (s : State) (h : s.pending = []) : step s = .next { s with now := s.now + 1 } := by rw [step, h]

/-- Settles O1: the step of a queue that is not empty. -/
theorem stepRunsTheCommandInFront : Obligations.StepRunsTheCommandInFront := by
  unfold Obligations.StepRunsTheCommandInFront
  exact step_cons

/-- Settles O2: the step of an empty queue. -/
theorem emptyQueueLetsATenthOfASecondPass : Obligations.EmptyQueueLetsATenthOfASecondPass := by
  unfold Obligations.EmptyQueueLetsATenthOfASecondPass
  exact step_nil

/-- The commands that say that a timer has expired: of the arm's move (R74), of the release window (R79), of a drive's
command (R95) and of a sweep (R182). -/
def reportsExpiry : Instr → Prop
  | .moveTimeout | .releaseWindowExpiry | .driveTimeout _ | .sweepIdleExpiry _ => True
  | _ => False

theorem State.SameOutside.now_eq {s t : State} (h : s.SameOutside t) : t.now = s.now := by
  obtain ⟨-, -, hnow, -⟩ := h
  exact hnow

/-- The completion of an access takes no time of the model's clock. -/
theorem State.completeAccess_now (s : State) (bad : List Nat) : (s.completeAccess bad).now = s.now :=
  (s.completeAccess_access bad).1.now_eq

/-- A timer's expiry finds the clock at its deadline or beyond it (log entry 6). -/
theorem State.now_le_reach_act (s : State) (deadline : Nat) (f : Run → Run) : s.now ≤ ((s.reach deadline).act f).now := by
  rw [State.act_now, State.reach_now]
  exact le_max_left s.now deadline

/-- The next state of a command is the state that its meaning computes. -/
theorem exec_next {c : Instr} {s t u : State} (h : exec c s = .next t) (hmeans : exec c s = outcome c u) : t = u :=
  outcome_next c u t (hmeans.symm.trans h)

/-- No command but a timer's expiry moves the clock (log entry 6). -/
theorem exec_now_eq (c : Instr) (s t : State) (h : exec c s = .next t) (hc : ¬ reportsExpiry c) : t.now = s.now := by
  cases c with
  | moveTimeout | releaseWindowExpiry | driveTimeout _ | sweepIdleExpiry _ => exact absurd trivial hc
  | systemReset => exact exec_next h rfl ▸ s.busReset_access.1.now_eq
  | systemTransfer _ | claimRead _ _ | post _ _ | releaseClaim _ _ | releaseSlot _ _ | cancel _ _
  | stateWordRefused _ _ _ | consumerIndexWrite _ _ => exact exec_next h rfl ▸ (s.busTransfer_outside _).1.now_eq
  | memoryAccessComplete _ => exact exec_next h rfl ▸ s.completeAccess_now _
  | initializationDone | acceptanceReadDone _ | accountStatementRecord | logStatementRecord | inventoryStatementRecord
  | writeBackDone | noticeWriteDone | sectorPlaced =>
    rw [exec_next h rfl, apply_ite State.now, State.completeAccess_now, ite_self]
  | bufferLoaded _ _ =>
    rw [exec_next h rfl, apply_ite State.now, State.completeAccess_now]
    split
    · rfl
    · split <;> rfl
  | powerUp _ | mainPowerLoss _ | controlAreaCheckDone _ | settingsWriteDone | portGrant | handoffPlaced _
  | handoffTaken _ | hatchButton | hatchOpened | hatchClosed | loadComplete _ _ | powerUpLoadComplete _ _
  | findWritePointComplete _ _ | relocationJobHit _ | burnComplete _ _ | verifyComplete _ _ | unloadComplete _ _
  | restoreComplete _ _ =>
    rw [exec_next h rfl]
    split <;> rfl
  | moveEnd | reHomeEnd _ | importProbeResult _ | probeResult _ | readComplete _ _ | rereadComplete _ _ =>
    rw [exec_next h rfl]
    repeat' split
    all_goals rfl

/-- No command sets the clock back: a timer's expiry sets it to the deadline if that is later. -/
theorem exec_now_le (c : Instr) (s t : State) (h : exec c s = .next t) : s.now ≤ t.now := by
  by_cases hc : reportsExpiry c
  · cases c with
    | moveTimeout | driveTimeout _ | sweepIdleExpiry _ =>
      rw [exec_next h rfl]
      split
      · exact le_refl s.now
      · exact s.now_le_reach_act _ _
    | releaseWindowExpiry =>
      rw [exec_next h rfl]
      split
      · exact le_refl s.now
      · split
        · exact s.now_le_reach_act _ _
        · exact le_refl s.now
    | _ => exact hc.elim
  · exact (exec_now_eq c s t h hc).ge

/-- Settles O6: a step is a tenth of a second or the command at the front of the queue, and neither sets the clock back. -/
theorem clockNeverRunsBack : Obligations.ClockNeverRunsBack := by
  unfold Obligations.ClockNeverRunsBack
  intro s t h
  cases hq : s.pending with
  | nil =>
    rw [step_nil s hq] at h
    cases h
    exact Nat.le_succ s.now
  | cons c rest =>
    rw [step_cons s c rest hq] at h
    exact exec_now_le c { s with pending := rest } t h

end Sys2Proof.Machine
